-- ==== Sys2Proof/Word.lean ====
section
/-!
DEFINITION. The word types of the PowerPC 602: 32-bit words, bytes and register numbers
(spec/00_scope.md R9, R12).
-/
namespace Sys2Proof

/-- A 32-bit word: a register, an address, an instruction (R9). -/
abbrev Word := BitVec 32

/-- A byte, the unit of addressing (spec/20_memory.md R141). -/
abbrev Byte := BitVec 8

/-- The number of a general or floating-point register (spec/10_state.md R40, R43). -/
abbrev Reg := BitVec 5

end Sys2Proof
end

