-- ==== Sys2Proof/Syntax.lean ====
section
/-!
DEFINITION. The instructions of the PowerPC 602: one constructor per row of spec/opcode_table.json, its fields in the
order of the encoding (spec/30_encoding.md R243). Immediates are the raw fields; Rc, OE, LK and AA are Bools; `spr` and
`tbr` hold the register NUMBER, its halves put right (R256). A mnemonic that ends in a dot ends in `Rc` here.
-/
namespace Sys2Proof

/-- The 191 instructions. `stwcxRc` carries I<31>, which must be 1 (R270). -/
inductive Instr
  -- Flow control (spec/44)
  | twi (trapOn : BitVec 5) (rA : Reg) (simm : BitVec 16)
  -- Integer arithmetic and compare (spec/40)
  | mulli (rD rA : Reg) (simm : BitVec 16)
  | subfic (rD rA : Reg) (simm : BitVec 16)
  | addic (rD rA : Reg) (simm : BitVec 16)
  | addicRc (rD rA : Reg) (simm : BitVec 16)
  | addi (rD rA : Reg) (simm : BitVec 16)
  | addis (rD rA : Reg) (simm : BitVec 16)
  -- Logical, rotate and shift (spec/41)
  | ori (rS rA : Reg) (uimm : BitVec 16)
  | oris (rS rA : Reg) (uimm : BitVec 16)
  | xori (rS rA : Reg) (uimm : BitVec 16)
  | xoris (rS rA : Reg) (uimm : BitVec 16)
  | andiRc (rS rA : Reg) (uimm : BitVec 16)
  | andisRc (rS rA : Reg) (uimm : BitVec 16)
  -- Integer arithmetic and compare (spec/40)
  | cmpli (crfD : BitVec 3) (l : BitVec 1) (rA : Reg) (uimm : BitVec 16)
  | cmpi (crfD : BitVec 3) (l : BitVec 1) (rA : Reg) (simm : BitVec 16)
  -- Flow control (spec/44)
  | bc (bo bi : BitVec 5) (bd : BitVec 14) (aa lk : Bool)
  | sc
  | b (li : BitVec 24) (aa lk : Bool)
  | mcrf (crfD crfS : BitVec 3)
  | bclr (bo bi : BitVec 5) (lk : Bool)
  | rfi
  -- Processor control (spec/45)
  | isync
  -- Flow control (spec/44)
  | bcctr (bo bi : BitVec 5) (lk : Bool)
  | crnor (crbD crbA crbB : BitVec 5)
  | crandc (crbD crbA crbB : BitVec 5)
  | crxor (crbD crbA crbB : BitVec 5)
  | crnand (crbD crbA crbB : BitVec 5)
  | crand (crbD crbA crbB : BitVec 5)
  | creqv (crbD crbA crbB : BitVec 5)
  | crorc (crbD crbA crbB : BitVec 5)
  | cror (crbD crbA crbB : BitVec 5)
  -- Logical, rotate and shift (spec/41)
  | rlwimi (rS rA : Reg) (sh mb me : BitVec 5) (rc : Bool)
  | rlwinm (rS rA : Reg) (sh mb me : BitVec 5) (rc : Bool)
  | rlwnm (rS rA rB : Reg) (mb me : BitVec 5) (rc : Bool)
  -- Integer arithmetic and compare (spec/40)
  | subfc (rD rA rB : Reg) (oe rc : Bool)
  | addc (rD rA rB : Reg) (oe rc : Bool)
  | subf (rD rA rB : Reg) (oe rc : Bool)
  | neg (rD rA : Reg) (oe rc : Bool)
  | subfe (rD rA rB : Reg) (oe rc : Bool)
  | adde (rD rA rB : Reg) (oe rc : Bool)
  | subfze (rD rA : Reg) (oe rc : Bool)
  | addze (rD rA : Reg) (oe rc : Bool)
  | subfme (rD rA : Reg) (oe rc : Bool)
  | addme (rD rA : Reg) (oe rc : Bool)
  | mullw (rD rA rB : Reg) (oe rc : Bool)
  | add (rD rA rB : Reg) (oe rc : Bool)
  | divwu (rD rA rB : Reg) (oe rc : Bool)
  | divw (rD rA rB : Reg) (oe rc : Bool)
  | mulhwu (rD rA rB : Reg) (rc : Bool)
  | mulhw (rD rA rB : Reg) (rc : Bool)
  | cmp (crfD : BitVec 3) (l : BitVec 1) (rA rB : Reg)
  | cmpl (crfD : BitVec 3) (l : BitVec 1) (rA rB : Reg)
  -- Flow control (spec/44)
  | tw (trapOn : BitVec 5) (rA rB : Reg)
  -- Logical, rotate and shift (spec/41)
  | slw (rS rA rB : Reg) (rc : Bool)
  | and (rS rA rB : Reg) (rc : Bool)
  | andc (rS rA rB : Reg) (rc : Bool)
  | nor (rS rA rB : Reg) (rc : Bool)
  | eqv (rS rA rB : Reg) (rc : Bool)
  | xor (rS rA rB : Reg) (rc : Bool)
  | orc (rS rA rB : Reg) (rc : Bool)
  | or (rS rA rB : Reg) (rc : Bool)
  | nand (rS rA rB : Reg) (rc : Bool)
  | srw (rS rA rB : Reg) (rc : Bool)
  | sraw (rS rA rB : Reg) (rc : Bool)
  | srawi (rS rA : Reg) (sh : BitVec 5) (rc : Bool)
  | cntlzw (rS rA : Reg) (rc : Bool)
  | extsh (rS rA : Reg) (rc : Bool)
  | extsb (rS rA : Reg) (rc : Bool)
  -- Processor control (spec/45)
  | mfcr (rD : Reg)
  | mfmsr (rD : Reg)
  | mtcrf (rS : Reg) (crm : BitVec 8)
  | mtmsr (rS : Reg)
  | mfspr (rD : Reg) (spr : BitVec 10)
  | mftb (rD : Reg) (tbr : BitVec 10)
  | mtspr (rS : Reg) (spr : BitVec 10)
  | mcrxr (crfD : BitVec 3)
  -- Load and store (spec/43)
  | lwzx (rD rA rB : Reg)
  | lwzux (rD rA rB : Reg)
  | lbzx (rD rA rB : Reg)
  | lbzux (rD rA rB : Reg)
  | lhzx (rD rA rB : Reg)
  | lhzux (rD rA rB : Reg)
  | lhax (rD rA rB : Reg)
  | lhaux (rD rA rB : Reg)
  | stwx (rS rA rB : Reg)
  | stwux (rS rA rB : Reg)
  | stbx (rS rA rB : Reg)
  | stbux (rS rA rB : Reg)
  | sthx (rS rA rB : Reg)
  | sthux (rS rA rB : Reg)
  | lwbrx (rD rA rB : Reg)
  | lhbrx (rD rA rB : Reg)
  | stwbrx (rS rA rB : Reg)
  | sthbrx (rS rA rB : Reg)
  | lwarx (rD rA rB : Reg)
  | stwcxRc (rS rA rB : Reg) (rc : Bool)
  | lswx (rD rA rB : Reg)
  | lswi (rD rA : Reg) (nb : BitVec 5)
  | stswx (rS rA rB : Reg)
  | stswi (rS rA : Reg) (nb : BitVec 5)
  | lfsx (frD rA rB : Reg)
  | lfsux (frD rA rB : Reg)
  | lfdx (frD rA rB : Reg)
  | lfdux (frD rA rB : Reg)
  | stfsx (frS rA rB : Reg)
  | stfsux (frS rA rB : Reg)
  | stfdx (frS rA rB : Reg)
  | stfdux (frS rA rB : Reg)
  | stfiwx (frS rA rB : Reg)
  | eciwx (rD rA rB : Reg)
  | ecowx (rS rA rB : Reg)
  -- Memory control (spec/46)
  | dcbst (rA rB : Reg)
  | dcbf (rA rB : Reg)
  | dcbtst (rA rB : Reg)
  | dcbt (rA rB : Reg)
  | dcbi (rA rB : Reg)
  | icbi (rA rB : Reg)
  | dcbz (rA rB : Reg)
  | mtsr (rS : Reg) (srn : BitVec 4)
  | mtsrin (rS rB : Reg)
  | mfsr (rD : Reg) (srn : BitVec 4)
  | mfsrin (rD rB : Reg)
  | tlbie (rB : Reg)
  | tlbia
  | tlbsync
  -- Processor control (spec/45)
  | esa
  | dsa
  | sync
  | eieio
  -- Memory control (spec/46)
  | tlbld (rB : Reg)
  | tlbli (rB : Reg)
  -- Load and store (spec/43)
  | lwz (rD rA : Reg) (d : BitVec 16)
  | lwzu (rD rA : Reg) (d : BitVec 16)
  | lbz (rD rA : Reg) (d : BitVec 16)
  | lbzu (rD rA : Reg) (d : BitVec 16)
  | stw (rS rA : Reg) (d : BitVec 16)
  | stwu (rS rA : Reg) (d : BitVec 16)
  | stb (rS rA : Reg) (d : BitVec 16)
  | stbu (rS rA : Reg) (d : BitVec 16)
  | lhz (rD rA : Reg) (d : BitVec 16)
  | lhzu (rD rA : Reg) (d : BitVec 16)
  | lha (rD rA : Reg) (d : BitVec 16)
  | lhau (rD rA : Reg) (d : BitVec 16)
  | sth (rS rA : Reg) (d : BitVec 16)
  | sthu (rS rA : Reg) (d : BitVec 16)
  | lmw (rD rA : Reg) (d : BitVec 16)
  | stmw (rS rA : Reg) (d : BitVec 16)
  | lfs (frD rA : Reg) (d : BitVec 16)
  | lfsu (frD rA : Reg) (d : BitVec 16)
  | lfd (frD rA : Reg) (d : BitVec 16)
  | lfdu (frD rA : Reg) (d : BitVec 16)
  | stfs (frS rA : Reg) (d : BitVec 16)
  | stfsu (frS rA : Reg) (d : BitVec 16)
  | stfd (frS rA : Reg) (d : BitVec 16)
  | stfdu (frS rA : Reg) (d : BitVec 16)
  -- Floating point (spec/42)
  | fdivs (frD frA frB : Reg) (rc : Bool)
  | fsubs (frD frA frB : Reg) (rc : Bool)
  | fadds (frD frA frB : Reg) (rc : Bool)
  | fres (frD frB : Reg) (rc : Bool)
  | fmuls (frD frA frC : Reg) (rc : Bool)
  | fmsubs (frD frA frB frC : Reg) (rc : Bool)
  | fmadds (frD frA frB frC : Reg) (rc : Bool)
  | fnmsubs (frD frA frB frC : Reg) (rc : Bool)
  | fnmadds (frD frA frB frC : Reg) (rc : Bool)
  | fsqrts (frD frB : Reg) (rc : Bool)
  | fdiv (frD frA frB : Reg) (rc : Bool)
  | fsub (frD frA frB : Reg) (rc : Bool)
  | fadd (frD frA frB : Reg) (rc : Bool)
  | fmul (frD frA frC : Reg) (rc : Bool)
  | fmsub (frD frA frB frC : Reg) (rc : Bool)
  | fmadd (frD frA frB frC : Reg) (rc : Bool)
  | fnmsub (frD frA frB frC : Reg) (rc : Bool)
  | fnmadd (frD frA frB frC : Reg) (rc : Bool)
  | fsel (frD frA frB frC : Reg) (rc : Bool)
  | fsqrt (frD frB : Reg) (rc : Bool)
  | frsqrte (frD frB : Reg) (rc : Bool)
  | fcmpu (crfD : BitVec 3) (frA frB : Reg)
  | fcmpo (crfD : BitVec 3) (frA frB : Reg)
  | frsp (frD frB : Reg) (rc : Bool)
  | fctiw (frD frB : Reg) (rc : Bool)
  | fctiwz (frD frB : Reg) (rc : Bool)
  | fneg (frD frB : Reg) (rc : Bool)
  | fmr (frD frB : Reg) (rc : Bool)
  | fnabs (frD frB : Reg) (rc : Bool)
  | fabs (frD frB : Reg) (rc : Bool)
  | mtfsb1 (crbD : BitVec 5) (rc : Bool)
  | mtfsb0 (crbD : BitVec 5) (rc : Bool)
  | mcrfs (crfD crfS : BitVec 3)
  | mtfsfi (crfD : BitVec 3) (imm : BitVec 4) (rc : Bool)
  | mffs (frD : Reg) (rc : Bool)
  | mtfsf (fm : BitVec 8) (frB : Reg) (rc : Bool)
deriving DecidableEq, Repr

end Sys2Proof
end

