-- ==== Sys2Proof/WellFormed.lean ====
section
/-!
DEFINITION. Which instructions are well formed: the operand constraints of an invalid form
(spec/30_encoding.md R270 b). A word that violates one decodes, and its meaning refuses it by name (D11).
-/
namespace Sys2Proof

/-- An update form with rA = 0 is invalid (spec/43_load_store.md R480). -/
def updateOk (rA : Reg) : Bool := rA != 0

/-- An integer update load with rA = 0 or rA = rD is invalid (R480). -/
def updateLoadOk (rD rA : Reg) : Bool := rA != 0 && rA != rD

/-- `lmw` with rA in rD..31 is invalid (spec/43_load_store.md R520). -/
def lmwOk (rD rA : Reg) : Bool := decide (rA < rD)

/-- A compare with L = 1 is invalid (spec/40_integer_arithmetic_compare.md R330). -/
def compareOk (l : BitVec 1) : Bool := l == 0

/-- A BO field with no z bit set (spec/30_encoding.md R258). -/
def boOk (bo : BitVec 5) : Bool :=
  match bo.getLsbD 4, bo.getLsbD 2 with
  | false, false => true
  | false, true => !bo.getLsbD 1
  | true, false => !bo.getLsbD 3
  | true, true => !bo.getLsbD 3 && !bo.getLsbD 1 && !bo.getLsbD 0

/-- `bcctr` also needs BO<2> = 1 (spec/44_flow_control.md R576). -/
def bcctrOk (bo : BitVec 5) : Bool := boOk bo && bo.getLsbD 2

/-- The instruction is no invalid form (R270 b). -/
def Instr.wellFormed : Instr → Bool
  | .cmpi _ l _ _ | .cmpli _ l _ _ | .cmp _ l _ _ | .cmpl _ l _ _ => compareOk l
  | .bc bo _ _ _ _ | .bclr bo _ _ => boOk bo
  | .bcctr bo _ _ => bcctrOk bo
  | .lbzu rD rA _ | .lhzu rD rA _ | .lhau rD rA _ | .lwzu rD rA _ => updateLoadOk rD rA
  | .lbzux rD rA _ | .lhzux rD rA _ | .lhaux rD rA _ | .lwzux rD rA _ => updateLoadOk rD rA
  | .stbu _ rA _ | .sthu _ rA _ | .stwu _ rA _ => updateOk rA
  | .stbux _ rA _ | .sthux _ rA _ | .stwux _ rA _ => updateOk rA
  | .lfsu _ rA _ | .lfdu _ rA _ | .stfsu _ rA _ | .stfdu _ rA _ => updateOk rA
  | .lfsux _ rA _ | .lfdux _ rA _ | .stfsux _ rA _ | .stfdux _ rA _ => updateOk rA
  | .lmw rD rA _ => lmwOk rD rA
  | .stwcxRc _ _ _ rc => rc
  | .twi .. | .mulli .. | .subfic .. | .addic .. | .addicRc .. | .addi .. | .addis .. | .ori .. | .oris ..
  | .xori .. | .xoris .. | .andiRc .. | .andisRc .. | .sc | .b .. | .mcrf .. | .rfi | .isync | .crnor ..
  | .crandc .. | .crxor .. | .crnand .. | .crand .. | .creqv .. | .crorc .. | .cror .. | .rlwimi ..
  | .rlwinm .. | .rlwnm .. | .subfc .. | .addc .. | .subf .. | .neg .. | .subfe .. | .adde .. | .subfze ..
  | .addze .. | .subfme .. | .addme .. | .mullw .. | .add .. | .divwu .. | .divw .. | .mulhwu .. | .mulhw ..
  | .tw .. | .slw .. | .and .. | .andc .. | .nor .. | .eqv .. | .xor .. | .orc .. | .or .. | .nand ..
  | .srw .. | .sraw .. | .srawi .. | .cntlzw .. | .extsh .. | .extsb .. | .mfcr .. | .mfmsr .. | .mtcrf ..
  | .mtmsr .. | .mfspr .. | .mftb .. | .mtspr .. | .mcrxr .. | .lwzx .. | .lbzx .. | .lhzx .. | .lhax ..
  | .stwx .. | .stbx .. | .sthx .. | .lwbrx .. | .lhbrx .. | .stwbrx .. | .sthbrx .. | .lwarx .. | .lswx ..
  | .lswi .. | .stswx .. | .stswi .. | .lfsx .. | .lfdx .. | .stfsx .. | .stfdx .. | .stfiwx .. | .eciwx ..
  | .ecowx .. | .dcbst .. | .dcbf .. | .dcbtst .. | .dcbt .. | .dcbi .. | .icbi .. | .dcbz .. | .mtsr ..
  | .mtsrin .. | .mfsr .. | .mfsrin .. | .tlbie .. | .tlbia | .tlbsync | .esa | .dsa | .sync | .eieio
  | .tlbld .. | .tlbli .. | .lwz .. | .lbz .. | .stw .. | .stb .. | .lhz .. | .lha .. | .sth .. | .stmw ..
  | .lfs .. | .lfd .. | .stfs .. | .stfd .. | .fdivs .. | .fsubs .. | .fadds .. | .fres .. | .fmuls ..
  | .fmsubs .. | .fmadds .. | .fnmsubs .. | .fnmadds .. | .fsqrts .. | .fdiv .. | .fsub .. | .fadd ..
  | .fmul .. | .fmsub .. | .fmadd .. | .fnmsub .. | .fnmadd .. | .fsel .. | .fsqrt .. | .frsqrte ..
  | .fcmpu .. | .fcmpo .. | .frsp .. | .fctiw .. | .fctiwz .. | .fneg .. | .fmr .. | .fnabs .. | .fabs ..
  | .mtfsb1 .. | .mtfsb0 .. | .mcrfs .. | .mtfsfi .. | .mffs .. | .mtfsf .. => true

end Sys2Proof
end

