-- ==== Sys2Proof/Decode.lean ====
section
/-!
DEFINITION. Decoding and encoding (spec/30_encoding.md R240 to R272, spec/opcode_table.json).
The formats, positions and opcodes are the spec's own (its D1). The four 602-specific extended opcodes are the suggested
values of the open parameters XO_TLBLD, XO_TLBLI, XO_ESA, XO_DSA (R10, D38): PRESUMED, unsafe, log entry 4.
-/
namespace Sys2Proof

/-- Why a word is no instruction: `illegal` where no row of the opcode table matches (R241 step 4, R271: the machine
takes the illegal-instruction program exception); `invalidForm` where a row matches and a reserved bit is 1 (R241 step 5,
R270: the machine refuses); `truncated` where fewer than four bytes are given. -/
inductive DecodeError
  | illegal | invalidForm | truncated
deriving DecidableEq, Repr

/-- `XO_TLBLD` (R269). PRESUMED 978. -/
def xoTlbld : Nat := 978
/-- `XO_TLBLI` (R269). PRESUMED 1010. -/
def xoTlbli : Nat := 1010
/-- `XO_ESA` (R269). PRESUMED 596. -/
def xoEsa : Nat := 596
/-- `XO_DSA` (R269). PRESUMED 628. -/
def xoDsa : Nat := 628

/-- The primary opcode I<0..5> (R243). -/
def opcd (w : Word) : BitVec 6 := w.extractLsb' 26 6
/-- I<6..10>: rD, rS, frD, frS, TO, BO, crbD. -/
def fA (w : Word) : BitVec 5 := w.extractLsb' 21 5
/-- I<11..15>: rA, frA, BI, crbA. -/
def fB (w : Word) : BitVec 5 := w.extractLsb' 16 5
/-- I<16..20>: rB, frB, crbB, SH, NB. -/
def fC (w : Word) : BitVec 5 := w.extractLsb' 11 5
/-- I<21..25>: frC, MB. -/
def fD (w : Word) : BitVec 5 := w.extractLsb' 6 5
/-- I<26..30>: ME, the A-form extended opcode. -/
def fE (w : Word) : BitVec 5 := w.extractLsb' 1 5
/-- I<21..30>: the 10-bit extended opcode. -/
def fXo (w : Word) : BitVec 10 := w.extractLsb' 1 10
/-- I<16..31>: d, SIMM, UIMM. -/
def fImm (w : Word) : BitVec 16 := w.extractLsb' 0 16
/-- I<11..20>: spr, tbr, and CRM with its two reserved neighbours. -/
def fBC (w : Word) : BitVec 10 := w.extractLsb' 11 10
/-- I<6..15>: FM with its two reserved neighbours. -/
def fAB (w : Word) : BitVec 10 := w.extractLsb' 16 10

/-- The two 5-bit halves of an spr field, swapped: field to number and number to field (R256). -/
def sprSwap (n : BitVec 10) : BitVec 10 := n.extractLsb' 0 5 ++ n.extractLsb' 5 5

/-- The decoded row, or an invalid form where a reserved bit is 1 (R241 step 5). -/
def reservedZero (bad : Bool) (i : Instr) : Except DecodeError Instr :=
  if bad then .error .invalidForm else .ok i

/-- Opcode 19, extended opcode in I<21..30> (R266). -/
def decode19 (w : Word) : Except DecodeError Instr :=
  match (fXo w).toNat with
  | 0 => reservedZero (((fA w).extractLsb' 0 2) != 0 || ((fB w).extractLsb' 0 2) != 0 || (fC w) != 0 || w.getLsbD 0) (.mcrf ((fA w).extractLsb' 2 3) ((fB w).extractLsb' 2 3))
  | 16 => reservedZero ((fC w) != 0) (.bclr (fA w) (fB w) (w.getLsbD 0))
  | 33 => reservedZero (w.getLsbD 0) (.crnor (fA w) (fB w) (fC w))
  | 50 => reservedZero ((fA w) != 0 || (fB w) != 0 || (fC w) != 0 || w.getLsbD 0) (.rfi)
  | 129 => reservedZero (w.getLsbD 0) (.crandc (fA w) (fB w) (fC w))
  | 150 => reservedZero ((fA w) != 0 || (fB w) != 0 || (fC w) != 0 || w.getLsbD 0) (.isync)
  | 193 => reservedZero (w.getLsbD 0) (.crxor (fA w) (fB w) (fC w))
  | 225 => reservedZero (w.getLsbD 0) (.crnand (fA w) (fB w) (fC w))
  | 257 => reservedZero (w.getLsbD 0) (.crand (fA w) (fB w) (fC w))
  | 289 => reservedZero (w.getLsbD 0) (.creqv (fA w) (fB w) (fC w))
  | 417 => reservedZero (w.getLsbD 0) (.crorc (fA w) (fB w) (fC w))
  | 449 => reservedZero (w.getLsbD 0) (.cror (fA w) (fB w) (fC w))
  | 528 => reservedZero ((fC w) != 0) (.bcctr (fA w) (fB w) (w.getLsbD 0))
  | _ => .error .illegal

/-- Opcode 31, extended opcode in I<21..30>; with OE = 1 the value is 512 more (R267, R269). -/
def decode31 (w : Word) : Except DecodeError Instr :=
  let xo := (fXo w).toNat
  if xo = xoEsa then reservedZero ((fA w) != 0 || (fB w) != 0 || (fC w) != 0 || w.getLsbD 0) (.esa)
  else if xo = xoDsa then reservedZero ((fA w) != 0 || (fB w) != 0 || (fC w) != 0 || w.getLsbD 0) (.dsa)
  else if xo = xoTlbld then reservedZero ((fA w) != 0 || (fB w) != 0 || w.getLsbD 0) (.tlbld (fC w))
  else if xo = xoTlbli then reservedZero ((fA w) != 0 || (fB w) != 0 || w.getLsbD 0) (.tlbli (fC w))
  else match xo with
  | 0 => reservedZero ((fA w).getLsbD 1 || w.getLsbD 0) (.cmp ((fA w).extractLsb' 2 3) ((fA w).extractLsb' 0 1) (fB w) (fC w))
  | 4 => reservedZero (w.getLsbD 0) (.tw (fA w) (fB w) (fC w))
  | 8 => .ok (.subfc (fA w) (fB w) (fC w) false (w.getLsbD 0))
  | 10 => .ok (.addc (fA w) (fB w) (fC w) false (w.getLsbD 0))
  | 11 => .ok (.mulhwu (fA w) (fB w) (fC w) (w.getLsbD 0))
  | 19 => reservedZero ((fB w) != 0 || (fC w) != 0 || w.getLsbD 0) (.mfcr (fA w))
  | 20 => reservedZero (w.getLsbD 0) (.lwarx (fA w) (fB w) (fC w))
  | 23 => reservedZero (w.getLsbD 0) (.lwzx (fA w) (fB w) (fC w))
  | 24 => .ok (.slw (fA w) (fB w) (fC w) (w.getLsbD 0))
  | 26 => reservedZero ((fC w) != 0) (.cntlzw (fA w) (fB w) (w.getLsbD 0))
  | 28 => .ok (.and (fA w) (fB w) (fC w) (w.getLsbD 0))
  | 32 => reservedZero ((fA w).getLsbD 1 || w.getLsbD 0) (.cmpl ((fA w).extractLsb' 2 3) ((fA w).extractLsb' 0 1) (fB w) (fC w))
  | 40 => .ok (.subf (fA w) (fB w) (fC w) false (w.getLsbD 0))
  | 54 => reservedZero ((fA w) != 0 || w.getLsbD 0) (.dcbst (fB w) (fC w))
  | 55 => reservedZero (w.getLsbD 0) (.lwzux (fA w) (fB w) (fC w))
  | 60 => .ok (.andc (fA w) (fB w) (fC w) (w.getLsbD 0))
  | 75 => .ok (.mulhw (fA w) (fB w) (fC w) (w.getLsbD 0))
  | 83 => reservedZero ((fB w) != 0 || (fC w) != 0 || w.getLsbD 0) (.mfmsr (fA w))
  | 86 => reservedZero ((fA w) != 0 || w.getLsbD 0) (.dcbf (fB w) (fC w))
  | 87 => reservedZero (w.getLsbD 0) (.lbzx (fA w) (fB w) (fC w))
  | 104 => reservedZero ((fC w) != 0) (.neg (fA w) (fB w) false (w.getLsbD 0))
  | 119 => reservedZero (w.getLsbD 0) (.lbzux (fA w) (fB w) (fC w))
  | 124 => .ok (.nor (fA w) (fB w) (fC w) (w.getLsbD 0))
  | 136 => .ok (.subfe (fA w) (fB w) (fC w) false (w.getLsbD 0))
  | 138 => .ok (.adde (fA w) (fB w) (fC w) false (w.getLsbD 0))
  | 144 => reservedZero ((fBC w).getLsbD 9 || (fBC w).getLsbD 0 || w.getLsbD 0) (.mtcrf (fA w) ((fBC w).extractLsb' 1 8))
  | 146 => reservedZero ((fB w) != 0 || (fC w) != 0 || w.getLsbD 0) (.mtmsr (fA w))
  | 150 => .ok (.stwcxRc (fA w) (fB w) (fC w) (w.getLsbD 0))
  | 151 => reservedZero (w.getLsbD 0) (.stwx (fA w) (fB w) (fC w))
  | 183 => reservedZero (w.getLsbD 0) (.stwux (fA w) (fB w) (fC w))
  | 200 => reservedZero ((fC w) != 0) (.subfze (fA w) (fB w) false (w.getLsbD 0))
  | 202 => reservedZero ((fC w) != 0) (.addze (fA w) (fB w) false (w.getLsbD 0))
  | 210 => reservedZero ((fB w).getLsbD 4 || (fC w) != 0 || w.getLsbD 0) (.mtsr (fA w) ((fB w).extractLsb' 0 4))
  | 215 => reservedZero (w.getLsbD 0) (.stbx (fA w) (fB w) (fC w))
  | 232 => reservedZero ((fC w) != 0) (.subfme (fA w) (fB w) false (w.getLsbD 0))
  | 234 => reservedZero ((fC w) != 0) (.addme (fA w) (fB w) false (w.getLsbD 0))
  | 235 => .ok (.mullw (fA w) (fB w) (fC w) false (w.getLsbD 0))
  | 242 => reservedZero ((fB w) != 0 || w.getLsbD 0) (.mtsrin (fA w) (fC w))
  | 246 => reservedZero ((fA w) != 0 || w.getLsbD 0) (.dcbtst (fB w) (fC w))
  | 247 => reservedZero (w.getLsbD 0) (.stbux (fA w) (fB w) (fC w))
  | 266 => .ok (.add (fA w) (fB w) (fC w) false (w.getLsbD 0))
  | 278 => reservedZero ((fA w) != 0 || w.getLsbD 0) (.dcbt (fB w) (fC w))
  | 279 => reservedZero (w.getLsbD 0) (.lhzx (fA w) (fB w) (fC w))
  | 284 => .ok (.eqv (fA w) (fB w) (fC w) (w.getLsbD 0))
  | 306 => reservedZero ((fA w) != 0 || (fB w) != 0 || w.getLsbD 0) (.tlbie (fC w))
  | 310 => .ok (.eciwx (fA w) (fB w) (fC w))
  | 311 => reservedZero (w.getLsbD 0) (.lhzux (fA w) (fB w) (fC w))
  | 316 => .ok (.xor (fA w) (fB w) (fC w) (w.getLsbD 0))
  | 339 => reservedZero (w.getLsbD 0) (.mfspr (fA w) (sprSwap (fBC w)))
  | 343 => reservedZero (w.getLsbD 0) (.lhax (fA w) (fB w) (fC w))
  | 370 => .ok (.tlbia)
  | 371 => reservedZero (w.getLsbD 0) (.mftb (fA w) (sprSwap (fBC w)))
  | 375 => reservedZero (w.getLsbD 0) (.lhaux (fA w) (fB w) (fC w))
  | 407 => reservedZero (w.getLsbD 0) (.sthx (fA w) (fB w) (fC w))
  | 412 => .ok (.orc (fA w) (fB w) (fC w) (w.getLsbD 0))
  | 438 => .ok (.ecowx (fA w) (fB w) (fC w))
  | 439 => reservedZero (w.getLsbD 0) (.sthux (fA w) (fB w) (fC w))
  | 444 => .ok (.or (fA w) (fB w) (fC w) (w.getLsbD 0))
  | 459 => .ok (.divwu (fA w) (fB w) (fC w) false (w.getLsbD 0))
  | 467 => reservedZero (w.getLsbD 0) (.mtspr (fA w) (sprSwap (fBC w)))
  | 470 => reservedZero ((fA w) != 0 || w.getLsbD 0) (.dcbi (fB w) (fC w))
  | 476 => .ok (.nand (fA w) (fB w) (fC w) (w.getLsbD 0))
  | 491 => .ok (.divw (fA w) (fB w) (fC w) false (w.getLsbD 0))
  | 512 => reservedZero (((fA w).extractLsb' 0 2) != 0 || (fB w) != 0 || (fC w) != 0 || w.getLsbD 0) (.mcrxr ((fA w).extractLsb' 2 3))
  | 520 => .ok (.subfc (fA w) (fB w) (fC w) true (w.getLsbD 0))
  | 522 => .ok (.addc (fA w) (fB w) (fC w) true (w.getLsbD 0))
  | 523 => .error .invalidForm
  | 533 => reservedZero (w.getLsbD 0) (.lswx (fA w) (fB w) (fC w))
  | 534 => reservedZero (w.getLsbD 0) (.lwbrx (fA w) (fB w) (fC w))
  | 535 => reservedZero (w.getLsbD 0) (.lfsx (fA w) (fB w) (fC w))
  | 536 => .ok (.srw (fA w) (fB w) (fC w) (w.getLsbD 0))
  | 552 => .ok (.subf (fA w) (fB w) (fC w) true (w.getLsbD 0))
  | 566 => reservedZero ((fA w) != 0 || (fB w) != 0 || (fC w) != 0 || w.getLsbD 0) (.tlbsync)
  | 567 => reservedZero (w.getLsbD 0) (.lfsux (fA w) (fB w) (fC w))
  | 587 => .error .invalidForm
  | 595 => reservedZero ((fB w).getLsbD 4 || (fC w) != 0 || w.getLsbD 0) (.mfsr (fA w) ((fB w).extractLsb' 0 4))
  | 597 => reservedZero (w.getLsbD 0) (.lswi (fA w) (fB w) (fC w))
  | 598 => reservedZero ((fA w) != 0 || (fB w) != 0 || (fC w) != 0 || w.getLsbD 0) (.sync)
  | 599 => reservedZero (w.getLsbD 0) (.lfdx (fA w) (fB w) (fC w))
  | 616 => reservedZero ((fC w) != 0) (.neg (fA w) (fB w) true (w.getLsbD 0))
  | 631 => reservedZero (w.getLsbD 0) (.lfdux (fA w) (fB w) (fC w))
  | 648 => .ok (.subfe (fA w) (fB w) (fC w) true (w.getLsbD 0))
  | 650 => .ok (.adde (fA w) (fB w) (fC w) true (w.getLsbD 0))
  | 659 => reservedZero ((fB w) != 0 || w.getLsbD 0) (.mfsrin (fA w) (fC w))
  | 661 => reservedZero (w.getLsbD 0) (.stswx (fA w) (fB w) (fC w))
  | 662 => reservedZero (w.getLsbD 0) (.stwbrx (fA w) (fB w) (fC w))
  | 663 => reservedZero (w.getLsbD 0) (.stfsx (fA w) (fB w) (fC w))
  | 695 => reservedZero (w.getLsbD 0) (.stfsux (fA w) (fB w) (fC w))
  | 712 => reservedZero ((fC w) != 0) (.subfze (fA w) (fB w) true (w.getLsbD 0))
  | 714 => reservedZero ((fC w) != 0) (.addze (fA w) (fB w) true (w.getLsbD 0))
  | 725 => reservedZero (w.getLsbD 0) (.stswi (fA w) (fB w) (fC w))
  | 727 => reservedZero (w.getLsbD 0) (.stfdx (fA w) (fB w) (fC w))
  | 744 => reservedZero ((fC w) != 0) (.subfme (fA w) (fB w) true (w.getLsbD 0))
  | 746 => reservedZero ((fC w) != 0) (.addme (fA w) (fB w) true (w.getLsbD 0))
  | 747 => .ok (.mullw (fA w) (fB w) (fC w) true (w.getLsbD 0))
  | 759 => reservedZero (w.getLsbD 0) (.stfdux (fA w) (fB w) (fC w))
  | 778 => .ok (.add (fA w) (fB w) (fC w) true (w.getLsbD 0))
  | 790 => reservedZero (w.getLsbD 0) (.lhbrx (fA w) (fB w) (fC w))
  | 792 => .ok (.sraw (fA w) (fB w) (fC w) (w.getLsbD 0))
  | 824 => .ok (.srawi (fA w) (fB w) (fC w) (w.getLsbD 0))
  | 854 => reservedZero ((fA w) != 0 || (fB w) != 0 || (fC w) != 0 || w.getLsbD 0) (.eieio)
  | 918 => reservedZero (w.getLsbD 0) (.sthbrx (fA w) (fB w) (fC w))
  | 922 => reservedZero ((fC w) != 0) (.extsh (fA w) (fB w) (w.getLsbD 0))
  | 954 => reservedZero ((fC w) != 0) (.extsb (fA w) (fB w) (w.getLsbD 0))
  | 971 => .ok (.divwu (fA w) (fB w) (fC w) true (w.getLsbD 0))
  | 982 => reservedZero ((fA w) != 0 || w.getLsbD 0) (.icbi (fB w) (fC w))
  | 983 => .ok (.stfiwx (fA w) (fB w) (fC w))
  | 1003 => .ok (.divw (fA w) (fB w) (fC w) true (w.getLsbD 0))
  | 1014 => reservedZero ((fA w) != 0 || w.getLsbD 0) (.dcbz (fB w) (fC w))
  | _ => .error .illegal

/-- Opcode 59, extended opcode in I<26..30> (R268). -/
def decode59 (w : Word) : Except DecodeError Instr :=
  match (fE w).toNat with
  | 18 => reservedZero ((fD w) != 0) (.fdivs (fA w) (fB w) (fC w) (w.getLsbD 0))
  | 20 => reservedZero ((fD w) != 0) (.fsubs (fA w) (fB w) (fC w) (w.getLsbD 0))
  | 21 => reservedZero ((fD w) != 0) (.fadds (fA w) (fB w) (fC w) (w.getLsbD 0))
  | 22 => .ok (.fsqrts (fA w) (fC w) (w.getLsbD 0))
  | 24 => reservedZero ((fB w) != 0 || (fD w) != 0) (.fres (fA w) (fC w) (w.getLsbD 0))
  | 25 => reservedZero ((fC w) != 0) (.fmuls (fA w) (fB w) (fD w) (w.getLsbD 0))
  | 28 => .ok (.fmsubs (fA w) (fB w) (fC w) (fD w) (w.getLsbD 0))
  | 29 => .ok (.fmadds (fA w) (fB w) (fC w) (fD w) (w.getLsbD 0))
  | 30 => .ok (.fnmsubs (fA w) (fB w) (fC w) (fD w) (w.getLsbD 0))
  | 31 => .ok (.fnmadds (fA w) (fB w) (fC w) (fD w) (w.getLsbD 0))
  | _ => .error .illegal

/-- Opcode 63, the X-form and XFL-form entries, extended opcode in I<21..30> (R268). -/
def decode63X (w : Word) : Except DecodeError Instr :=
  match (fXo w).toNat with
  | 0 => reservedZero (((fA w).extractLsb' 0 2) != 0 || w.getLsbD 0) (.fcmpu ((fA w).extractLsb' 2 3) (fB w) (fC w))
  | 12 => reservedZero ((fB w) != 0) (.frsp (fA w) (fC w) (w.getLsbD 0))
  | 14 => reservedZero ((fB w) != 0) (.fctiw (fA w) (fC w) (w.getLsbD 0))
  | 15 => reservedZero ((fB w) != 0) (.fctiwz (fA w) (fC w) (w.getLsbD 0))
  | 32 => reservedZero (((fA w).extractLsb' 0 2) != 0 || w.getLsbD 0) (.fcmpo ((fA w).extractLsb' 2 3) (fB w) (fC w))
  | 38 => reservedZero ((fB w) != 0 || (fC w) != 0) (.mtfsb1 (fA w) (w.getLsbD 0))
  | 40 => reservedZero ((fB w) != 0) (.fneg (fA w) (fC w) (w.getLsbD 0))
  | 64 => reservedZero (((fA w).extractLsb' 0 2) != 0 || ((fB w).extractLsb' 0 2) != 0 || (fC w) != 0 || w.getLsbD 0) (.mcrfs ((fA w).extractLsb' 2 3) ((fB w).extractLsb' 2 3))
  | 70 => reservedZero ((fB w) != 0 || (fC w) != 0) (.mtfsb0 (fA w) (w.getLsbD 0))
  | 72 => reservedZero ((fB w) != 0) (.fmr (fA w) (fC w) (w.getLsbD 0))
  | 134 => reservedZero (((fA w).extractLsb' 0 2) != 0 || (fB w) != 0 || (fC w).getLsbD 0) (.mtfsfi ((fA w).extractLsb' 2 3) ((fC w).extractLsb' 1 4) (w.getLsbD 0))
  | 136 => reservedZero ((fB w) != 0) (.fnabs (fA w) (fC w) (w.getLsbD 0))
  | 264 => reservedZero ((fB w) != 0) (.fabs (fA w) (fC w) (w.getLsbD 0))
  | 583 => reservedZero ((fB w) != 0 || (fC w) != 0) (.mffs (fA w) (w.getLsbD 0))
  | 711 => reservedZero ((fAB w).getLsbD 9 || (fAB w).getLsbD 0) (.mtfsf ((fAB w).extractLsb' 1 8) (fC w) (w.getLsbD 0))
  | _ => .error .illegal

/-- Opcode 63: first the A-form entries by I<26..30>, else the X-form ones (R241 step 2, R268). -/
def decode63 (w : Word) : Except DecodeError Instr :=
  match (fE w).toNat with
  | 18 => reservedZero ((fD w) != 0) (.fdiv (fA w) (fB w) (fC w) (w.getLsbD 0))
  | 20 => reservedZero ((fD w) != 0) (.fsub (fA w) (fB w) (fC w) (w.getLsbD 0))
  | 21 => reservedZero ((fD w) != 0) (.fadd (fA w) (fB w) (fC w) (w.getLsbD 0))
  | 22 => .ok (.fsqrt (fA w) (fC w) (w.getLsbD 0))
  | 23 => .ok (.fsel (fA w) (fB w) (fC w) (fD w) (w.getLsbD 0))
  | 25 => reservedZero ((fC w) != 0) (.fmul (fA w) (fB w) (fD w) (w.getLsbD 0))
  | 26 => .ok (.frsqrte (fA w) (fC w) (w.getLsbD 0))
  | 28 => .ok (.fmsub (fA w) (fB w) (fC w) (fD w) (w.getLsbD 0))
  | 29 => .ok (.fmadd (fA w) (fB w) (fC w) (fD w) (w.getLsbD 0))
  | 30 => .ok (.fnmsub (fA w) (fB w) (fC w) (fD w) (w.getLsbD 0))
  | 31 => .ok (.fnmadd (fA w) (fB w) (fC w) (fD w) (w.getLsbD 0))
  | _ => decode63X w

/-- The decode procedure (R241 steps 1 to 5, R265). An instruction the 602 does not implement decodes to its row whatever
its reserved bits hold, since the illegal check comes before the invalid-form check (R275; log entry 35). -/
def decode (w : Word) : Except DecodeError Instr :=
  match (opcd w).toNat with
  | 3 => .ok (.twi (fA w) (fB w) (fImm w))
  | 7 => .ok (.mulli (fA w) (fB w) (fImm w))
  | 8 => .ok (.subfic (fA w) (fB w) (fImm w))
  | 10 => reservedZero ((fA w).getLsbD 1) (.cmpli ((fA w).extractLsb' 2 3) ((fA w).extractLsb' 0 1) (fB w) (fImm w))
  | 11 => reservedZero ((fA w).getLsbD 1) (.cmpi ((fA w).extractLsb' 2 3) ((fA w).extractLsb' 0 1) (fB w) (fImm w))
  | 12 => .ok (.addic (fA w) (fB w) (fImm w))
  | 13 => .ok (.addicRc (fA w) (fB w) (fImm w))
  | 14 => .ok (.addi (fA w) (fB w) (fImm w))
  | 15 => .ok (.addis (fA w) (fB w) (fImm w))
  | 16 => .ok (.bc (fA w) (fB w) (w.extractLsb' 2 14) (w.getLsbD 1) (w.getLsbD 0))
  | 17 => if w.getLsbD 1 then reservedZero ((w.extractLsb' 2 24) != 0 || w.getLsbD 0) (.sc) else .error .illegal
  | 18 => .ok (.b (w.extractLsb' 2 24) (w.getLsbD 1) (w.getLsbD 0))
  | 20 => .ok (.rlwimi (fA w) (fB w) (fC w) (fD w) (fE w) (w.getLsbD 0))
  | 21 => .ok (.rlwinm (fA w) (fB w) (fC w) (fD w) (fE w) (w.getLsbD 0))
  | 23 => .ok (.rlwnm (fA w) (fB w) (fC w) (fD w) (fE w) (w.getLsbD 0))
  | 24 => .ok (.ori (fA w) (fB w) (fImm w))
  | 25 => .ok (.oris (fA w) (fB w) (fImm w))
  | 26 => .ok (.xori (fA w) (fB w) (fImm w))
  | 27 => .ok (.xoris (fA w) (fB w) (fImm w))
  | 28 => .ok (.andiRc (fA w) (fB w) (fImm w))
  | 29 => .ok (.andisRc (fA w) (fB w) (fImm w))
  | 32 => .ok (.lwz (fA w) (fB w) (fImm w))
  | 33 => .ok (.lwzu (fA w) (fB w) (fImm w))
  | 34 => .ok (.lbz (fA w) (fB w) (fImm w))
  | 35 => .ok (.lbzu (fA w) (fB w) (fImm w))
  | 36 => .ok (.stw (fA w) (fB w) (fImm w))
  | 37 => .ok (.stwu (fA w) (fB w) (fImm w))
  | 38 => .ok (.stb (fA w) (fB w) (fImm w))
  | 39 => .ok (.stbu (fA w) (fB w) (fImm w))
  | 40 => .ok (.lhz (fA w) (fB w) (fImm w))
  | 41 => .ok (.lhzu (fA w) (fB w) (fImm w))
  | 42 => .ok (.lha (fA w) (fB w) (fImm w))
  | 43 => .ok (.lhau (fA w) (fB w) (fImm w))
  | 44 => .ok (.sth (fA w) (fB w) (fImm w))
  | 45 => .ok (.sthu (fA w) (fB w) (fImm w))
  | 46 => .ok (.lmw (fA w) (fB w) (fImm w))
  | 47 => .ok (.stmw (fA w) (fB w) (fImm w))
  | 48 => .ok (.lfs (fA w) (fB w) (fImm w))
  | 49 => .ok (.lfsu (fA w) (fB w) (fImm w))
  | 50 => .ok (.lfd (fA w) (fB w) (fImm w))
  | 51 => .ok (.lfdu (fA w) (fB w) (fImm w))
  | 52 => .ok (.stfs (fA w) (fB w) (fImm w))
  | 53 => .ok (.stfsu (fA w) (fB w) (fImm w))
  | 54 => .ok (.stfd (fA w) (fB w) (fImm w))
  | 55 => .ok (.stfdu (fA w) (fB w) (fImm w))
  | 19 => decode19 w
  | 31 => decode31 w
  | 59 => decode59 w
  | 63 => decode63 w
  | _ => .error .illegal

/-- The word whose four bytes stand at rising addresses: the byte at the lowest address holds I<0..7> (R152). -/
def wordOfBytes (b0 b1 b2 b3 : Byte) : Word := b0 ++ b1 ++ b2 ++ b3

/-- The four bytes of a word, in the order of rising addresses (R150, R152). -/
def bytesOfWord (w : Word) : List Byte :=
  [w.extractLsb' 24 8, w.extractLsb' 16 8, w.extractLsb' 8 8, w.extractLsb' 0 8]

/-- The instruction at the head of a list of bytes, and the bytes after it (R240). -/
def decodeBytes : List Byte → Except DecodeError (Instr × List Byte)
  | b0 :: b1 :: b2 :: b3 :: rest => (decode (wordOfBytes b0 b1 b2 b3)).map (·, rest)
  | _ => .error .truncated

/-- The instruction the decoder reads from the word `w` of the opcode table, its bytes laid out as memory holds them. -/
def decodeTableWord (_nbits w : Nat) : Option Instr :=
  match decodeBytes (bytesOfWord (BitVec.ofNat 32 w)) with
  | .ok (i, _) => some i
  | .error _ => none

/-- I-form and SC-form (R242). -/
def encI (op : BitVec 6) (li : BitVec 24) (aa lk : Bool) : Word := op ++ li ++ BitVec.ofBool aa ++ BitVec.ofBool lk
/-- B-form (R242). -/
def encB (op : BitVec 6) (bo bi : BitVec 5) (bd : BitVec 14) (aa lk : Bool) : Word :=
  op ++ bo ++ bi ++ bd ++ BitVec.ofBool aa ++ BitVec.ofBool lk
/-- D-form (R242). -/
def encD (op : BitVec 6) (a b : BitVec 5) (imm : BitVec 16) : Word := op ++ a ++ b ++ imm
/-- X-form and XL-form (R242). -/
def encX (op : BitVec 6) (a b c : BitVec 5) (xo : BitVec 10) (last : Bool) : Word :=
  op ++ a ++ b ++ c ++ xo ++ BitVec.ofBool last
/-- XFX-form (R242). -/
def encXfx (op : BitVec 6) (a : BitVec 5) (bc : BitVec 10) (xo : BitVec 10) (last : Bool) : Word :=
  op ++ a ++ bc ++ xo ++ BitVec.ofBool last
/-- XFL-form (R242). -/
def encXfl (op : BitVec 6) (ab : BitVec 10) (c : BitVec 5) (xo : BitVec 10) (last : Bool) : Word :=
  op ++ ab ++ c ++ xo ++ BitVec.ofBool last
/-- XO-form: the OE bit stands above the 9-bit extended opcode (R242). -/
def encXO (op : BitVec 6) (a b c : BitVec 5) (oe : Bool) (xo : BitVec 9) (rc : Bool) : Word :=
  op ++ a ++ b ++ c ++ BitVec.ofBool oe ++ xo ++ BitVec.ofBool rc
/-- A-form and M-form (R242). -/
def encA (op : BitVec 6) (a b c d e : BitVec 5) (rc : Bool) : Word := op ++ a ++ b ++ c ++ d ++ e ++ BitVec.ofBool rc

/-- The word of an instruction, every reserved bit 0 (R242, R243, R265 to R269). -/
def encode : Instr → Word
  | .twi trapOn rA simm => encD 3 trapOn rA simm
  | .mulli rD rA simm => encD 7 rD rA simm
  | .subfic rD rA simm => encD 8 rD rA simm
  | .addic rD rA simm => encD 12 rD rA simm
  | .addicRc rD rA simm => encD 13 rD rA simm
  | .addi rD rA simm => encD 14 rD rA simm
  | .addis rD rA simm => encD 15 rD rA simm
  | .ori rS rA uimm => encD 24 rS rA uimm
  | .oris rS rA uimm => encD 25 rS rA uimm
  | .xori rS rA uimm => encD 26 rS rA uimm
  | .xoris rS rA uimm => encD 27 rS rA uimm
  | .andiRc rS rA uimm => encD 28 rS rA uimm
  | .andisRc rS rA uimm => encD 29 rS rA uimm
  | .cmpli crfD l rA uimm => encD 10 (crfD ++ (0 : BitVec 1) ++ l) rA uimm
  | .cmpi crfD l rA simm => encD 11 (crfD ++ (0 : BitVec 1) ++ l) rA simm
  | .bc bo bi bd aa lk => encB 16 bo bi bd aa lk
  | .sc => encI 17 0 true false
  | .b li aa lk => encI 18 li aa lk
  | .mcrf crfD crfS => encX 19 (crfD ++ (0 : BitVec 2)) (crfS ++ (0 : BitVec 2)) 0 0 false
  | .bclr bo bi lk => encX 19 bo bi 0 16 lk
  | .rfi => encX 19 0 0 0 50 false
  | .isync => encX 19 0 0 0 150 false
  | .bcctr bo bi lk => encX 19 bo bi 0 528 lk
  | .crnor crbD crbA crbB => encX 19 crbD crbA crbB 33 false
  | .crandc crbD crbA crbB => encX 19 crbD crbA crbB 129 false
  | .crxor crbD crbA crbB => encX 19 crbD crbA crbB 193 false
  | .crnand crbD crbA crbB => encX 19 crbD crbA crbB 225 false
  | .crand crbD crbA crbB => encX 19 crbD crbA crbB 257 false
  | .creqv crbD crbA crbB => encX 19 crbD crbA crbB 289 false
  | .crorc crbD crbA crbB => encX 19 crbD crbA crbB 417 false
  | .cror crbD crbA crbB => encX 19 crbD crbA crbB 449 false
  | .rlwimi rS rA sh mb me rc => encA 20 rS rA sh mb me rc
  | .rlwinm rS rA sh mb me rc => encA 21 rS rA sh mb me rc
  | .rlwnm rS rA rB mb me rc => encA 23 rS rA rB mb me rc
  | .subfc rD rA rB oe rc => encXO 31 rD rA rB oe 8 rc
  | .addc rD rA rB oe rc => encXO 31 rD rA rB oe 10 rc
  | .subf rD rA rB oe rc => encXO 31 rD rA rB oe 40 rc
  | .neg rD rA oe rc => encXO 31 rD rA 0 oe 104 rc
  | .subfe rD rA rB oe rc => encXO 31 rD rA rB oe 136 rc
  | .adde rD rA rB oe rc => encXO 31 rD rA rB oe 138 rc
  | .subfze rD rA oe rc => encXO 31 rD rA 0 oe 200 rc
  | .addze rD rA oe rc => encXO 31 rD rA 0 oe 202 rc
  | .subfme rD rA oe rc => encXO 31 rD rA 0 oe 232 rc
  | .addme rD rA oe rc => encXO 31 rD rA 0 oe 234 rc
  | .mullw rD rA rB oe rc => encXO 31 rD rA rB oe 235 rc
  | .add rD rA rB oe rc => encXO 31 rD rA rB oe 266 rc
  | .divwu rD rA rB oe rc => encXO 31 rD rA rB oe 459 rc
  | .divw rD rA rB oe rc => encXO 31 rD rA rB oe 491 rc
  | .mulhwu rD rA rB rc => encXO 31 rD rA rB false 11 rc
  | .mulhw rD rA rB rc => encXO 31 rD rA rB false 75 rc
  | .cmp crfD l rA rB => encX 31 (crfD ++ (0 : BitVec 1) ++ l) rA rB 0 false
  | .cmpl crfD l rA rB => encX 31 (crfD ++ (0 : BitVec 1) ++ l) rA rB 32 false
  | .tw trapOn rA rB => encX 31 trapOn rA rB 4 false
  | .slw rS rA rB rc => encX 31 rS rA rB 24 rc
  | .and rS rA rB rc => encX 31 rS rA rB 28 rc
  | .andc rS rA rB rc => encX 31 rS rA rB 60 rc
  | .nor rS rA rB rc => encX 31 rS rA rB 124 rc
  | .eqv rS rA rB rc => encX 31 rS rA rB 284 rc
  | .xor rS rA rB rc => encX 31 rS rA rB 316 rc
  | .orc rS rA rB rc => encX 31 rS rA rB 412 rc
  | .or rS rA rB rc => encX 31 rS rA rB 444 rc
  | .nand rS rA rB rc => encX 31 rS rA rB 476 rc
  | .srw rS rA rB rc => encX 31 rS rA rB 536 rc
  | .sraw rS rA rB rc => encX 31 rS rA rB 792 rc
  | .srawi rS rA sh rc => encX 31 rS rA sh 824 rc
  | .cntlzw rS rA rc => encX 31 rS rA 0 26 rc
  | .extsh rS rA rc => encX 31 rS rA 0 922 rc
  | .extsb rS rA rc => encX 31 rS rA 0 954 rc
  | .mfcr rD => encX 31 rD 0 0 19 false
  | .mfmsr rD => encX 31 rD 0 0 83 false
  | .mtcrf rS crm => encXfx 31 rS ((0 : BitVec 1) ++ crm ++ (0 : BitVec 1)) 144 false
  | .mtmsr rS => encX 31 rS 0 0 146 false
  | .mfspr rD spr => encXfx 31 rD (sprSwap spr) 339 false
  | .mftb rD tbr => encXfx 31 rD (sprSwap tbr) 371 false
  | .mtspr rS spr => encXfx 31 rS (sprSwap spr) 467 false
  | .mcrxr crfD => encX 31 (crfD ++ (0 : BitVec 2)) 0 0 512 false
  | .lwzx rD rA rB => encX 31 rD rA rB 23 false
  | .lwzux rD rA rB => encX 31 rD rA rB 55 false
  | .lbzx rD rA rB => encX 31 rD rA rB 87 false
  | .lbzux rD rA rB => encX 31 rD rA rB 119 false
  | .lhzx rD rA rB => encX 31 rD rA rB 279 false
  | .lhzux rD rA rB => encX 31 rD rA rB 311 false
  | .lhax rD rA rB => encX 31 rD rA rB 343 false
  | .lhaux rD rA rB => encX 31 rD rA rB 375 false
  | .stwx rS rA rB => encX 31 rS rA rB 151 false
  | .stwux rS rA rB => encX 31 rS rA rB 183 false
  | .stbx rS rA rB => encX 31 rS rA rB 215 false
  | .stbux rS rA rB => encX 31 rS rA rB 247 false
  | .sthx rS rA rB => encX 31 rS rA rB 407 false
  | .sthux rS rA rB => encX 31 rS rA rB 439 false
  | .lwbrx rD rA rB => encX 31 rD rA rB 534 false
  | .lhbrx rD rA rB => encX 31 rD rA rB 790 false
  | .stwbrx rS rA rB => encX 31 rS rA rB 662 false
  | .sthbrx rS rA rB => encX 31 rS rA rB 918 false
  | .lwarx rD rA rB => encX 31 rD rA rB 20 false
  | .stwcxRc rS rA rB rc => encX 31 rS rA rB 150 rc
  | .lswx rD rA rB => encX 31 rD rA rB 533 false
  | .lswi rD rA nb => encX 31 rD rA nb 597 false
  | .stswx rS rA rB => encX 31 rS rA rB 661 false
  | .stswi rS rA nb => encX 31 rS rA nb 725 false
  | .lfsx frD rA rB => encX 31 frD rA rB 535 false
  | .lfsux frD rA rB => encX 31 frD rA rB 567 false
  | .lfdx frD rA rB => encX 31 frD rA rB 599 false
  | .lfdux frD rA rB => encX 31 frD rA rB 631 false
  | .stfsx frS rA rB => encX 31 frS rA rB 663 false
  | .stfsux frS rA rB => encX 31 frS rA rB 695 false
  | .stfdx frS rA rB => encX 31 frS rA rB 727 false
  | .stfdux frS rA rB => encX 31 frS rA rB 759 false
  | .stfiwx frS rA rB => encX 31 frS rA rB 983 false
  | .eciwx rD rA rB => encX 31 rD rA rB 310 false
  | .ecowx rS rA rB => encX 31 rS rA rB 438 false
  | .dcbst rA rB => encX 31 0 rA rB 54 false
  | .dcbf rA rB => encX 31 0 rA rB 86 false
  | .dcbtst rA rB => encX 31 0 rA rB 246 false
  | .dcbt rA rB => encX 31 0 rA rB 278 false
  | .dcbi rA rB => encX 31 0 rA rB 470 false
  | .icbi rA rB => encX 31 0 rA rB 982 false
  | .dcbz rA rB => encX 31 0 rA rB 1014 false
  | .mtsr rS srn => encX 31 rS ((0 : BitVec 1) ++ srn) 0 210 false
  | .mtsrin rS rB => encX 31 rS 0 rB 242 false
  | .mfsr rD srn => encX 31 rD ((0 : BitVec 1) ++ srn) 0 595 false
  | .mfsrin rD rB => encX 31 rD 0 rB 659 false
  | .tlbie rB => encX 31 0 0 rB 306 false
  | .tlbia => encX 31 0 0 0 370 false
  | .tlbsync => encX 31 0 0 0 566 false
  | .esa => encX 31 0 0 0 (.ofNat 10 xoEsa) false
  | .dsa => encX 31 0 0 0 (.ofNat 10 xoDsa) false
  | .sync => encX 31 0 0 0 598 false
  | .eieio => encX 31 0 0 0 854 false
  | .tlbld rB => encX 31 0 0 rB (.ofNat 10 xoTlbld) false
  | .tlbli rB => encX 31 0 0 rB (.ofNat 10 xoTlbli) false
  | .lwz rD rA d => encD 32 rD rA d
  | .lwzu rD rA d => encD 33 rD rA d
  | .lbz rD rA d => encD 34 rD rA d
  | .lbzu rD rA d => encD 35 rD rA d
  | .stw rS rA d => encD 36 rS rA d
  | .stwu rS rA d => encD 37 rS rA d
  | .stb rS rA d => encD 38 rS rA d
  | .stbu rS rA d => encD 39 rS rA d
  | .lhz rD rA d => encD 40 rD rA d
  | .lhzu rD rA d => encD 41 rD rA d
  | .lha rD rA d => encD 42 rD rA d
  | .lhau rD rA d => encD 43 rD rA d
  | .sth rS rA d => encD 44 rS rA d
  | .sthu rS rA d => encD 45 rS rA d
  | .lmw rD rA d => encD 46 rD rA d
  | .stmw rS rA d => encD 47 rS rA d
  | .lfs frD rA d => encD 48 frD rA d
  | .lfsu frD rA d => encD 49 frD rA d
  | .lfd frD rA d => encD 50 frD rA d
  | .lfdu frD rA d => encD 51 frD rA d
  | .stfs frS rA d => encD 52 frS rA d
  | .stfsu frS rA d => encD 53 frS rA d
  | .stfd frS rA d => encD 54 frS rA d
  | .stfdu frS rA d => encD 55 frS rA d
  | .fdivs frD frA frB rc => encA 59 frD frA frB 0 18 rc
  | .fsubs frD frA frB rc => encA 59 frD frA frB 0 20 rc
  | .fadds frD frA frB rc => encA 59 frD frA frB 0 21 rc
  | .fres frD frB rc => encA 59 frD 0 frB 0 24 rc
  | .fmuls frD frA frC rc => encA 59 frD frA 0 frC 25 rc
  | .fmsubs frD frA frB frC rc => encA 59 frD frA frB frC 28 rc
  | .fmadds frD frA frB frC rc => encA 59 frD frA frB frC 29 rc
  | .fnmsubs frD frA frB frC rc => encA 59 frD frA frB frC 30 rc
  | .fnmadds frD frA frB frC rc => encA 59 frD frA frB frC 31 rc
  | .fsqrts frD frB rc => encA 59 frD 0 frB 0 22 rc
  | .fdiv frD frA frB rc => encA 63 frD frA frB 0 18 rc
  | .fsub frD frA frB rc => encA 63 frD frA frB 0 20 rc
  | .fadd frD frA frB rc => encA 63 frD frA frB 0 21 rc
  | .fmul frD frA frC rc => encA 63 frD frA 0 frC 25 rc
  | .fmsub frD frA frB frC rc => encA 63 frD frA frB frC 28 rc
  | .fmadd frD frA frB frC rc => encA 63 frD frA frB frC 29 rc
  | .fnmsub frD frA frB frC rc => encA 63 frD frA frB frC 30 rc
  | .fnmadd frD frA frB frC rc => encA 63 frD frA frB frC 31 rc
  | .fsel frD frA frB frC rc => encA 63 frD frA frB frC 23 rc
  | .fsqrt frD frB rc => encA 63 frD 0 frB 0 22 rc
  | .frsqrte frD frB rc => encA 63 frD 0 frB 0 26 rc
  | .fcmpu crfD frA frB => encX 63 (crfD ++ (0 : BitVec 2)) frA frB 0 false
  | .fcmpo crfD frA frB => encX 63 (crfD ++ (0 : BitVec 2)) frA frB 32 false
  | .frsp frD frB rc => encX 63 frD 0 frB 12 rc
  | .fctiw frD frB rc => encX 63 frD 0 frB 14 rc
  | .fctiwz frD frB rc => encX 63 frD 0 frB 15 rc
  | .fneg frD frB rc => encX 63 frD 0 frB 40 rc
  | .fmr frD frB rc => encX 63 frD 0 frB 72 rc
  | .fnabs frD frB rc => encX 63 frD 0 frB 136 rc
  | .fabs frD frB rc => encX 63 frD 0 frB 264 rc
  | .mtfsb1 crbD rc => encX 63 crbD 0 0 38 rc
  | .mtfsb0 crbD rc => encX 63 crbD 0 0 70 rc
  | .mcrfs crfD crfS => encX 63 (crfD ++ (0 : BitVec 2)) (crfS ++ (0 : BitVec 2)) 0 64 false
  | .mtfsfi crfD imm rc => encX 63 (crfD ++ (0 : BitVec 2)) 0 (imm ++ (0 : BitVec 1)) 134 rc
  | .mffs frD rc => encX 63 frD 0 0 583 rc
  | .mtfsf fm frB rc => encXfl 63 ((0 : BitVec 1) ++ fm ++ (0 : BitVec 1)) frB 711 rc

end Sys2Proof
end

