-- ==== Sys2Proof/Machine/Bits.lean ====
section
/-!
DEFINITION. Bit fields, extensions and byte order of 32-bit words (spec/00_scope.md R11, R12; spec/30_encoding.md R255,
R262; spec/20_memory.md R150).
-/
namespace Sys2Proof.Machine

/-- IBM bit `k` of a word, bit 0 the most significant (R11). -/
def ibmBit (w : Word) (k : Nat) : Bool := w.getLsbD (31 - k)

/-- The word with IBM bit `k` set to `b`. -/
def setIbmBit (w : Word) (k : Nat) (b : Bool) : Word :=
  if b then w ||| (0x80000000#32 >>> k) else w &&& ~~~(0x80000000#32 >>> k)

/-- The bits of `v` where `mask` is 1 and of `w` where it is 0. -/
def merge (mask v w : Word) : Word := (v &&& mask) ||| (w &&& ~~~mask)

/-- A mask where the condition holds, else zero. -/
def maskIf (b : Bool) (mask : Word) : Word := if b then mask else 0

/-- `sext_32` of a 16-bit immediate (R255 a, e). -/
def sext16 (v : BitVec 16) : Word := v.signExtend 32

/-- `zext_32` of a 16-bit immediate (R255 c). -/
def zext16 (v : BitVec 16) : Word := v.setWidth 32

/-- A 16-bit immediate in the high half (R255 b, d). -/
def high16 (v : BitVec 16) : Word := v ++ (0 : BitVec 16)

/-- The displacement of an I-form branch (R255 f). -/
def sextLI (li : BitVec 24) : Word := (li ++ (0 : BitVec 2)).signExtend 32

/-- The displacement of a B-form branch (R255 g). -/
def sextBD (bd : BitVec 14) : Word := (bd ++ (0 : BitVec 2)).signExtend 32

/-- `MASK(mb, me)`: ones from IBM bit mb through me, wrapping when mb > me (R262). -/
def maskMbMe (mb me : BitVec 5) : Word :=
  let fromMb : Word := 0xFFFFFFFF#32 >>> mb.toNat
  let toMe : Word := 0xFFFFFFFF#32 <<< (31 - me.toNat)
  if mb ≤ me then fromMb &&& toMe else fromMb ||| toMe

/-- Field `n` (0 the most significant) of a word of eight 4-bit fields (spec/10_state.md R45). -/
def field4 (w : Word) (n : BitVec 3) : BitVec 4 := w.extractLsb' (28 - 4 * n.toNat) 4

/-- The word with 4-bit field `n` replaced. -/
def setField4 (w : Word) (n : BitVec 3) (v : BitVec 4) : Word :=
  merge (0xF0000000#32 >>> (4 * n.toNat)) ((v ++ (0 : BitVec 28)) >>> (4 * n.toNat)) w

/-- The mask that covers 4-bit field k where bit k of the 8-bit selector is 1 (spec/30_encoding.md R257). -/
def fieldMask (sel : BitVec 8) : Word :=
  (List.range 8).foldl (fun m k => m ||| maskIf (sel.getLsbD (7 - k)) (0xF0000000#32 >>> (4 * k))) 0

/-- A word with its two low bits 0: an instruction address (spec/10_state.md R42). -/
def wordAlign (a : Word) : Word := a &&& 0xFFFFFFFC

/-- The address of the 32-byte block that holds `a` (spec/46_memory_control.md R670). -/
def blockAlign (a : Word) : Word := a &&& 0xFFFFFFE0

/-- The bytes reversed (spec/43_load_store.md R511). -/
def reverseBytes (v : Word) : Word :=
  v.extractLsb' 0 8 ++ v.extractLsb' 8 8 ++ v.extractLsb' 16 8 ++ v.extractLsb' 24 8

/-- The two low bytes exchanged, the high half zero (R510). -/
def reverseHalf (v : Word) : Word := (0 : BitVec 16) ++ v.extractLsb' 0 8 ++ v.extractLsb' 8 8

/-- Bytes in the order of rising addresses as a value, the first the most significant (spec/20_memory.md R150). -/
def wordOfBE (bs : List Byte) : Word := bs.foldl (fun acc b => (acc <<< 8) ||| b.setWidth 32) 0

/-- The low `n` bytes of a value, the most significant first (R150). -/
def bytesBE (n : Nat) (v : Word) : List Byte := (List.range n).map fun k => v.extractLsb' (8 * (n - 1 - k)) 8

end Sys2Proof.Machine
end

