-- ==== Sys2Proof/Config.lean ====
section
/-!
DEFINITION. What an implementation fixes and the spec leaves open (spec/00_scope.md R10, the rows without a usable
value), and the free values of spec/92_eei_decisions.md D12. Every constant here is OPAQUE: no proof can see its value,
so a statement holds whatever it is. The parameters of R10 for which the spec suggests a value stand with their mark
in Sys2Proof/Machine/Params.lean, Sys2Proof/Machine/Spr.lean and Sys2Proof/Decode.lean.
-/
namespace Sys2Proof

/-- The sites at which the spec leaves a value undefined or a choice free (D12 and the decisions named on each). -/
inductive UndefSite
  | divw            -- rD of divw (spec/40 R321)
  | divwCr          -- CR0<0..2> of divw (R321)
  | divwu           -- rD of divwu (R322)
  | divwuCr         -- CR0<0..2> of divwu (R322)
  | fctiwFprf       -- FPRF after fctiw, fctiwz (spec/10 R53, spec/42 R441)
  | overflowFr      -- FR after an untrapped overflow (spec/42 R405)
  | niStatus        -- FR and FI of a predetermined result in non-IEEE mode (spec/10 R54)
  | stfdHigh        -- high word of an integer-tagged stfd (spec/43 R546)
  | dsisrAlign      -- DSISR<22..31> after an alignment exception (spec/60 R755)
  | missWay         -- SRR1<14> at a translation miss (D26)
  | tlbBothWays     -- which way answers when both match (spec/20 R176 states none)
  | stwcxOutcome    -- stwcx. to another granule (D17)
  | lmwCount        -- registers an interrupted lmw has written (D24)
  | stmwCount       -- words an interrupted stmw has stored (D24)
  | dcbiByte (k : Nat)   -- byte k of the block after dcbi (spec/20 R225)
  | staleFetch      -- old or new word of a fetch (spec/20 R220)
  | deferInterrupt (offset : Word)  -- the interrupt with this vector offset, one boundary later (D35)
  | powerEntry      -- a power mode entered at this boundary or later (D22)
  | reservedField   -- reserved bits of an SPR or segment register read back (spec/93 A17)
  | dataByte (ea : Word)    -- a byte loaded where no memory is, or by a load that received TEA (spec/60 R752)
  | cachedByte (ea : Word)  -- a byte loaded that another master wrote while the cache was not snooped (spec/60 R803)
  | settledByte (k : Nat)   -- byte k of a block whose unsnooped copies are flushed (R803)
  | fetchElsewhere  -- a word fetched where no memory is (spec/20 R165)
  | absentTea (pa : Word)   -- an access to an address nothing answers ends with TEA (spec/92, physical memory map)
  | teaRecognised   -- the boundary at which a TEA is recognised (R752)
  | ctxIr | ctxPr | ctxAp | ctxLe | ctxIp | ctxSr | ctxSdr1 | ctxHid0 | ctxIabr
  | ctxIbat (k : Fin 8) | ctxItlb (k : Fin 32) | ctxDtlb (k : Fin 32)
                    -- old or new context, each register and entry by itself (D36)
deriving DecidableEq, Repr

/-- What becomes of a denormalized single operand (`DENORM_INPUT_POLICY`, R10, D10): the alternatives with an effect; the
third one the spec names, to refuse it, is no effect of the machine (log entry 15). -/
inductive DenormPolicy
  | trap | compute
deriving DecidableEq, Repr, Inhabited

/-- How a translated data access with MSR[PR] = 0 and MSR[AP] = 1 is checked (`AP_RULE`, R10, D14): the two levels that
spec/20_memory.md R183 says AP chooses from (log entry 13). -/
inductive ApRule
  | asSupervisor | asUser
deriving DecidableEq, Repr, Inhabited

/-- The results for which non-IEEE mode has a predetermined value (spec/10_state.md R54); a conversion to an integer is an
event of its own (log entry 14). -/
inductive NiEvent
  | divideByZero | invalid | overflow | underflow
  | conversion  -- an invalid fctiw or fctiwz
deriving DecidableEq, Repr, Inhabited

/-- Positions of the HID0 fields (LSB-0 bit numbers; `HID0_<field>`, R10, D30). -/
structure Hid0Layout where
  /-- protection-only mode -/
  po : Fin 32
  /-- write-through -/
  w : Fin 32
  /-- caching-inhibited -/
  i : Fin 32
  /-- memory coherence -/
  m : Fin 32
  /-- guarded -/
  g : Fin 32
  /-- doze select -/
  doze : Fin 32
  /-- nap select -/
  nap : Fin 32
  /-- sleep select -/
  sleep : Fin 32
  /-- dynamic power management -/
  dpm : Fin 32
  /-- instruction cache enable -/
  ice : Fin 32
  /-- data cache enable -/
  dce : Fin 32
deriving DecidableEq, Repr, Inhabited

/-- Positions of the TCR fields (LSB-0 bit numbers; `TCR_<field>`, R10, D15). -/
structure TcrLayout where
  /-- watchdog enable -/
  we : Fin 32
  /-- period select, high bit -/
  wpHigh : Fin 32
  /-- period select, low bit -/
  wpLow : Fin 32
  /-- second expiry resets -/
  wrc : Fin 32
  /-- status: an expiry has not been answered -/
  ws : Fin 32
deriving DecidableEq, Repr, Inhabited

/-- The TLB format of protection-only mode, which no source gives (spec/20_memory.md R182, D20): the set an effective
address indexes, and for an entry's low word and a page number 0..31 whether stores and fetches are forbidden. -/
structure PoFormat where
  /-- set index of an effective address -/
  setOf : Word → BitVec 4
  /-- the page's WE bit forbids a store -/
  storeForbidden : Word → BitVec 5 → Bool
  /-- the page's NE bit forbids a fetch -/
  fetchForbidden : Word → BitVec 5 → Bool
deriving Inhabited

/-- The free value drawn at `site` when the model's counter stands at the given number (`UNDEF32`, R10, D12). -/
opaque Config.undef32 : UndefSite → Nat → Word

/-- `DENORM_INPUT_POLICY` (R10). -/
opaque Config.denormPolicy : DenormPolicy

/-- `AP_RULE` (R10). -/
opaque Config.apRule : ApRule

/-- `NI_RESULTS` (R10): the predetermined result of an event for up to three operands (log entry 14). -/
opaque Config.niResults : NiEvent → Word → Word → Word → Word

/-- The protection-only format (R182; log entry 16). -/
opaque Config.poFormat : PoFormat

/-- `HID0_<field>` as given (R10); `hid0Layout` in Sys2Proof/Machine/Params.lean makes the positions distinct. -/
opaque Config.hid0Raw : Hid0Layout

/-- `TCR_<field>` as given (R10); `tcrLayout` in Sys2Proof/Machine/Params.lean makes the positions distinct. -/
opaque Config.tcrRaw : TcrLayout

/-- `WDT_BIT[0..3]` (R10): the time-base bit whose carry-out is a watchdog expiry, for each period. -/
opaque Config.wdtBit : BitVec 2 → Fin 64

/-- `IBAT_NE_BIT` (R10): which of the eleven reserved bits of the IBAT lower word is NE. -/
opaque Config.ibatNeRaw : Fin 11

/-- `IBAT_SE_BIT` (R10), counted in the same eleven bits. -/
opaque Config.ibatSeRaw : Fin 11

/-- The revision half of `PVR_VALUE` (R10, D39). -/
opaque Config.pvrRevision : BitVec 16

/-- `HID1_VALUE` (R10, D30). -/
opaque Config.hid1Value : Word

end Sys2Proof
end

