-- ==== Sys2Proof/Machine/State.lean ====
section
/-!
DEFINITION. The state of one PowerPC 602 with its platform inputs, and the ways a step can stop
(spec/10_state.md, spec/60_exceptions.md R820). Plain data only. INVENTORY.md lists every field with its rule and
its reset value.
-/
namespace Sys2Proof.Machine

/-- A case the spec (or the architecture it stands on) calls undefined, with no effect among its choices: the spec does
`refuse(reason)` (spec/00_scope.md R13) and the machine stops. Stopping is safe: no claim about a run goes past it. -/
inductive Fault
  /-- Raised by an instruction that names GPR4 to GPR31 while MSR[TGPR] = 1 (spec/10_state.md R41). Safe. -/
  | tgprHighRegister
  /-- Raised by the decoder's caller or by a meaning for an invalid form (spec/30_encoding.md R270). Safe. -/
  | invalidForm
  /-- Raised by a translation that more than one BAT pair matches (spec/20_memory.md R172). Safe. -/
  | multipleBatMatch
  /-- Raised by an instruction that reads an FPR with neither or both tags set (spec/10_state.md R44). Safe. -/
  | fprUntagged
  /-- Raised by `mtmsr` with MSR[POW] = 1 and more than one mode selected in HID0 (spec/60_exceptions.md R801). Safe. -/
  | powerModeSelect
deriving DecidableEq, Repr

/-- A case the spec gives no meaning because its sources lack the detail (`refuse(reason)`, spec/00_scope.md R13). -/
inductive Refusal
  /-- Raised by an arm of `exec` whose instruction has no meaning yet. Safe. -/
  | notModelled (mnemonic : String)
  /-- Raised by a fetch or a data access with MSR[LE] = 1 (spec/20_memory.md R151, D2). Safe. -/
  | littleEndianMode
  /-- Raised by an arithmetic, compare, sign or single-store use of an integer-tagged FPR (D19). Safe. -/
  | fprIntegerOperand
deriving DecidableEq, Repr

/-- The exceptions of spec/60_exceptions.md R744 (hard reset is no exception entry, R750). -/
inductive Exception
  | softReset | machineCheck | dsi | isi | external | alignment | program | fpUnavailable | decrementer
  | systemCall | trace | instrMiss | dataLoadMiss | dataStoreMiss | iabrMatch | smi | watchdog | emulation
deriving DecidableEq, Repr

/-- The power states (spec/10_state.md R106). -/
inductive PowerState
  | full | doze | nap | sleep
deriving DecidableEq, Repr

/-- What another bus master does (spec/20_memory.md R202, R212), and how the next data transaction of a load ends
(spec/60_exceptions.md R752). -/
inductive BusEvent
  | write (addr : Word) (value : Byte)   -- it writes one byte
  | claim (addr : Word)                  -- read with intent to modify, or a dcbz, dcbi or dcbf kill: no byte changes
  | teaLoad                              -- the next data transaction of a load will end with TEA
deriving DecidableEq, Repr

/-- What an area of physical memory is where it is no RAM (spec/20_memory.md R165; spec/92_eei_decisions.md). -/
inductive RegionKind
  | rom      -- reads as memory, stores change nothing
  | device   -- a device region: what a read returns and a store does is the platform's
  | absent   -- nothing answers: the platform may end the transaction with TEA
deriving DecidableEq, Repr

/-- An area of the physical memory map, from the 32-byte block `first` to the block `last` (R165; log entry 21). -/
structure Region where
  /-- number of the first block -/
  first : BitVec 27
  /-- number of the last block -/
  last : BitVec 27
  /-- what it is -/
  kind : RegionKind
deriving DecidableEq, Repr

/-- What the environment does between two actions of the core (spec/10_state.md R104, spec/60_exceptions.md R790, R820). -/
inductive Event
  | tick                                     -- four bus clocks pass
  | int (level : Bool) | smi (level : Bool)  -- interrupt input levels
  | tben (level : Bool)                      -- time base enable level
  | hreset (level : Bool)                    -- hard reset level
  | sreset                                   -- soft reset edge
  | mcp | tea                                -- machine check conditions of no particular load
  | bus (e : BusEvent)                       -- something happens on the bus
deriving DecidableEq, Repr

/-- The input levels (spec/10_state.md R104). -/
structure Pins where
  /-- INT -/
  int : Bool
  /-- SMI -/
  smi : Bool
  /-- TBEN -/
  tben : Bool
  /-- HRESET -/
  hreset : Bool
deriving DecidableEq, Repr

/-- The timer control register's five fields (spec/10_state.md R94, spec/60_exceptions.md R796). -/
structure Tcr where
  /-- watchdog enable -/
  we : Bool
  /-- period select -/
  wp : BitVec 2
  /-- a second expiry resets -/
  wrc : Bool
  /-- WDT_ARMED_SECOND: an expiry the handler has not answered -/
  ws : Bool
deriving DecidableEq, Repr

/-- One TLB entry (spec/20_memory.md R176). `page` is EA<0..19> of the loading instruction; page translation compares
EA<4..15> of it, protection-only mode EA<0..14>. -/
structure TlbEntry where
  /-- valid bit -/
  valid : Bool
  /-- virtual segment id -/
  vsid : BitVec 24
  /-- effective page number -/
  page : BitVec 20
  /-- the PTE low word, in the format of RPA -/
  pte1 : Word
deriving DecidableEq, Repr

/-- The part of the context a following instruction may still see with its old value (spec/70_reset_and_hazards.md
R841). MSR[SA] is in that list too; nothing of this machine depends on it, so it needs no old value. -/
structure SyncCtx where
  /-- MSR[IR] -/
  ir : Bool
  /-- MSR[PR] -/
  pr : Bool
  /-- MSR[AP] -/
  ap : Bool
  /-- MSR[LE] -/
  le : Bool
  /-- MSR[IP] -/
  ip : Bool
  /-- segment registers, for instruction fetches -/
  sr : Vector Word 16
  /-- instruction BATs -/
  ibat : Vector Word 8
  /-- SDR1 -/
  sdr1 : Word
  /-- HID0 -/
  hid0 : Word
  /-- IABR -/
  iabr : Word
  /-- instruction TLB -/
  itlb : Vector TlbEntry 32
  /-- data TLB -/
  dtlb : Vector TlbEntry 32
deriving DecidableEq, Repr

/-- How far the sequence of spec/20_memory.md R221 has gone for a replaced word. -/
inductive StalePhase
  | stored             -- the store only
  | pushed             -- dcbst or dcbf executed
  | pushedSynced       -- and sync
  | invalidated        -- and icbi
  | invalidatedSynced  -- and sync; isync ends it
deriving DecidableEq, Repr

/-- A word that a store replaced: a fetch may still return it (spec/20_memory.md R220). -/
structure StaleWord where
  /-- word-aligned physical address -/
  addr : Word
  /-- the replaced word -/
  old : Word
  /-- the stage of R221 reached -/
  phase : StalePhase
  /-- a dcbi has since settled the block's bytes: the replaced word cannot come back into memory (R674) -/
  discarded : Bool := false
deriving DecidableEq, Repr

/-- Physical memory: (address, byte) pairs, addresses strictly rising, none equal to what an unlisted address reads as
(spec/20_memory.md R140; `Memory.wf` in Sys2Proof/Machine/Memory.lean). -/
abbrev Memory := List Host.Cell

/-- The whole machine (spec/10_state.md; the fields marked MODEL are the model's own, INVENTORY.md). -/
@[ext]
structure State where
  /-- address of the instruction being executed (R42) -/
  cia : Word
  /-- GPR0 to GPR31 (R40) -/
  gpr : Vector Word 32
  /-- TGPR0 to TGPR3 (R41) -/
  tgpr : Vector Word 4
  /-- FPR data (R43, R44) -/
  fpr : Vector Word 32
  /-- single-precision tags, IBM bit i for FPR i (R92) -/
  sp : Word
  /-- integer tags (R93) -/
  lt : Word
  /-- condition register (R45) -/
  cr : Word
  /-- XER (R48) -/
  xer : Word
  /-- link register (R49) -/
  lr : Word
  /-- count register (R50) -/
  ctr : Word
  /-- FPSCR (R51) -/
  fpscr : Word
  /-- machine state register (R60) -/
  msr : Word
  /-- segment registers (R63) -/
  sr : Vector Word 16
  /-- DSISR (R72) -/
  dsisr : Word
  /-- DAR (R73) -/
  dar : Word
  /-- decrementer (R74) -/
  dec : Word
  /-- SDR1 (R75) -/
  sdr1 : Word
  /-- SRR0 (R76) -/
  srr0 : Word
  /-- SRR1 (R77) -/
  srr1 : Word
  /-- SPRG0 to SPRG3 (R78) -/
  sprg : Vector Word 4
  /-- time base, TBU then TBL (R79) -/
  tb : BitVec 64
  /-- IBAT0U, IBAT0L, ..., IBAT3L (R81) -/
  ibat : Vector Word 8
  /-- DBAT0U, DBAT0L, ..., DBAT3L (R81) -/
  dbat : Vector Word 8
  /-- DMISS (R84) -/
  dmiss : Word
  /-- IMISS (R84) -/
  imiss : Word
  /-- the last acknowledged miss was a data miss (R85) -/
  missIsData : Bool
  /-- RPA (R87) -/
  rpa : Word
  /-- TCR (R94) -/
  tcr : Tcr
  /-- IBR (R95) -/
  ibr : Word
  /-- ESASRR (R91) -/
  esasrr : Word
  /-- SEBR (R90) -/
  sebr : Word
  /-- SER (R89) -/
  ser : Word
  /-- HID0 (R82) -/
  hid0 : Word
  /-- IABR (R88) -/
  iabr : Word
  /-- RESERVE and RESERVE_ADDR: the reserved granule's address (R100) -/
  reserve : Option Word
  /-- instruction TLB, entry 2 * set + way (R101) -/
  itlb : Vector TlbEntry 32
  /-- data TLB (R101) -/
  dtlb : Vector TlbEntry 32
  /-- physical memory -/
  mem : Memory
  /-- the physical memory map: the areas that are no RAM, the first that covers an address counts (spec/20_memory.md
  R165) -/
  map : List Region
  /-- MODEL: bytes another master replaced while the data cache was not snooped, with the byte a cached copy may still
  hold (spec/60_exceptions.md R803) -/
  cached : List Host.Cell
  /-- words the instruction side may still see (R102, spec/20_memory.md R220) -/
  stale : List StaleWord
  /-- power state (R106) -/
  power : PowerState
  /-- a static mode selected and not yet entered (spec/60_exceptions.md R801) -/
  powPending : Option PowerState
  /-- checkstop (R107) -/
  checkstop : Bool
  /-- input levels (R104) -/
  pins : Pins
  /-- an SRESET edge not yet taken (R104) -/
  sresetPending : Bool
  /-- an MCP or TEA event not yet recognised (R104) -/
  mcheckPending : Bool
  /-- the next data transaction of a load will end with TEA (spec/60_exceptions.md R752) -/
  teaNext : Bool
  /-- a transaction ended with TEA and the condition is not yet recognised (R752) -/
  teaUnrecognised : Bool
  /-- the soft reset of a second watchdog expiry not yet taken (spec/60_exceptions.md R795) -/
  wdtResetPending : Bool
  /-- DEC_PENDING (R104) -/
  decPending : Bool
  /-- WDT_PENDING (R105) -/
  wdtPending : Bool
  /-- MODEL: the environment's event batches, one consumed by each step (spec/60_exceptions.md R820) -/
  env : List (List Event)
  /-- MODEL: what happens on the bus between the parts of one access, one entry consumed at each gap
  (spec/20_memory.md R161) -/
  amid : List (List BusEvent)
  /-- MODEL: where the free values are drawn (D12); one more at each step -/
  draws : Nat
  /-- MODEL: the interrupts that were takeable at the last boundary and put off (spec/60_exceptions.md R782) -/
  deferred : List Exception
  /-- MODEL: old contexts that are still possible (spec/70_reset_and_hazards.md R841) -/
  windows : List SyncCtx
  /-- MODEL: the exception the last step took (spec/60_exceptions.md R765 asks whether the instruction completed) -/
  taken : Option Exception
deriving DecidableEq, Repr

/-- The outcome of a step or of an instruction. -/
abbrev Out := Host.Outcome State Fault Refusal

/-- A TLB entry that never matches (spec/10_state.md R101). -/
def TlbEntry.invalid : TlbEntry := { valid := false, vsid := 0, page := 0, pte1 := 0 }

/-- The machine right after hard reset (spec/70_reset_and_hazards.md R830, spec/10_state.md R110). The values R830 does
not state are the model's: the 603e column of R110 where it has one (PRESUMED, log entry 18), else zero or invalid
(DESIGN CHOICE, log entries 19, 20, 21, 23); the caches, unspecified too (R102), hold nothing that differs from memory
(`stale`, `cached`; DESIGN CHOICE, log entry 60). -/
def State.reset : State where
  cia := 0xFFF00100
  gpr := Vector.replicate 32 0
  tgpr := Vector.replicate 4 0
  fpr := Vector.replicate 32 0
  sp := 0xFFFFFFFF
  lt := 0
  cr := 0
  xer := 0
  lr := 0
  ctr := 0
  fpscr := 0
  msr := 0x00000040
  sr := Vector.replicate 16 0
  dsisr := 0
  dar := 0
  dec := 0xFFFFFFFF
  sdr1 := 0
  srr0 := 0
  srr1 := 0
  sprg := Vector.replicate 4 0
  tb := 0
  ibat := Vector.replicate 8 0
  dbat := Vector.replicate 8 0
  dmiss := 0
  imiss := 0
  missIsData := false
  rpa := 0
  tcr := { we := false, wp := 0, wrc := false, ws := false }
  ibr := 0
  esasrr := 0
  sebr := 0
  ser := 0
  hid0 := 0
  iabr := 0
  reserve := none
  itlb := Vector.replicate 32 TlbEntry.invalid
  dtlb := Vector.replicate 32 TlbEntry.invalid
  mem := []
  map := []
  cached := []
  stale := []
  power := .full
  powPending := none
  checkstop := false
  pins := { int := false, smi := false, tben := true, hreset := false }
  sresetPending := false
  mcheckPending := false
  teaNext := false
  teaUnrecognised := false
  wdtResetPending := false
  decPending := false
  wdtPending := false
  env := []
  amid := []
  draws := 0
  deferred := []
  windows := []
  taken := none

end Sys2Proof.Machine
end

