-- ==== Sys2Proof/Machine/Free.lean ====
section
/-!
DEFINITION. Where a free value is drawn (spec/00_scope.md R10, `UNDEF32`; spec/92_eei_decisions.md D12).
-/
namespace Sys2Proof.Machine

/-- The free value of a site at this step. -/
def State.draw (s : State) (site : UndefSite) : Word := Config.undef32 site s.draws

/-- A free bit. -/
def State.drawBit (s : State) (site : UndefSite) : Bool := (s.draw site).getLsbD 0

/-- A free element of a nonempty list. -/
def State.drawFrom {α : Type} (s : State) (site : UndefSite) (x : α) (others : List α) : α :=
  ((x :: others)[(s.draw site).toNat % (others.length + 1)]?).getD x

end Sys2Proof.Machine
end

