-- ==== Sys2Proof/Machine/Params.lean ====
section
/-!
DEFINITION. The open parameters of spec/00_scope.md R10 for which the spec suggests a value, and the field layouts made
from Sys2Proof/Config.lean. Every suggested value here is PRESUMED (the spec's own recollection or choice, not its
source's) and unsafe; the log entries name them. The standard MSR positions are the spec's (R61, D4).
-/
namespace Sys2Proof.Machine

/-- `MSR_AP_BIT` as a mask (R61). PRESUMED IBM bit 8, log entry 2. -/
def msrAP : Word := 0x00800000
/-- `MSR_SA_BIT` as a mask (R61). PRESUMED IBM bit 9, log entry 2. -/
def msrSA : Word := 0x00400000
/-- MSR[POW] (R61). -/
def msrPOW : Word := 0x00040000
/-- MSR[TGPR] (R61). -/
def msrTGPR : Word := 0x00020000
/-- MSR[ILE] (R61). -/
def msrILE : Word := 0x00010000
/-- MSR[EE] (R61). -/
def msrEE : Word := 0x00008000
/-- MSR[PR] (R61). -/
def msrPR : Word := 0x00004000
/-- MSR[FP] (R61). -/
def msrFP : Word := 0x00002000
/-- MSR[ME] (R61). -/
def msrME : Word := 0x00001000
/-- MSR[FE0] and MSR[FE1] together (R61). -/
def msrFE : Word := 0x00000900
/-- MSR[SE] (R61). -/
def msrSE : Word := 0x00000400
/-- MSR[BE] (R61). -/
def msrBE : Word := 0x00000200
/-- MSR[IP] (R61). -/
def msrIP : Word := 0x00000040
/-- MSR[IR] (R61). -/
def msrIR : Word := 0x00000020
/-- MSR[DR] (R61). -/
def msrDR : Word := 0x00000010
/-- MSR[LE] (R61). -/
def msrLE : Word := 0x00000001

/-- `MSR_IMPLEMENTED_MASK` (R10, spec/45_processor_control.md R631). PRESUMED with the AP and SA positions, log entry 2. -/
def msrImplemented : Word := 0x00C7FF73

/-- The MSR bits an exception entry keeps: ILE, ME, IP (spec/60_exceptions.md R741). -/
def msrEntryKeep : Word := 0x00011040

/-- The MSR bits SRR1 saves (spec/60_exceptions.md R745). -/
def srr1Saved : Word := 0x87C0FFFF

/-- The MSR bits `rfi` restores (spec/60_exceptions.md R746). -/
def rfiMask : Word := 0x00C0FF73

/-- The bits `esa` saves and `dsa` restores: PR, AP, SA, EE (spec/10_state.md R91). -/
def esaMask : Word := msrPR ||| msrAP ||| msrSA ||| msrEE

/-- `IBR_PREFIX_MASK` (R10, D5). PRESUMED, log entry 3. -/
def ibrPrefixMask : Word := 0xFFFF0000

/-- `RESERVATION_GRANULE` in bytes is 32: the mask of a granule's address (R10, D17). PRESUMED, log entry 5. -/
def granuleMask : Word := 0xFFFFFFE0

/-- `NAP_DEC_TICKS` (R10, D22). PRESUMED yes, log entry 6. -/
def napDecTicks : Bool := true

/-- `ESA_NEW_AP` and `ESA_NEW_EE` (R10, D13): the MSR after `esa` but for PR and SA. PRESUMED unchanged, log entry 7. -/
def esaNewApEe (msr : Word) : Word := msr

/-- `PVR_VALUE` (R10, D39): version 0x0005 PRESUMED, the revision open, log entry 8. -/
def pvrValue : Word := (0x0005 : BitVec 16) ++ Config.pvrRevision

/-- The positions in a HID0 layout. -/
def hid0Positions (l : Hid0Layout) : List (Fin 32) :=
  [l.po, l.w, l.i, l.m, l.g, l.doze, l.nap, l.sleep, l.dpm, l.ice, l.dce]

/-- `HID0_<field>`: the given positions where they are distinct, else eleven distinct ones (log entry 10). -/
def hid0Layout : Hid0Layout :=
  if (hid0Positions Config.hid0Raw).Nodup then Config.hid0Raw
  else ⟨0, 1, 2, 3, 4, 5, 6, 7, 8, 9, 10⟩

/-- The positions in a TCR layout. -/
def tcrPositions (l : TcrLayout) : List (Fin 32) := [l.we, l.wpHigh, l.wpLow, l.wrc, l.ws]

/-- `TCR_<field>`: the given positions where they are distinct, else five distinct ones (log entry 11). -/
def tcrLayout : TcrLayout :=
  if (tcrPositions Config.tcrRaw).Nodup then Config.tcrRaw else ⟨0, 1, 2, 3, 4⟩

/-- The eleven reserved bits of an IBAT lower word (spec/10_state.md R81), as LSB-0 numbers: 16 to 7 and 2. -/
def ibatReservedBit (k : Fin 11) : Nat := if k.val < 10 then 16 - k.val else 2

/-- `IBAT_NE_BIT` (R10, D37; log entry 12). -/
def ibatNeBit : Nat := ibatReservedBit Config.ibatNeRaw

/-- `IBAT_SE_BIT`, distinct from `ibatNeBit` (R10, D37; log entry 12). -/
def ibatSeBit : Nat :=
  ibatReservedBit (if Config.ibatSeRaw = Config.ibatNeRaw then Config.ibatNeRaw + 1 else Config.ibatSeRaw)

end Sys2Proof.Machine
end

