-- ==== Sys2Proof/Machine/Memory.lean ====
section
/-!
DEFINITION. Physical memory: the memory map, reading and writing bytes, the canonical form, what a store leaves for the
instruction side, and what other bus masters do (spec/20_memory.md R140 to R150, R161, R165, R202, R212, R220;
spec/92_eei_decisions.md D33, D34).
-/
namespace Sys2Proof.Machine

/- The physical memory map (R165; log entry 21). -/

/-- The area holds a physical address. -/
def Region.covers (r : Region) (pa : Word) : Bool :=
  decide (r.first ≤ pa.extractLsb' 5 27) && decide (pa.extractLsb' 5 27 ≤ r.last)

/-- What stands at a physical address: none for RAM. -/
def State.kindAt (s : State) (pa : Word) : Option RegionKind := (s.map.find? (·.covers pa)).map (·.kind)

/-- RAM stands at a physical address. -/
def State.isRam (s : State) (pa : Word) : Bool := s.kindAt pa == none

/-- Neither RAM nor ROM stands at a physical address. -/
def State.noMemory (s : State) (pa : Word) : Bool := s.kindAt pa == some .device || s.kindAt pa == some .absent

/-- An access at a physical address ends with TEA where nothing answers and the platform says so
(spec/92_eei_decisions.md, physical memory map). -/
def State.answersTea (s : State) (pa : Word) : Bool := s.kindAt pa == some .absent && s.drawBit (.absentTea pa)

/- Bytes. -/

/-- What an unlisted byte reads as. DESIGN CHOICE, unsafe, log entry 21: no source gives the contents of memory. -/
def unlistedByte : Byte := 0

/-- The byte at a physical address. -/
def Memory.get : Memory → Nat → Byte
  | [], _ => unlistedByte
  | (b, v) :: rest, a => if a = b then v else Memory.get rest a

/-- The memory with one byte written, in canonical form. -/
def Memory.set : Memory → Nat → Byte → Memory
  | [], a, v => if v = unlistedByte then [] else [(a, v)]
  | (b, w) :: rest, a, v =>
    if a < b then (if v = unlistedByte then (b, w) :: rest else (a, v) :: (b, w) :: rest)
    else if a = b then (if v = unlistedByte then rest else (a, v) :: rest)
    else (b, w) :: Memory.set rest a v

/-- Addresses from `lo` on, strictly rising, inside the address space, no byte listed that reads the same unlisted. -/
def Memory.wfFrom : Nat → Memory → Bool
  | _, [] => true
  | lo, (a, v) :: rest => decide (lo ≤ a) && decide (a < 2 ^ 32) && v != unlistedByte && Memory.wfFrom (a + 1) rest

/-- The canonical form of memory. -/
def Memory.wf (m : Memory) : Bool := Memory.wfFrom 0 m

/-- The byte at a physical address of the machine (R140). -/
def readByte (s : State) (pa : Word) : Byte := s.mem.get pa.toNat

/-- `n` bytes from a physical address on, as a big-endian value; addresses wrap (R142, R150). -/
def readPhys (s : State) (pa : Word) (n : Nat) : Word :=
  wordOfBE ((List.range n).map fun k => readByte s (pa + BitVec.ofNat 32 k))

/-- The aligned word that holds a physical address. -/
def readWordAt (s : State) (pa : Word) : Word := readPhys s (wordAlign pa) 4

/-- Bytes written at rising addresses. -/
def setBytes (m : Memory) (pa : Word) : List Byte → Memory
  | [] => m
  | b :: rest => setBytes (m.set pa.toNat b) (pa + 1) rest

/-- The record of a replaced word: none where the word did not change (R220). -/
def staleOf (phase : StalePhase) (addr old new : Word) : List StaleWord :=
  if old = new then [] else [{ addr, old, phase }]

/-- Store the low `n` bytes of `v` at `pa`, all in one aligned word, and record the word they replace at a stage of R221
(R150, R220). -/
def writeAs (phase : StalePhase) (s : State) (pa : Word) (n : Nat) (v : Word) : State :=
  let old := readWordAt s pa
  let s' := { s with mem := setBytes s.mem pa (bytesBE n v) }
  { s' with stale := staleOf phase (wordAlign pa) old (readWordAt s' pa) ++ s.stale }

/-- A stored byte is no longer one that a cached copy may differ in (spec/60_exceptions.md R803). -/
def forgetCached (s : State) (pa : Word) (n : Nat) : State :=
  { s with cached := s.cached.filter fun e => decide (n ≤ (BitVec.ofNat 32 e.1 - pa).toNat) }

/-- A store of this core (R220): only RAM changes; where nothing answers the transaction may end with TEA (R165). A
reservation of this core stays (R212), against the words of spec/70_reset_and_hazards.md R848 on a handler that stores
(DESIGN CHOICE, log entry 59). -/
def writePhys (s : State) (pa : Word) (n : Nat) (v : Word) : State :=
  if s.isRam pa then forgetCached (writeAs .stored s pa n v) pa n
  else { s with teaUnrecognised := s.teaUnrecognised || s.answersTea pa }

/-- Store eight words from a block address on (R671, R225). -/
def writeBlock (s : State) (pa : Word) : List Word → State
  | [] => s
  | w :: rest => writeBlock (writePhys s pa 4 w) (pa + 4) rest

/- Other bus masters (R161, R202, R212; spec/60_exceptions.md R803). -/

/-- The data cache is snooped (spec/60_exceptions.md R800, R803). -/
def snooping (s : State) : Bool := s.power == .full || s.power == .doze

/-- A snooped access of another master to the reserved granule ends the reservation (R212). -/
def snoopReservation (s : State) (addr : Word) : State :=
  if snooping s && s.reserve == some (addr &&& granuleMask) then { s with reserve := none } else s

/-- A byte written by another bus master: memory has it, the instruction cache is not snooped (R202, R220). -/
def writeBus (s : State) (pa : Word) (b : Byte) : State := writeAs .pushedSynced s pa 1 (b.setWidth 32)

/-- Another bus master writes a byte of RAM. Where the data cache is not snooped, a cached copy may still hold the byte
replaced (spec/60_exceptions.md R803; log entry 53). -/
def busWrite (s : State) (addr : Word) (value : Byte) : State :=
  if s.isRam addr then
    let t := writeBus s addr value
    if snooping s then forgetCached t addr 1 else { t with cached := (addr.toNat, readByte s addr) :: s.cached }
  else s

/-- What happens on the bus (R212; spec/60_exceptions.md R752). -/
def applyBus (s : State) (e : BusEvent) : State :=
  match e with
  | .write addr value => snoopReservation (busWrite s addr value) addr
  | .claim addr => snoopReservation s addr
  | .teaLoad => { s with teaNext := true }

/-- What happens on the bus between two parts of an access that is not atomic (R161, D34; log entry 54). -/
def between (s : State) : State := (s.amid.headD []).foldl applyBus { s with amid := s.amid.tail }

/-- The state after `n` such gaps. -/
def gaps (s : State) : Nat → State
  | 0 => s
  | n + 1 => gaps (between s) n

end Sys2Proof.Machine
end

