-- ==== Sys2Proof/Machine/Ops.lean ====
section
/-!
DEFINITION. The named operations: registers, old and new context, taking an exception and returning from
one (spec/10_state.md R41, spec/60_exceptions.md R740 to R746, spec/70_reset_and_hazards.md R841).
-/
namespace Sys2Proof.Machine

/-- The result of a part of an instruction: a value, or the outcome that ends the instruction. -/
abbrev Try (α : Type) := Except Out α

/-- Go on with the value, or end with the outcome. -/
def proceed {α : Type} (x : Try α) (k : α → Out) : Out :=
  match x with
  | .ok a => k a
  | .error o => o

/-- End the instruction with `o` unless the condition holds. -/
def require (b : Bool) (o : Out) : Try Unit := if b then .ok () else .error o

/-- The next state reached by an instruction that does not branch: `NIA <- CIA + 4` (spec/10_state.md R42). -/
def advance (s : State) : Out := .next { s with cia := s.cia + 4 }

/- General registers (spec/10_state.md R40, R41). -/

/-- A bit of the MSR. -/
def State.msrBit (s : State) (mask : Word) : Bool := s.msr &&& mask != 0

/-- The register number is mapped to a TGPR (R41). -/
def State.usesTgpr (s : State) (r : Reg) : Bool := s.msrBit msrTGPR && decide (r < 4)

/-- `GPR[r]` through the TGPR mapping (R41). -/
def State.readGpr (s : State) (r : Reg) : Word :=
  if s.usesTgpr r then s.tgpr.get ⟨r.toNat % 4, Nat.mod_lt _ (by decide)⟩ else s.gpr.get r.toFin

/-- `GPR[r] <- v` through the TGPR mapping (R41). -/
def State.writeGpr (s : State) (r : Reg) (v : Word) : State :=
  if s.usesTgpr r then { s with tgpr := s.tgpr.set (r.toNat % 4) v (Nat.mod_lt _ (by decide)) }
  else { s with gpr := s.gpr.set r.toNat v r.isLt }

/-- `(rA|0)` (spec/00_scope.md R13). -/
def State.readGprOr0 (s : State) (r : Reg) : Word := if r = 0 then 0 else s.readGpr r

/-- No register named is GPR4 to GPR31 while MSR[TGPR] = 1 (R41, D32). -/
def State.gprsUsable (s : State) (rs : List Reg) : Bool := !s.msrBit msrTGPR || rs.all fun r => decide (r < 4)

/-- The check of `gprsUsable`. -/
def guardGprs (s : State) (rs : List Reg) : Try Unit := require (s.gprsUsable rs) (.fault .tgprHighRegister)

/-- The check of an operand constraint (spec/30_encoding.md R270). -/
def guardForm (ok : Bool) : Try Unit := require ok (.fault .invalidForm)

/- Old and new context (spec/70_reset_and_hazards.md R841, D36). -/

/-- The context as it stands. -/
def State.ctx (s : State) : SyncCtx where
  ir := s.msrBit msrIR
  pr := s.msrBit msrPR
  ap := s.msrBit msrAP
  le := s.msrBit msrLE
  ip := s.msrBit msrIP
  sr := s.sr
  ibat := s.ibat
  sdr1 := s.sdr1
  hid0 := s.hid0
  iabr := s.iabr
  itlb := s.itlb
  dtlb := s.dtlb

/-- The value of a context item that this instruction uses: the new one, or any old one that is still possible. -/
def State.view {α : Type} [DecidableEq α] (s : State) (site : UndefSite) (f : SyncCtx → α) : α :=
  if s.windows.all (fun c => f c = f s.ctx) then f s.ctx else s.drawFrom site (f s.ctx) (s.windows.map f)

/-- MSR[IR] as a fetch sees it. -/
def State.irView (s : State) : Bool := s.view .ctxIr (·.ir)
/-- MSR[PR] as an instruction sees it: user level. -/
def State.prView (s : State) : Bool := s.view .ctxPr (·.pr)
/-- MSR[AP]. -/
def State.apView (s : State) : Bool := s.view .ctxAp (·.ap)
/-- MSR[LE]. -/
def State.leView (s : State) : Bool := s.view .ctxLe (·.le)
/-- MSR[IP]. -/
def State.ipView (s : State) : Bool := s.view .ctxIp (·.ip)
/-- A segment register as a fetch sees it. -/
def State.srView (s : State) (n : BitVec 4) : Word := s.view .ctxSr (·.sr.get n.toFin)
/-- The IBATs, each word by itself: every `mtspr` to one is old or new on its own. -/
def State.ibatView (s : State) (k : Fin 8) : Word := s.view (.ctxIbat k) (·.ibat.get k)
/-- SDR1. -/
def State.sdr1View (s : State) : Word := s.view .ctxSdr1 (·.sdr1)
/-- HID0. -/
def State.hid0View (s : State) : Word := s.view .ctxHid0 (·.hid0)
/-- IABR. -/
def State.iabrView (s : State) : Word := s.view .ctxIabr (·.iabr)
/-- The instruction TLB, each entry by itself. -/
def State.itlbView (s : State) (k : Fin 32) : TlbEntry := s.view (.ctxItlb k) (·.itlb.get k)
/-- The data TLB, each entry by itself. -/
def State.dtlbView (s : State) (k : Fin 32) : TlbEntry := s.view (.ctxDtlb k) (·.dtlb.get k)

/-- After a context-altering instruction: `s` is the state it leaves, `old` the one it found (R841). -/
def openWindow (old s : State) : State :=
  if s.ctx = old.ctx then s else { s with windows := old.ctx :: s.windows }

/-- A register with reserved fields as it is read back: the bits of `kept` as stored, the others any value
(spec/93_implementation_defined.md A17; log entry 42). -/
def State.readBack (s : State) (kept stored : Word) : Word := merge kept stored (s.draw .reservedField)

/-- A context-synchronising event (R841, spec/20_memory.md R205). -/
def closeWindows (s : State) : State := { s with windows := [] }

/-- `sync` completes earlier `tlbie`, `tlbld`, `tlbli` (R841; spec/45_processor_control.md R640). -/
def settleTlbs (s : State) : State :=
  { s with windows := s.windows.map fun c => { c with itlb := s.itlb, dtlb := s.dtlb } }

/-- A field of HID0 (spec/10_state.md R82). -/
def hid0Field (pos : Hid0Layout → Fin 32) (hid0 : Word) : Bool := hid0.getLsbD (pos hid0Layout).val

/- Taking an exception (spec/60_exceptions.md R740 to R745). -/

/-- The vector offset (R744). -/
def Exception.offset : Exception → Word
  | .softReset => 0x0100
  | .machineCheck => 0x0200
  | .dsi => 0x0300
  | .isi => 0x0400
  | .external => 0x0500
  | .alignment => 0x0600
  | .program => 0x0700
  | .fpUnavailable => 0x0800
  | .decrementer => 0x0900
  | .systemCall => 0x0C00
  | .trace => 0x0D00
  | .instrMiss => 0x1000
  | .dataLoadMiss => 0x1100
  | .dataStoreMiss => 0x1200
  | .iabrMatch => 0x1300
  | .smi => 0x1400
  | .watchdog => 0x1500
  | .emulation => 0x1600

/-- The exceptions whose prefix is 0x0000 with IP = 0 (R743). -/
def Exception.zeroPrefix : Exception → Bool
  | .softReset | .machineCheck | .iabrMatch => true
  | .dsi | .isi | .external | .alignment | .program | .fpUnavailable | .decrementer | .systemCall | .trace
  | .instrMiss | .dataLoadMiss | .dataStoreMiss | .smi | .watchdog | .emulation => false

/-- The three translation misses (R741, R766). -/
def Exception.isMiss : Exception → Bool
  | .instrMiss | .dataLoadMiss | .dataStoreMiss => true
  | .softReset | .machineCheck | .dsi | .isi | .external | .alignment | .program | .fpUnavailable | .decrementer
  | .systemCall | .trace | .iabrMatch | .smi | .watchdog | .emulation => false

/-- The vector address (R743). -/
def vectorAddress (e : Exception) (ip : Bool) (ibr : Word) : Word :=
  if ip then 0xFFF00000 ||| e.offset
  else if e.zeroPrefix then e.offset
  else (ibr &&& ibrPrefixMask) ||| e.offset

/-- `entry_image(old, X)` (R741). -/
def entryMsr (e : Exception) (old : Word) : Word :=
  let kept := old &&& (if e = .machineCheck then msrEntryKeep &&& ~~~msrME else msrEntryKeep)
  kept ||| maskIf (old &&& msrILE != 0) msrLE ||| maskIf e.isMiss msrTGPR

/-- SRR1 at entry (R745): for the translation misses CR0 replaces the copy of MSR<0> (R766). -/
def entrySrr1 (e : Exception) (old info : Word) : Word :=
  if e.isMiss then (old &&& srr1Saved &&& 0x0FFFFFFF) ||| info else (old &&& srr1Saved) ||| info

/-- Take an exception: R740 steps 1 to 7. Entry synchronises the context (R205), wakes the core and cancels a power
mode not yet entered with MSR[POW] (R802, R741). -/
def takeException (e : Exception) (srr0 info : Word) (s : State) : State :=
  { s with
    srr0 := srr0
    srr1 := entrySrr1 e s.msr info
    msr := entryMsr e s.msr
    cia := vectorAddress e s.ipView s.ibr
    decPending := s.decPending && e != .decrementer
    wdtPending := s.wdtPending && e != .watchdog
    power := .full
    powPending := none
    deferred := []
    windows := []
    taken := some e }

/-- End the instruction at CIA with an exception that saves CIA (R742). -/
def raise (e : Exception) (info : Word) (s : State) : Out := .next (takeException e s.cia info s)

/-- SRR1<11>, <12>, <13>, <14> of a program exception (R745). -/
def infoFpEnabled : Word := 0x00100000
/-- SRR1<12>: illegal instruction (R745). -/
def infoIllegal : Word := 0x00080000
/-- SRR1<13>: privileged instruction (R745). -/
def infoPrivileged : Word := 0x00040000
/-- SRR1<14>: trap (R745). -/
def infoTrap : Word := 0x00020000

/-- The illegal-instruction program exception (R756 b). -/
def raiseIllegal (s : State) : Out := raise .program infoIllegal s

/-- The privileged-instruction program exception (R756 c). -/
def raisePrivileged (s : State) : Out := raise .program infoPrivileged s

/-- A privileged instruction in user mode raises the exception (spec/30_encoding.md R274). -/
def guardSupervisor (s : State) : Try Unit := require (!s.prView) (raisePrivileged s)

/-- MSR[FP] = 0 raises floating-point unavailable (R758). -/
def guardFp (s : State) : Try Unit := require (s.msrBit msrFP) (raise .fpUnavailable 0 s)

/-- FEX with FE0 or FE1 (R757). -/
def fpTrapEnabled (msr fpscr : Word) : Bool := msr &&& msrFE != 0 && ibmBit fpscr 1

/-- The protection key a translation miss reports (R766): Kp in user mode, else Ks. -/
def segmentKey (sr : Word) (pr : Bool) : Bool := if pr then ibmBit sr 2 else ibmBit sr 1

/-- SRR1 information of a translation miss (R766). -/
def missInfo (e : Exception) (key way : Bool) (cr : Word) : Word :=
  (cr &&& 0xF0000000) ||| maskIf key 0x00080000 ||| maskIf (e = .instrMiss) 0x00040000 |||
    maskIf way 0x00020000 ||| maskIf (e = .dataStoreMiss) 0x00010000

/-- Take the instruction translation miss exception for the fetch at CIA (R766). -/
def takeInstrMiss (key : Bool) (s : State) : State :=
  takeException .instrMiss s.cia (missInfo .instrMiss key (s.drawBit .missWay) s.cr)
    { s with imiss := s.cia, missIsData := false }

/-- Take a data translation miss exception for the access at `ea` (R766, R767). -/
def takeDataMiss (store key : Bool) (ea : Word) (s : State) : State :=
  let e := if store then Exception.dataStoreMiss else Exception.dataLoadMiss
  takeException e s.cia (missInfo e key (s.drawBit .missWay) s.cr) { s with dmiss := ea, missIsData := true }

/-- Take DSI for the access at `ea` (R754). -/
def takeDsi (prot direct store : Bool) (ea : Word) (s : State) : State :=
  takeException .dsi s.cia 0
    { s with
      dsisr := maskIf prot 0x08000000 ||| maskIf direct 0x04000000 ||| maskIf store 0x02000000
      dar := ea }

/-- Return from interrupt: MSR and NIA (R746), synchronising; the floating-point enabled exception follows at the
target when the new MSR enables it (R757). -/
def returnFromInterrupt (s : State) : State :=
  let t := closeWindows
    { s with msr := merge rfiMask s.srr1 s.msr &&& ~~~msrTGPR, cia := wordAlign s.srr0 }
  if fpTrapEnabled t.msr t.fpscr then takeException .program t.cia infoFpEnabled t else t

end Sys2Proof.Machine
end

