-- ==== Sys2Proof/Machine/Mmu.lean ====
section
/-!
DEFINITION. Address translation and protection (spec/20_memory.md R170 to R186) and the instruction fetch
(R152, R220). A data access that cannot be made ends in an `AccessStop`, whose outcome is taken on the state the
instruction has reached.
-/
namespace Sys2Proof.Machine

/-- Why a data access is not made (spec/43_load_store.md R481). -/
inductive AccessStop
  | dsi (prot direct store : Bool) (ea : Word)
  | miss (store key : Bool) (ea : Word)
  | fault (f : Fault)
deriving DecidableEq, Repr

/-- The exception or fault of a stopped access, in the state the instruction has reached. -/
def AccessStop.outcome (x : AccessStop) (s : State) : Out :=
  match x with
  | .dsi prot direct store ea => .next (takeDsi prot direct store ea s)
  | .miss store key ea => .next (takeDataMiss store key ea s)
  | .fault f => .fault f

/-- A part of an instruction in the state `s` it has not changed yet. -/
def orStop {α : Type} (s : State) (x : Except AccessStop α) : Try α :=
  match x with
  | .ok a => .ok a
  | .error e => .error (e.outcome s)

/-- Where a data access goes and what its protection says (R173, R175). `wi` is W or I of a virtual access. -/
structure Mapping where
  /-- physical address -/
  pa : Word
  /-- write-through or caching-inhibited in virtual mode -/
  wi : Bool
  /-- the access violates protection -/
  denied : Bool
  /-- a store to an entry whose changed bit is 0 -/
  needsChange : Bool
  /-- the protection key of the access -/
  key : Bool
deriving DecidableEq, Repr

/- Block address translation (R172, R173). -/

/-- The block length mask at EA<4..14>. -/
def batMask (upper : Word) : Word := (upper <<< 15) &&& 0x0FFE0000

/-- The upper word of a BAT pair. -/
def batUpper (bats : Fin 8 → Word) (k : Fin 4) : Word := bats ⟨2 * k.val, by omega⟩

/-- The lower word of a BAT pair. -/
def batLower (bats : Fin 8 → Word) (k : Fin 4) : Word := bats ⟨2 * k.val + 1, by omega⟩

/-- A BAT pair matches an effective address at a privilege level (R172). -/
def batMatches (bats : Fin 8 → Word) (user : Bool) (ea : Word) (k : Fin 4) : Bool :=
  let upper := batUpper bats k
  (ea ^^^ upper) &&& (0xFFFE0000 &&& ~~~batMask upper) == 0 && upper.getLsbD (if user then 0 else 1)

/-- The matching pairs. -/
def batHits (bats : Fin 8 → Word) (user : Bool) (ea : Word) : List (Fin 4) :=
  [0, 1, 2, 3].filter (batMatches bats user ea)

/-- The physical address of a BAT match (R172). -/
def batAddress (upper lower ea : Word) : Word :=
  let m := batMask upper
  (lower &&& 0xF0000000) ||| (((lower &&& ~~~m) ||| (ea &&& m)) &&& 0x0FFE0000) ||| (ea &&& 0x0001FFFF)

/-- BAT protection (R173): PP = 00 no access, x1 read-only, 10 read and write. -/
def batDenied (lower : Word) (store : Bool) : Bool :=
  let pp := lower.extractLsb' 0 2
  pp == 0 || (store && pp != 2)

/-- W or I of a BAT or PTE low word (R184). -/
def wiBits (w : Word) : Bool := w &&& 0x00000060 != 0

/- Page translation (R174 to R176). -/

/-- The set index EA<16..19> (R176). -/
def tlbSet (ea : Word) : BitVec 4 := ea.extractLsb' 12 4

/-- The place of a way of a set. -/
def tlbIndex (set : BitVec 4) (way : Bool) : Fin 32 :=
  ⟨2 * set.toNat + way.toNat, by have := set.isLt; have := Bool.toNat_le way; omega⟩

/-- The virtual segment id of a segment register (spec/10_state.md R63). -/
def srVsid (sr : Word) : BitVec 24 := sr.extractLsb' 0 24

/-- A page entry matches: VSID and EA<4..15> (R176). -/
def pageHit (vsid : BitVec 24) (ea : Word) (e : TlbEntry) : Bool :=
  e.valid && e.vsid == vsid && e.page.extractLsb' 4 12 == ea.extractLsb' 16 12

/-- A protection-only entry matches: VSID of SR0 and EA<0..14> (R182). -/
def regionHit (vsid : BitVec 24) (ea : Word) (e : TlbEntry) : Bool :=
  e.valid && e.vsid == vsid && e.page.extractLsb' 5 15 == ea.extractLsb' 17 15

/-- The matching entry of a set; which one where both ways match is free (R176 states none). -/
def tlbLookup (s : State) (tlb : Fin 32 → TlbEntry) (set : BitVec 4) (hit : TlbEntry → Bool) : Option TlbEntry :=
  let e0 := tlb (tlbIndex set false)
  let e1 := tlb (tlbIndex set true)
  match hit e0, hit e1 with
  | true, false => some e0
  | false, true => some e1
  | true, true => some (if s.drawBit .tlbBothWays then e1 else e0)
  | false, false => none

/-- Page protection by key and PP (R175). -/
def pageDenied (key : Bool) (pte1 : Word) (store : Bool) : Bool :=
  let pp := pte1.extractLsb' 0 2
  if key then pp == 0 || (store && pp != 2) else store && pp == 3

/-- The physical address of a page hit (R175). -/
def pageAddress (pte1 ea : Word) : Word := (pte1 &&& 0xFFFFF000) ||| (ea &&& 0x00000FFF)

/-- HID0[PO] (R182). -/
def protectionOnly (s : State) : Bool := hid0Field (·.po) s.hid0View

/- Data accesses. -/

/-- The privilege a translated data access is checked at (R183, `AP_RULE`; log entry 13): as a user access. -/
def accessAsUser (s : State) : Bool :=
  s.prView || (s.apView && Config.apRule == .asUser)

/-- The segment register of a data access (R174). -/
def State.srFor (s : State) (ea : Word) : Word := s.sr.get (ea.extractLsb' 28 4).toFin

/-- Protection-only mode for a data access that misses the DBATs (R182, D20; log entry
16). The KEY a miss reports is the key of the access, as in `pageMapping` (DEDUCED, log entry 13). -/
def regionMapping (s : State) (user : Bool) (ea : Word) (store : Bool) : Except AccessStop Mapping :=
  let sr0 := s.sr.get 0
  let key := segmentKey sr0 user
  match tlbLookup s s.dtlbView (Config.poFormat.setOf ea) (regionHit (srVsid sr0) ea) with
  | none => .error (.miss store key ea)
  | some e => .ok
    { pa := ea
      wi := hid0Field (·.w) s.hid0View || hid0Field (·.i) s.hid0View
      denied := store && Config.poFormat.storeForbidden e.pte1 (ea.extractLsb' 12 5)
      needsChange := false
      key }

/-- Page translation of a data access (R174, R175, R186). The KEY a miss reports is the key of the access at the level
`AP_RULE` selects, where MSR[PR] = 0 and MSR[AP] = 1 too (DEDUCED, log entry 13). -/
def pageMapping (s : State) (user : Bool) (ea : Word) (store : Bool) : Except AccessStop Mapping :=
  let sr := s.srFor ea
  let key := segmentKey sr user
  if ibmBit sr 0 then .error (.dsi false true store ea)
  else
    match tlbLookup s s.dtlbView (tlbSet ea) (pageHit (srVsid sr) ea) with
    | none => .error (.miss store key ea)
    | some e => .ok
      { pa := pageAddress e.pte1 ea
        wi := wiBits e.pte1
        denied := pageDenied key e.pte1 store
        needsChange := store && !e.pte1.getLsbD 7
        key }

/-- The mapping of a data access (R170): real mode, else the DBATs, else protection-only mode or the page. -/
def dataMapping (s : State) (ea : Word) (store : Bool) : Except AccessStop Mapping :=
  if !s.msrBit msrDR then .ok { pa := ea, wi := false, denied := false, needsChange := false, key := false }
  else
    let user := accessAsUser s
    match batHits s.dbat.get user ea with
    | [k] =>
      let lower := batLower s.dbat.get k
      .ok { pa := batAddress (batUpper s.dbat.get k) lower ea, wi := wiBits lower, denied := batDenied lower store,
            needsChange := false, key := false }
    | _ :: _ :: _ => .error (.fault .multipleBatMatch)
    | [] => if protectionOnly s then regionMapping s user ea store else pageMapping s user ea store

/-- The protection checks of a mapped access (spec/60_exceptions.md R781 items 8, 10, 11). -/
def checkMapping (ea : Word) (store : Bool) (m : Mapping) : Except AccessStop Word :=
  if m.denied then .error (.dsi true false store ea)
  else if m.needsChange then .error (.miss true m.key ea)
  else .ok m.pa

/-- Translate one data access (R170). -/
def translateData (s : State) (ea : Word) (store : Bool) : Except AccessStop Word :=
  match dataMapping s ea store with
  | .ok m => checkMapping ea store m
  | .error e => .error e

/- Instruction fetches. -/

/-- The fetch at CIA ends in ISI where one of its bits is set (spec/60_exceptions.md R753, R745). -/
def fetchAllowed (s : State) (noExecute denied : Bool) (pa : Word) : Try Word :=
  if noExecute || denied then
    .error (raise .isi (maskIf noExecute 0x10000000 ||| maskIf denied 0x08000000) s)
  else .ok pa

/-- Protection-only mode for a fetch that misses the IBATs (R182, D20; log entry 16). -/
def fetchRegion (s : State) : Try Word :=
  let sr0 := s.srView 0
  match tlbLookup s s.itlbView (Config.poFormat.setOf s.cia) (regionHit (srVsid sr0) s.cia) with
  | none => .error (.next (takeInstrMiss (segmentKey sr0 s.prView) s))
  | some e => fetchAllowed s (Config.poFormat.fetchForbidden e.pte1 (s.cia.extractLsb' 12 5)) false s.cia

/-- Page translation of a fetch (R174, R175, R186); the miss comes before the no-execute check (R781; log entry 30). -/
def fetchPage (s : State) : Try Word :=
  let sr := s.srView (s.cia.extractLsb' 28 4)
  let key := segmentKey sr s.prView
  if ibmBit sr 0 then fetchAllowed s true false s.cia
  else
    match tlbLookup s s.itlbView (tlbSet s.cia) (pageHit (srVsid sr) s.cia) with
    | none => .error (.next (takeInstrMiss key s))
    | some e => fetchAllowed s (ibmBit sr 3) (pageDenied key e.pte1 false) (pageAddress e.pte1 s.cia)

/-- The IBAT pairs that match CIA (R172). -/
def ibatHits (s : State) : List (Fin 4) := batHits s.ibatView s.prView s.cia

/-- The physical address of the instruction at CIA (R170). -/
def translateFetch (s : State) : Try Word :=
  if !s.irView then .ok s.cia
  else
    match ibatHits s with
    | [k] =>
      let lower := batLower s.ibatView k
      fetchAllowed s (lower.getLsbD ibatNeBit) (batDenied lower false) (batAddress (batUpper s.ibatView k) lower s.cia)
    | _ :: _ :: _ => .error (.fault .multipleBatMatch)
    | [] => if protectionOnly s then fetchRegion s else fetchPage s

/-- The word a fetch from a physical address returns: the one memory holds, or one it held before (R220, D33); any word
where there is no memory (R165, log entry 21). -/
def fetchWord (s : State) (pa : Word) : Word :=
  if s.noMemory pa then s.draw .fetchElsewhere
  else
    let now := readWordAt s pa
    let olds := (s.stale.filter fun e => e.addr = wordAlign pa).map (·.old)
    if olds.all (· = now) then now else s.drawFrom .staleFetch now olds

/-- Fetch the instruction at CIA (R152, R151, R170, R220). -/
def fetch (s : State) : Try Word :=
  if s.leView then .error (.refused .littleEndianMode)
  else
    match translateFetch s with
    | .ok pa => .ok (fetchWord s pa)
    | .error o => .error o

/-- `SE(CIA)`: `esa` is permitted where it was fetched from (R185, C15). -/
def esaPermitted (s : State) : Bool :=
  s.irView &&
    match ibatHits s with
    | [k] => (batLower s.ibatView k).getLsbD ibatSeBit
    | _ :: _ :: _ => false
    | [] => protectionOnly s && (s.cia &&& 0xFFFE0000 == s.sebr &&& 0xFFFE0000) &&
        ibmBit s.ser (s.cia.extractLsb' 12 5).toNat

end Sys2Proof.Machine
end

