-- ==== Sys2Proof/Machine/Access.lean ====
section
/-!
DEFINITION. Data accesses: alignment, loads and stores of bytes, halfwords, words, doublewords and multiples
(spec/20_memory.md R155 to R157, spec/43_load_store.md R480, R481, R520, R521, spec/60_exceptions.md R755).
-/
namespace Sys2Proof.Machine

/-- The instruction image an alignment exception puts in DSISR (R755). `rAKnown`: an update form or `lmw`, `stmw`. -/
def alignmentDsisr (s : State) (w : Word) (rSKnown rAKnown : Bool) : Word :=
  let xform := opcd w == 31
  let free := s.draw .dsisrAlign
  let head : BitVec 22 := (0 : BitVec 15) ++ (if xform then w.extractLsb' 1 2 else (0 : BitVec 2)) ++
    (if xform then w.extractLsb' 6 1 else w.extractLsb' 26 1) ++
    (if xform then w.extractLsb' 7 4 else w.extractLsb' 27 4)
  head ++ (if rSKnown then fA w else free.extractLsb' 5 5) ++ (if rAKnown then fB w else free.extractLsb' 0 5)

/-- Take the alignment exception of the instruction with word `w` for the operand at `ea` (R755). -/
def takeAlignment (s : State) (w : Word) (rSKnown rAKnown : Bool) (ea : Word) : Out :=
  raise .alignment 0 { s with dsisr := alignmentDsisr s w rSKnown rAKnown, dar := ea }

/-- An operand that must be word-aligned (R155, R157). -/
def guardWordAligned (s : State) (w : Word) (rAKnown : Bool) (ea : Word) : Try Unit :=
  require (ea.extractLsb' 0 2 == 0) (takeAlignment s w true rAKnown ea)

/-- Little-endian mode (R151, R157): a misaligned or multiple access takes the alignment exception, every other data
access is refused. -/
def guardBigEndian (s : State) (w : Word) (rAKnown bad : Bool) (ea : Word) : Try Unit :=
  if s.leView then .error (if bad then takeAlignment s w true rAKnown ea else .refused .littleEndianMode) else .ok ()

/-- An operand of `n` bytes is naturally aligned (R155). -/
def isAligned (ea : Word) (n : Nat) : Bool := ea.toNat % n == 0

/- Loads (R150). A load is made in parts, each an access of its own: one part where it is aligned, a byte each where it is
not (R156), a word each for doublewords and multiples (R161). -/

/-- A byte of no stated value: one loaded where no memory is (R165; log entry 21), or by a load that received TEA
(spec/60_exceptions.md R752; log entry 28). -/
def freeByte (s : State) (ea : Word) : Byte := (s.draw (.dataByte ea)).extractLsb' 0 8

/-- The byte a load at `ea` sees at a physical address: what memory holds; where another master wrote it while the data
cache was not snooped, that or the byte of a cached copy (spec/60_exceptions.md R803; log entry 53); any value where
there is no memory. -/
def loadByte (s : State) (ea pa : Word) : Byte :=
  if s.noMemory pa then freeByte s ea
  else
    let now := readByte s pa
    let olds := (s.cached.filter fun e => e.1 = pa.toNat).map (·.2)
    if olds.all (· = now) then now else s.drawFrom (.cachedByte ea) now olds

/-- `n` bytes loaded by one access, as a big-endian value (R150). -/
def loadPhys (s : State) (ea pa : Word) (n : Nat) : Word :=
  wordOfBE ((List.range n).map fun k => loadByte s (ea + BitVec.ofNat 32 k) (pa + BitVec.ofNat 32 k))

/-- The transaction of a load at a physical address ends with TEA (spec/60_exceptions.md R752). -/
def loadTea (s : State) (pa : Word) : Bool := s.teaNext || s.answersTea pa

/-- What one access of a load leaves: a TEA it received waits to be recognised (spec/60_exceptions.md R752). -/
def loadedAt (s : State) (pa : Word) : State :=
  { s with teaNext := false, teaUnrecognised := s.teaUnrecognised || loadTea s pa }

/-- The physical addresses of `n` parts of `size` bytes from `ea` on, up to the first that stops, and that stop. -/
def partAddresses (s : State) (ea : Word) (size : Nat) (store : Bool) : Nat → List Word × Option AccessStop
  | 0 => ([], none)
  | n + 1 =>
    match translateData s ea store with
    | .error e => ([], some e)
    | .ok pa =>
      let r := partAddresses s (ea + BitVec.ofNat 32 size) size store n
      (pa :: r.1, r.2)

/-- What the parts of a load give. -/
structure Parts where
  /-- the value of each part -/
  words : List Word
  /-- the transaction of a part ended with TEA -/
  tea : Bool
  /-- the state reached -/
  reached : State

/-- Parts loaded from rising addresses, with what happens on the bus between two of them (R161). -/
def loadParts (s : State) (ea : Word) (size : Nat) : List Word → Parts
  | [] => { words := [], tea := false, reached := s }
  | pa :: rest =>
    let t := loadedAt s pa
    let r := loadParts (if rest.isEmpty then t else between t) (ea + BitVec.ofNat 32 size) size rest
    { words := loadPhys s ea pa size :: r.words, tea := loadTea s pa || r.tea, reached := r.reached }

/-- Words of no stated value in place of `n` parts. -/
def freeParts (s : State) (ea : Word) (size n : Nat) : List Word :=
  (List.range n).map fun j =>
    wordOfBE ((List.range size).map fun k => freeByte s (ea + BitVec.ofNat 32 (size * j + k)))

/-- The parts of one load instruction: where the transaction of any of them ended with TEA, all its data are free
(spec/60_exceptions.md R752; log entry 28). -/
def loadAt (s : State) (ea : Word) (size : Nat) (pas : List Word) : List Word × State :=
  let r := loadParts s ea size pas
  (if r.tea then freeParts s ea size pas.length else r.words, r.reached)

/-- What a load has done when it ends or stops. -/
structure Loading where
  /-- the values of the parts loaded -/
  words : List Word
  /-- the access that stops -/
  stop : Option AccessStop
  /-- the state reached -/
  reached : State

/-- A load of `n` parts of `size` bytes, up to the first that stops. -/
def loadRun (s : State) (ea : Word) (size n : Nat) : Loading :=
  let p := partAddresses s ea size false n
  let r := loadAt s ea size p.1
  { words := r.1, stop := p.2, reached := r.2 }

/-- A load none of whose parts stops; where one does, the load has no effect (R481). -/
def loadAll (s : State) (ea : Word) (size n : Nat) : Except AccessStop (List Word × State) :=
  let r := loadRun s ea size n
  match r.stop with
  | some e => .error e
  | none => .ok (r.words, r.reached)

/-- `MemRead(ea, n)` for n = 1, 2, 4, zero-extended: one access where aligned, else byte by byte (R150, R156). -/
def loadData (s : State) (ea : Word) (n : Nat) : Except AccessStop (Word × State) :=
  let size := if isAligned ea n then n else 1
  match loadAll s ea size (n / size) with
  | .error e => .error e
  | .ok (ws, t) => .ok (ws.foldl (fun acc v => acc <<< (8 * size) ||| v) 0, t)

/-- Two words of a doubleword, high word first, each an access of its own (R155, R161, R546). -/
def loadDouble (s : State) (ea : Word) : Except AccessStop (BitVec 64 × State) :=
  match loadAll s ea 4 2 with
  | .error e => .error e
  | .ok (ws, t) => .ok (ws.getD 0 0 ++ ws.getD 1 0, t)

/- Stores. -/

/-- Bytes stored one by one in ascending order; the earlier ones stay stored when a later one stops (R156, D24); other
masters may act between two of them (R161). -/
def storeBytes (s : State) (ea : Word) : List Byte → Except (AccessStop × State) State
  | [] => .ok s
  | b :: rest =>
    match translateData s ea true with
    | .error e => .error (e, s)
    | .ok pa =>
      let t := writePhys s pa 1 (b.setWidth 32)
      if rest.isEmpty then .ok t else storeBytes (between t) (ea + 1) rest

/-- `MemWrite(ea, n, v)` for n = 1, 2, 4 (R150, R156). -/
def storeData (s : State) (ea : Word) (n : Nat) (v : Word) : Except (AccessStop × State) State :=
  if isAligned ea n then
    match translateData s ea true with
    | .error e => .error (e, s)
    | .ok pa => .ok (writePhys s pa n v)
  else storeBytes s ea (bytesBE n v)

/-- A store as part of an instruction: where it stops, the exception is taken in the state it has reached. -/
def tryStore (s : State) (ea : Word) (n : Nat) (v : Word) : Try State :=
  match storeData s ea n v with
  | .ok t => .ok t
  | .error (e, t) => .error (e.outcome t)

/-- Store a doubleword: both words are translated before either is written (R481: a stop leaves memory unchanged), and
each is an access of its own (R161). -/
def storeDouble (s : State) (ea : Word) (v : BitVec 64) : Except AccessStop State :=
  match translateData s ea true with
  | .error e => .error e
  | .ok pa0 =>
    match translateData s (ea + 4) true with
    | .error e => .error e
    | .ok pa1 => .ok (writePhys (between (writePhys s pa0 4 (v.extractLsb' 32 32))) pa1 4 (v.extractLsb' 0 32))

/-- Write successive registers from `r` on. -/
def writeGprs (s : State) (r : Reg) : List Word → State
  | [] => s
  | v :: rest => writeGprs (s.writeGpr r v) (r + 1) rest

/-- Read successive registers from `r` on. -/
def readGprs (s : State) (r : Reg) : Nat → List Word
  | 0 => []
  | n + 1 => s.readGpr r :: readGprs s (r + 1) n

/-- Store successive words, each an access of its own (R161). -/
def storeWords (s : State) (ea : Word) : List Word → State
  | [] => s
  | v :: rest =>
    match translateData s ea true with
    | .error _ => s
    | .ok pa =>
      let t := writePhys s pa 4 v
      if rest.isEmpty then t else storeWords (between t) (ea + 4) rest

end Sys2Proof.Machine
end

