-- ==== Sys2Proof/Machine/Operands.lean ====
section
/-!
DEFINITION. Operand forms: effective addresses, branch conditions, trap conditions, FPR operands with their tags
(spec/30_encoding.md R255 to R264, spec/43_load_store.md R480, spec/44_flow_control.md R572, R590,
spec/10_state.md R44).
-/
namespace Sys2Proof.Machine

/- Effective addresses (R263, R480). -/

/-- D-form: `(rA|0) + sext_32(d)`. -/
def eaD (s : State) (rA : Reg) (d : BitVec 16) : Word := s.readGprOr0 rA + sext16 d

/-- X-form: `(rA|0) + GPR[rB]`. -/
def eaX (s : State) (rA rB : Reg) : Word := s.readGprOr0 rA + s.readGpr rB

/-- D-form with update: `GPR[rA] + sext_32(d)`. -/
def eaDU (s : State) (rA : Reg) (d : BitVec 16) : Word := s.readGpr rA + sext16 d

/-- X-form with update: `GPR[rA] + GPR[rB]`. -/
def eaXU (s : State) (rA rB : Reg) : Word := s.readGpr rA + s.readGpr rB

/-- The general registers a `(rA|0)` operand names: none where rA is 0. -/
def namedOr0 (rA : Reg) : List Reg := if rA = 0 then [] else [rA]

/- Branches (R572, R574). -/

/-- `ctr_ok`, on the decremented CTR (R572). -/
def branchCtrOk (bo : BitVec 5) (ctr : Word) : Bool := bo.getLsbD 2 || ((ctr != 0) != bo.getLsbD 1)

/-- `cond_ok` (R572). -/
def branchCondOk (bo bi : BitVec 5) (cr : Word) : Bool := bo.getLsbD 4 || (ibmBit cr bi.toNat == bo.getLsbD 3)

/-- CTR after a branch with this BO (R572). -/
def branchCtr (bo : BitVec 5) (ctr : Word) : Word := if bo.getLsbD 2 then ctr else ctr - 1

/-- `taken` (R572). -/
def branchTaken (bo bi : BitVec 5) (ctr cr : Word) : Bool :=
  branchCtrOk bo (branchCtr bo ctr) && branchCondOk bo bi cr

/-- The state after a branch: NIA, and LR where LK = 1 (R570). -/
def branchTo (s : State) (taken lk : Bool) (target : Word) : State :=
  { s with
    lr := if lk then s.cia + 4 else s.lr
    cia := if taken then wordAlign target else s.cia + 4 }

/- Traps (R590). -/

/-- The trap condition. -/
def trapCondition (trapOn : BitVec 5) (a b : Word) : Bool :=
  (trapOn.getLsbD 4 && a.slt b) || (trapOn.getLsbD 3 && b.slt a) || (trapOn.getLsbD 2 && a == b) ||
    (trapOn.getLsbD 1 && a.ult b) || (trapOn.getLsbD 0 && b.ult a)

/- Floating-point operands (spec/10_state.md R44, spec/42_floating_point.md R402). -/

/-- The datum of an FPR. -/
def State.fprData (s : State) (r : Reg) : Word := s.fpr.get r.toFin

/-- The SP tag of an FPR (R92). -/
def State.spTag (s : State) (r : Reg) : Bool := ibmBit s.sp r.toNat

/-- The LT tag of an FPR (R93). -/
def State.ltTag (s : State) (r : Reg) : Bool := ibmBit s.lt r.toNat

/-- Case (a): a single-precision datum. -/
def State.isSingle (s : State) (r : Reg) : Bool := s.spTag r && !s.ltTag r

/-- Case (b): an integer word. -/
def State.isIntTagged (s : State) (r : Reg) : Bool := !s.spTag r && s.ltTag r

/-- Cases (a) and (b): the register has a meaning. -/
def State.isTagged (s : State) (r : Reg) : Bool := s.spTag r != s.ltTag r

/-- Write an FPR's datum and tags (R44). -/
def State.writeFpr (s : State) (r : Reg) (v : Word) (single : Bool) : State :=
  { s with
    fpr := s.fpr.set r.toNat v r.isLt
    sp := setIbmBit s.sp r.toNat single
    lt := setIbmBit s.lt r.toNat !single }

/-- Every FPR named holds a single-precision datum (R402, D19). -/
def guardSingles (s : State) : List Reg → Try Unit
  | [] => .ok ()
  | r :: rest =>
    if s.isSingle r then guardSingles s rest
    else if s.isIntTagged r then .error (.refused .fprIntegerOperand)
    else .error (.fault .fprUntagged)

/-- The FPR holds a single-precision datum or an integer word (D19). -/
def guardTagged (s : State) (r : Reg) : Try Unit := require (s.isTagged r) (.fault .fprUntagged)

end Sys2Proof.Machine
end

