-- ==== Sys2Proof/Machine/Flags.lean ====
section
/-!
DEFINITION. Every flag computation: CR fields, XER, FPSCR summaries and result classes (spec/10_state.md R45 to R53,
spec/40_integer_arithmetic_compare.md R300, spec/42_floating_point.md R403).
-/
namespace Sys2Proof.Machine

/- CR and XER. -/

/-- XER[SO] (R48). -/
def xerSO (xer : Word) : Bool := xer.getLsbD 31
/-- XER[CA] (R48). -/
def xerCA (xer : Word) : Bool := xer.getLsbD 29

/-- A CR field from its four bits. -/
def crBits (b0 b1 b2 b3 : Bool) : BitVec 4 :=
  BitVec.ofBool b0 ++ BitVec.ofBool b1 ++ BitVec.ofBool b2 ++ BitVec.ofBool b3

/-- `(s(r) < 0) || (s(r) > 0) || (r = 0) || SO` (R46). -/
def compareZero (r : Word) (so : Bool) : BitVec 4 := crBits (r.slt 0) ((0 : Word).slt r) (r == 0) so

/-- Signed comparison (spec/40 R331). -/
def compareSigned (a b : Word) (so : Bool) : BitVec 4 := crBits (a.slt b) (b.slt a) (a == b) so

/-- Unsigned comparison (spec/40 R333). -/
def compareUnsigned (a b : Word) (so : Bool) : BitVec 4 := crBits (a.ult b) (b.ult a) (a == b) so

/-- `CRF[n] <- v` (R45). -/
def setCrField (s : State) (n : BitVec 3) (v : BitVec 4) : State := { s with cr := setField4 s.cr n v }

/-- `CR<k> <- b` (R45). -/
def setCrBit (s : State) (k : BitVec 5) (b : Bool) : State := { s with cr := setIbmBit s.cr k.toNat b }

/-- CR0 of a record form from its result, with the new XER[SO] (R46). -/
def recordCr0 (rc : Bool) (r : Word) (s : State) : State :=
  if rc then setCrField s 0 (compareZero r (xerSO s.xer)) else s

/-- CR1 of a floating-point record form (R47). -/
def recordCr1 (rc : Bool) (s : State) : State :=
  if rc then setCrField s 1 (s.fpscr.extractLsb' 28 4) else s

/-- XER with CA (R300 e). -/
def withCarry (s : State) (ca : Bool) : State := { s with xer := setIbmBit s.xer 2 ca }

/-- XER with OV and SO of an overflow form (R300 d). -/
def withOverflow (oe ov : Bool) (s : State) : State :=
  if oe then { s with xer := setIbmBit (setIbmBit s.xer 1 ov) 0 (xerSO s.xer || ov) } else s

/-- The 32-bit sum `x + y + c` (R300). -/
def addWords (x y : Word) (c : Bool) : Word := x + y + (BitVec.ofBool c).setWidth 32

/-- The carry out of the 33-bit sum (R300 e). -/
def carryOf (x y : Word) (c : Bool) : Bool := decide (2 ^ 32 ≤ x.toNat + y.toNat + c.toNat)

/-- The signed overflow of the sum (R300 f). -/
def overflowOf (x y : Word) (c : Bool) : Bool :=
  x.msb == y.msb && (addWords x y c).msb != x.msb

/- FPSCR (R51 to R53). -/

/-- The exception bits other than VX, FEX and FX: OX UX ZX XX, VXSNAN to VXVC, VXSOFT VXSQRT VXCVI (R403 e). -/
def fpExceptionBits : Word := 0x1FF80700

/-- VXSNAN, VXISI, VXIDI, VXZDZ, VXIMZ, VXVC, VXSOFT, VXSQRT, VXCVI (R52). -/
def fpInvalidBits : Word := 0x01F80700

/-- FX. -/
def fpFX : Word := 0x80000000
/-- OX. -/
def fpOX : Word := 0x10000000
/-- UX. -/
def fpUX : Word := 0x08000000
/-- ZX. -/
def fpZX : Word := 0x04000000
/-- XX. -/
def fpXX : Word := 0x02000000
/-- VXSNAN. -/
def fpVXSNAN : Word := 0x01000000
/-- VXISI. -/
def fpVXISI : Word := 0x00800000
/-- VXIDI. -/
def fpVXIDI : Word := 0x00400000
/-- VXZDZ. -/
def fpVXZDZ : Word := 0x00200000
/-- VXIMZ. -/
def fpVXIMZ : Word := 0x00100000
/-- VXVC. -/
def fpVXVC : Word := 0x00080000
/-- VXCVI. -/
def fpVXCVI : Word := 0x00000100
/-- FR. -/
def fpFR : Word := 0x00040000
/-- FI. -/
def fpFI : Word := 0x00020000
/-- FPRF. -/
def fpFPRF : Word := 0x0001F000
/-- VE. -/
def fpVE : Word := 0x00000080
/-- OE. -/
def fpOE : Word := 0x00000040
/-- ZE. -/
def fpZE : Word := 0x00000010
/-- NI. -/
def fpNI : Word := 0x00000004

/-- A bit of the FPSCR. -/
def fpBit (fpscr mask : Word) : Bool := fpscr &&& mask != 0

/-- FEX and VX recomputed, the reserved bit 0 (R51, R52). The five enables stand 22 bits below VX, OX, UX, ZX, XX. -/
def fpNormalize (f : Word) : Word :=
  let vx := maskIf (fpBit f fpInvalidBits) 0x20000000
  let g := (f &&& 0x9FFFF7FF) ||| vx
  let enabled := g &&& 0x3E000000 &&& (((f &&& 0xF8) <<< 22))
  g ||| maskIf (enabled != 0) 0x40000000

/-- Set exception bits by an implicit update: FX is set where one of them was 0 (R403 e). -/
def fpSetSticky (bits : Word) (f : Word) : Word :=
  f ||| bits ||| maskIf (bits &&& fpExceptionBits &&& ~~~f != 0) fpFX

/-- FR and FI. -/
def fpSetRounding (fr fi : Bool) (f : Word) : Word :=
  merge (fpFR ||| fpFI) (maskIf fr fpFR ||| maskIf fi fpFI) f

/-- FPRF. -/
def fpSetFprf (c : BitVec 5) (f : Word) : Word := merge fpFPRF (c.setWidth 32 <<< 12) f

/-- FPCC: the four low bits of FPRF (R53). -/
def fpSetFpcc (c : BitVec 4) (f : Word) : Word := merge 0x0000F000 (c.setWidth 32 <<< 12) f

end Sys2Proof.Machine
end

