-- ==== Sys2Proof/Machine/Fp.lean ====
section
/-!
DEFINITION. Single-precision arithmetic on exact values (spec/42_floating_point.md R401 to R412, R440 to R446,
spec/43_load_store.md R537). An operation first gives its exact result, then one rounding; every step is arithmetic on
naturals and integers.
-/
namespace Sys2Proof.Machine

/- The format (R401). -/

/-- The sign bit. -/
def fpNeg (w : Word) : Bool := w.getLsbD 31
/-- The biased exponent. -/
def fpExp (w : Word) : Nat := (w.extractLsb' 23 8).toNat
/-- The fraction. -/
def fpFrac (w : Word) : Nat := (w.extractLsb' 0 23).toNat
/-- NaN. -/
def fpIsNan (w : Word) : Bool := fpExp w == 255 && fpFrac w != 0
/-- Signalling NaN. -/
def fpIsSnan (w : Word) : Bool := fpIsNan w && !w.getLsbD 22
/-- Infinity. -/
def fpIsInf (w : Word) : Bool := fpExp w == 255 && fpFrac w == 0
/-- Zero. -/
def fpIsZero (w : Word) : Bool := fpExp w == 0 && fpFrac w == 0
/-- Denormalized. -/
def fpIsDenormal (w : Word) : Bool := fpExp w == 0 && fpFrac w != 0

/-- The integer significand of a finite datum: its value is `significand * 2 ^ scale`. -/
def fpSignificand (w : Word) : Nat := if fpExp w = 0 then fpFrac w else 2 ^ 23 + fpFrac w
/-- The power of two that goes with the significand. -/
def fpScale (w : Word) : Int := if fpExp w = 0 then -149 else (fpExp w : Int) - 150

/-- A zero of a sign. -/
def fpZero (neg : Bool) : Word := if neg then 0x80000000 else 0
/-- An infinity of a sign. -/
def fpInf (neg : Bool) : Word := if neg then 0xFF800000 else 0x7F800000
/-- The largest finite magnitude of a sign. -/
def fpMax (neg : Bool) : Word := if neg then 0xFF7FFFFF else 0x7F7FFFFF
/-- The default quiet NaN (R401). -/
def fpDefaultNan : Word := 0x7FC00000
/-- A NaN with its quiet bit set (R403 d). -/
def fpQuiet (w : Word) : Word := w ||| 0x00400000
/-- The sign inverted. -/
def fpNegate (w : Word) : Word := w ^^^ 0x80000000

/-- The result class FPRF (spec/10_state.md R53). -/
def fpClass (w : Word) : BitVec 5 :=
  if fpIsNan w then 0b10001
  else if fpIsInf w then (if fpNeg w then 0b01001 else 0b00101)
  else if fpIsZero w then (if fpNeg w then 0b10010 else 0b00010)
  else if fpIsDenormal w then (if fpNeg w then 0b11000 else 0b10100)
  else (if fpNeg w then 0b01000 else 0b00100)

/- Exact results and rounding (R404). -/

/-- An exact result: a datum that needs no rounding, or a nonzero real of magnitude `mant * 2 ^ exp`, or strictly
between that and `(mant + 1) * 2 ^ exp` where `sticky`. -/
inductive FpExact
  | datum (w : Word)
  | real (neg : Bool) (mant : Nat) (exp : Int) (sticky : Bool)
deriving DecidableEq, Repr

/-- What an operation gives before rounding: the invalid-operation bits it raises, whether it divides a finite nonzero
by zero, and its exact result (the default result where it is invalid or divides by zero). -/
structure FpRaw where
  /-- invalid-operation bits -/
  invalid : Word
  /-- zero divide (R406) -/
  zeroDivide : Bool
  /-- the exact or default result -/
  value : FpExact
deriving DecidableEq, Repr

/-- Whether the magnitude is rounded up, for a quotient `q` with remainder `r` of `2 ^ sh` and a sticky part, under RN
(R404: 00 nearest even, 01 toward zero, 10 up, 11 down). -/
def roundsUp (rn : BitVec 2) (neg : Bool) (q r sh : Nat) (sticky : Bool) : Bool :=
  let inexact := r != 0 || sticky
  match rn.toNat with
  | 0 => decide (2 ^ sh < 2 * r) || (2 * r == 2 ^ sh && inexact && (sticky || q % 2 == 1))
  | 1 => false
  | 2 => inexact && !neg
  | _ => inexact && neg

/-- A rounded magnitude `sig * 2 ^ exp` with 24 significant bits, and what rounding did. -/
structure FpRounded where
  /-- significand, from 2^23 to 2^24 - 1 -/
  sig : Nat
  /-- power of two -/
  exp : Int
  /-- the magnitude was rounded up (FR) -/
  up : Bool
  /-- the result is inexact (FI) -/
  inexact : Bool
deriving DecidableEq, Repr

/-- Round a nonzero magnitude to 24 bits with unbounded exponent (R404). -/
def roundMagnitude (rn : BitVec 2) (neg : Bool) (mant : Nat) (exp : Int) (sticky : Bool) : FpRounded :=
  let bits := Nat.log2 mant + 1
  if bits ≤ 24 then
    { sig := mant * 2 ^ (24 - bits), exp := exp - (24 - bits : Nat), up := false, inexact := sticky }
  else
    let sh := bits - 24
    let q := mant / 2 ^ sh
    let r := mant % 2 ^ sh
    let up := roundsUp rn neg q r sh sticky
    let q' := q + up.toNat
    if q' = 2 ^ 24 then { sig := 2 ^ 23, exp := exp + sh + 1, up, inexact := r != 0 || sticky }
    else { sig := q', exp := exp + sh, up, inexact := r != 0 || sticky }

/-- The datum of a rounded magnitude in the normalized range. -/
def packNormal (neg : Bool) (x : FpRounded) : Word :=
  BitVec.ofBool neg ++ BitVec.ofNat 8 (x.exp + 150).toNat ++ BitVec.ofNat 23 x.sig

/-- The exact magnitude is below 2^-126 (R410). -/
def fpTiny (mant : Nat) (exp : Int) : Bool := decide ((Nat.log2 mant : Int) + exp < -126)

/-- The rounded magnitude is above the largest finite datum (R405). -/
def fpOverflows (x : FpRounded) : Bool := decide (255 ≤ x.exp + 150)

/-- The untrapped overflow result (R405). -/
def overflowResult (rn : BitVec 2) (neg : Bool) : Word :=
  match rn.toNat with
  | 0 => fpInf neg
  | 1 => fpMax neg
  | 2 => if neg then fpMax neg else fpInf neg
  | _ => if neg then fpInf neg else fpMax neg

/- Operations (R403, R420 to R428). -/

/-- VXSNAN for a list of operands. -/
def snanBits (ws : List Word) : Word := maskIf (ws.any fpIsSnan) fpVXSNAN

/-- The result NaN (R403 d): the first NaN of the list made quiet, else the default NaN. -/
def resultNan (ws : List Word) : Word :=
  match ws.find? fpIsNan with
  | some w => fpQuiet w
  | none => fpDefaultNan

/-- An invalid operation or a NaN operand. -/
def nanRaw (bits : Word) (ws : List Word) : FpRaw :=
  { invalid := bits, zeroDivide := false, value := .datum (resultNan ws) }

/-- A result that needs no rounding. -/
def exactRaw (w : Word) : FpRaw := { invalid := 0, zeroDivide := false, value := .datum w }

/-- The exact sum of two finite signed magnitudes; the sign of a zero sum per R404. -/
def sumRaw (rn : BitVec 2) (n1 : Bool) (m1 : Nat) (e1 : Int) (n2 : Bool) (m2 : Nat) (e2 : Int) : FpRaw :=
  let e := min e1 e2
  let signed (n : Bool) (m : Nat) (k : Int) : Int := (if n then -1 else 1) * (m * 2 ^ (k - e).toNat : Nat)
  let x := signed n1 m1 e1 + signed n2 m2 e2
  if x = 0 then
    exactRaw (fpZero (if m1 = 0 && m2 = 0 && n1 == n2 then n1 else rn.toNat == 3))
  else { invalid := 0, zeroDivide := false, value := .real (decide (x < 0)) x.natAbs e false }

/-- `a + b` (R420). -/
def addRaw (rn : BitVec 2) (a b : Word) : FpRaw :=
  if fpIsNan a || fpIsNan b then nanRaw (snanBits [a, b]) [a, b]
  else if fpIsInf a then
    if fpIsInf b && fpNeg a != fpNeg b then nanRaw fpVXISI [] else exactRaw (fpInf (fpNeg a))
  else if fpIsInf b then exactRaw (fpInf (fpNeg b))
  else sumRaw rn (fpNeg a) (fpSignificand a) (fpScale a) (fpNeg b) (fpSignificand b) (fpScale b)

/-- The sign of a datum inverted, a NaN unchanged (R421). -/
def negateOperand (w : Word) : Word := if fpIsNan w then w else fpNegate w

/-- `a - b` (R421). -/
def subRaw (rn : BitVec 2) (a b : Word) : FpRaw := addRaw rn a (negateOperand b)

/-- `a * c` (R422). -/
def mulRaw (a c : Word) : FpRaw :=
  let neg := fpNeg a != fpNeg c
  if fpIsNan a || fpIsNan c then nanRaw (snanBits [a, c]) [a, c]
  else if (fpIsInf a && fpIsZero c) || (fpIsZero a && fpIsInf c) then nanRaw fpVXIMZ []
  else if fpIsInf a || fpIsInf c then exactRaw (fpInf neg)
  else if fpIsZero a || fpIsZero c then exactRaw (fpZero neg)
  else { invalid := 0, zeroDivide := false,
         value := .real neg (fpSignificand a * fpSignificand c) (fpScale a + fpScale c) false }

/-- `a / b` (R423): fifty more bits than the significands leave at least 27 bits of quotient and a sticky part. -/
def divRaw (a b : Word) : FpRaw :=
  let neg := fpNeg a != fpNeg b
  if fpIsNan a || fpIsNan b then nanRaw (snanBits [a, b]) [a, b]
  else if fpIsInf a then (if fpIsInf b then nanRaw fpVXIDI [] else exactRaw (fpInf neg))
  else if fpIsInf b then exactRaw (fpZero neg)
  else if fpIsZero b then
    if fpIsZero a then nanRaw fpVXZDZ []
    else { invalid := 0, zeroDivide := true, value := .datum (fpInf neg) }
  else if fpIsZero a then exactRaw (fpZero neg)
  else
    let n := fpSignificand a * 2 ^ 50
    let d := fpSignificand b
    { invalid := 0, zeroDivide := false,
      value := .real neg (n / d) (fpScale a - fpScale b - 50) (n % d != 0) }

/-- `a * c + b` with one rounding (R425): NaNs are chosen in the order frA, frB, frC; VXIMZ is raised even if frB is a
NaN. -/
def maddRaw (rn : BitVec 2) (a c b : Word) : FpRaw :=
  let pneg := fpNeg a != fpNeg c
  let imz := !fpIsNan a && !fpIsNan c && ((fpIsInf a && fpIsZero c) || (fpIsZero a && fpIsInf c))
  if fpIsNan a || fpIsNan b || fpIsNan c || imz then
    nanRaw (snanBits [a, b, c] ||| maskIf imz fpVXIMZ) [a, b, c]
  else if fpIsInf a || fpIsInf c then
    if fpIsInf b && fpNeg b != pneg then nanRaw fpVXISI [] else exactRaw (fpInf pneg)
  else if fpIsInf b then exactRaw (fpInf (fpNeg b))
  else sumRaw rn pneg (fpSignificand a * fpSignificand c) (fpScale a + fpScale c)
    (fpNeg b) (fpSignificand b) (fpScale b)

/-- `a * c - b` (R426). -/
def msubRaw (rn : BitVec 2) (a c b : Word) : FpRaw := maddRaw rn a c (negateOperand b)

/- Delivering a result (R403 c, R405 to R412). -/

/-- RN (R51). -/
def fpRn (fpscr : Word) : BitVec 2 := fpscr.extractLsb' 0 2

/-- The last steps of an instruction that updates the FPSCR: the write, the FPSCR with FEX and VX recomputed, CR1, and the
enabled exception with SRR0 = CIA (R412 steps 4 to 7, R411). -/
def finishFp (s : State) (rc : Bool) (fpscr : Word) : Out :=
  let t := recordCr1 rc { s with fpscr := fpNormalize fpscr }
  if fpTrapEnabled t.msr t.fpscr then raise .program infoFpEnabled t else advance t

/-- Write a single-precision result with FPRF, FR and FI, then finish. -/
def deliverFp (s : State) (frD : Reg) (rc : Bool) (w : Word) (fr fi : Bool) (fpscr : Word) : Out :=
  finishFp (s.writeFpr frD w true) rc (fpSetFprf (fpClass w) (fpSetRounding fr fi fpscr))

/-- The sign of a result that is no NaN inverted where the instruction negates (R427, R428). -/
def negateResult (negate : Bool) (w : Word) : Word := if negate && !fpIsNan w then fpNegate w else w

/-- The predetermined value of non-IEEE mode for an event, where FPSCR[NI] = 1 (R54; log entry 14). -/
def niResult (s : State) (e : NiEvent) (a b c : Word) : Option Word :=
  if fpBit s.fpscr fpNI then some (Config.niResults e a b c) else none

/-- Deliver a predetermined value: which of FR, FI and XX it leaves set no source says, so they are free (log entry 14).
UX is never changed by hardware arithmetic (R410, D10). -/
def deliverNi (s : State) (frD : Reg) (rc : Bool) (w : Word) (fpscr : Word) : Out :=
  let free := s.draw .niStatus
  deliverFp s frD rc w (free.getLsbD 0) (free.getLsbD 1) (fpSetSticky (maskIf (free.getLsbD 2) fpXX) fpscr)

/-- Deliver the result of an arithmetic instruction on operands `a`, `b`, `c` (R403 to R412). -/
def deliverRaw (s : State) (frD : Reg) (rc negate : Bool) (a b c : Word) (x : FpRaw) : Out :=
  let f := s.fpscr
  let rn := fpRn f
  if x.invalid != 0 then
    let f' := fpSetSticky x.invalid f
    if fpBit f fpVE then finishFp s rc f'
    else
      match niResult s .invalid a b c, x.value with
      | some w, _ => deliverNi s frD rc w f'
      | none, .datum w => deliverFp s frD rc w false false f'
      | none, .real _ _ _ _ => deliverFp s frD rc fpDefaultNan false false f'
  else if x.zeroDivide then
    let f' := fpSetSticky fpZX f
    if fpBit f fpZE then finishFp s rc f'
    else
      match niResult s .divideByZero a b c, x.value with
      | some w, _ => deliverNi s frD rc w f'
      | none, .datum w => deliverFp s frD rc (negateResult negate w) false false f'
      | none, .real neg _ _ _ => deliverFp s frD rc (fpInf neg) false false f'
  else
    match x.value with
    | .datum w => deliverFp s frD rc (negateResult negate w) false false f
    | .real neg mant exp sticky =>
      if fpTiny mant exp then
        match niResult s .underflow a b c with
        | some w => deliverNi s frD rc w f
        | none => raise .emulation 0 s
      else
        let y := roundMagnitude rn neg mant exp sticky
        if !fpOverflows y then
          deliverFp s frD rc (negateResult negate (packNormal neg y)) y.up y.inexact
            (if y.inexact then fpSetSticky fpXX f else f)
        else if fpBit f fpOE then
          let z := roundMagnitude rn neg mant (exp - 192) sticky
          deliverFp s frD rc (negateResult negate (packNormal neg z)) z.up z.inexact
            (fpSetSticky (fpOX ||| maskIf z.inexact fpXX) f)
        else
          match niResult s .overflow a b c with
          | some w => deliverNi s frD rc w (fpSetSticky fpOX f)
          | none =>
            deliverFp s frD rc (negateResult negate (overflowResult rn neg)) (s.drawBit .overflowFr) true
              (fpSetSticky (fpOX ||| fpXX) f)

/- Preconditions (R400, R402). -/

/-- A denormalized operand, by `DENORM_INPUT_POLICY` (R402, D10; log entry 15). -/
def guardDenormal (s : State) (ws : List Word) : Try Unit :=
  if ws.any fpIsDenormal then
    match Config.denormPolicy with
    | .trap => .error (raise .emulation 0 s)
    | .compute => .ok ()
  else .ok ()

/-- The preconditions of an arithmetic, rounding or conversion instruction with these source registers, in the order of
R400: FP available, tags, denormalized data. -/
def guardArith (s : State) (srcs : List Reg) : Try Unit := do
  guardFp s
  guardSingles s srcs
  guardDenormal s (srcs.map s.fprData)

/- Rounding to an integer (R441). -/

/-- The integer a finite magnitude rounds to, and whether it was rounded up or is inexact. -/
def roundToInt (rn : BitVec 2) (neg : Bool) (mant : Nat) (exp : Int) : Nat × Bool × Bool :=
  if 0 ≤ exp then (mant * 2 ^ exp.toNat, false, false)
  else
    let sh := (-exp).toNat
    let q := mant / 2 ^ sh
    let r := mant % 2 ^ sh
    let up := roundsUp rn neg q r sh false
    (q + up.toNat, up, r != 0)

/-- The result of a conversion to an integer word: the invalid bits, the word, FR and FI. -/
structure FpInt where
  /-- VXCVI and VXSNAN -/
  invalid : Word
  /-- the integer -/
  word : Word
  /-- FR -/
  fr : Bool
  /-- FI -/
  fi : Bool
deriving DecidableEq, Repr

/-- Convert a datum to an integer word under a rounding mode (R441). -/
def convertToInt (rn : BitVec 2) (w : Word) : FpInt :=
  if fpIsNan w then { invalid := fpVXCVI ||| snanBits [w], word := 0x80000000, fr := false, fi := false }
  else if fpIsInf w then
    { invalid := fpVXCVI, word := if fpNeg w then 0x80000000 else 0x7FFFFFFF, fr := false, fi := false }
  else
    let x := roundToInt rn (fpNeg w) (fpSignificand w) (fpScale w)
    if !fpNeg w && decide (2 ^ 31 ≤ x.1) then { invalid := fpVXCVI, word := 0x7FFFFFFF, fr := false, fi := false }
    else if fpNeg w && decide (2 ^ 31 < x.1) then
      { invalid := fpVXCVI, word := 0x80000000, fr := false, fi := false }
    else
      { invalid := 0, word := if fpNeg w then 0 - BitVec.ofNat 32 x.1 else BitVec.ofNat 32 x.1,
        fr := x.2.1, fi := x.2.2 }

/- Comparison (R445). -/

/-- The order of data that are no NaN: sign and magnitude as one integer, both zeros 0. -/
def fpOrder (w : Word) : Int :=
  let m : Int := (w &&& 0x7FFFFFFF).toNat
  if fpNeg w then -m else m

/-- Less, greater, equal or unordered (R445). -/
def fpCompare (a b : Word) : BitVec 4 :=
  if fpIsNan a || fpIsNan b then 0b0001
  else if fpOrder a < fpOrder b then 0b1000
  else if fpOrder b < fpOrder a then 0b0100
  else 0b0010

/- The double format (R401, R537). -/

/-- `DOUBLE(w)`: the exact double image of a single datum (R401). -/
def toDouble (w : Word) : BitVec 64 :=
  let sign := w.extractLsb' 31 1
  let frac := w.extractLsb' 0 23
  if fpExp w = 255 then sign ++ (0x7FF : BitVec 11) ++ frac ++ (0 : BitVec 29)
  else if fpExp w ≠ 0 then sign ++ BitVec.ofNat 11 (fpExp w + 896) ++ frac ++ (0 : BitVec 29)
  else if fpFrac w = 0 then sign ++ (0 : BitVec 63)
  else
    let sh := 23 - Nat.log2 (fpFrac w)
    sign ++ BitVec.ofNat 11 (897 - sh) ++ BitVec.ofNat 23 (fpFrac w * 2 ^ sh) ++ (0 : BitVec 29)

/-- `SINGLE(D)` where the double datum is exactly a single (R537). -/
def toSingle (d : BitVec 64) : Option Word :=
  let sign := d.extractLsb' 63 1
  let e := (d.extractLsb' 52 11).toNat
  let f := d.extractLsb' 0 52
  let low29 := f.extractLsb' 0 29 == 0
  let top23 := f.extractLsb' 29 23
  if e = 0 then (if f = 0 then some (sign ++ (0 : BitVec 31)) else none)
  else if e = 2047 then (if low29 then some (sign ++ (0xFF : BitVec 8) ++ top23) else none)
  else if 897 ≤ e ∧ e ≤ 1150 then
    (if low29 then some (sign ++ BitVec.ofNat 8 (e - 896) ++ top23) else none)
  else if 874 ≤ e ∧ e ≤ 896 then
    let n := 926 - e
    let sig := 2 ^ 52 + f.toNat
    if sig % 2 ^ n = 0 then some (sign ++ (0 : BitVec 8) ++ BitVec.ofNat 23 (sig / 2 ^ n)) else none
  else none

end Sys2Proof.Machine
end

