-- ==== Sys2Proof/Machine/Spr.lean ====
section
/-!
DEFINITION. The special-purpose registers: their numbers, and explicit reads and writes (spec/10_state.md R70 to R95,
spec/45_processor_control.md R620 to R624). The numbers are the spec's table R70: PRESUMED, unsafe, log entry 1.
-/
namespace Sys2Proof.Machine

/-- The special-purpose registers of R70. -/
inductive Spr
  | xer | lr | ctr | dsisr | dar | dec | sdr1 | srr0 | srr1
  | sprg (k : Fin 4) | tbl | tbu | pvr | ibat (k : Fin 8) | dbat (k : Fin 8)
  | dmiss | dcmp | hash1 | hash2 | imiss | icmp | rpa
  | tcr | ibr | esasrr | sebr | ser | hid0 | hid1 | iabr | sp | lt
deriving DecidableEq, Repr

/-- `SPRN_<name>` (R70): the register of an SPR number, for `mtspr` and `mfspr`. -/
def sprOfNumber (n : Nat) : Option Spr :=
  match n with
  | 1 => some .xer
  | 8 => some .lr
  | 9 => some .ctr
  | 18 => some .dsisr
  | 19 => some .dar
  | 22 => some .dec
  | 25 => some .sdr1
  | 26 => some .srr0
  | 27 => some .srr1
  | 272 => some (.sprg 0)
  | 273 => some (.sprg 1)
  | 274 => some (.sprg 2)
  | 275 => some (.sprg 3)
  | 284 => some .tbl
  | 285 => some .tbu
  | 287 => some .pvr
  | 528 => some (.ibat 0)
  | 529 => some (.ibat 1)
  | 530 => some (.ibat 2)
  | 531 => some (.ibat 3)
  | 532 => some (.ibat 4)
  | 533 => some (.ibat 5)
  | 534 => some (.ibat 6)
  | 535 => some (.ibat 7)
  | 536 => some (.dbat 0)
  | 537 => some (.dbat 1)
  | 538 => some (.dbat 2)
  | 539 => some (.dbat 3)
  | 540 => some (.dbat 4)
  | 541 => some (.dbat 5)
  | 542 => some (.dbat 6)
  | 543 => some (.dbat 7)
  | 976 => some .dmiss
  | 977 => some .dcmp
  | 978 => some .hash1
  | 979 => some .hash2
  | 980 => some .imiss
  | 981 => some .icmp
  | 982 => some .rpa
  | 984 => some .tcr
  | 986 => some .ibr
  | 987 => some .esasrr
  | 990 => some .sebr
  | 991 => some .ser
  | 1008 => some .hid0
  | 1009 => some .hid1
  | 1010 => some .iabr
  | 1021 => some .sp
  | 1022 => some .lt
  | _ => none

/- Computed registers. -/

/-- The virtual segment id the miss hardware uses: of the missed segment, of SR0 in protection-only mode (R63, R85). -/
def missVsid (s : State) (ea : Word) : BitVec 24 :=
  srVsid (if protectionOnly s then s.sr.get 0 else s.srFor ea)

/-- The first hash of an effective address (R85). -/
def primaryHash (vsid : BitVec 24) (ea : Word) : BitVec 19 :=
  vsid.extractLsb' 0 19 ^^^ (ea.extractLsb' 12 16).setWidth 19

/-- The physical address of a page table entry group (R85). -/
def ptegAddress (sdr1 : Word) (h : BitVec 19) : Word :=
  sdr1.extractLsb' 25 7 ++ (sdr1.extractLsb' 16 9 ||| (h.extractLsb' 10 9 &&& sdr1.extractLsb' 0 9)) ++
    h.extractLsb' 0 10 ++ (0 : BitVec 6)

/-- The missed address HASH1 and HASH2 are formed from (R85). -/
def hashSource (s : State) : Word := if s.missIsData then s.dmiss else s.imiss

/-- HASH1 (R85). -/
def hash1 (s : State) : Word :=
  ptegAddress s.sdr1View (primaryHash (missVsid s (hashSource s)) (hashSource s))

/-- HASH2 (R85). -/
def hash2 (s : State) : Word :=
  ptegAddress s.sdr1View (~~~primaryHash (missVsid s (hashSource s)) (hashSource s))

/-- The first word of the sought page table entry (R86). -/
def compareWord (vsid : BitVec 24) (ea : Word) : Word :=
  (1 : BitVec 1) ++ vsid ++ (0 : BitVec 1) ++ ea.extractLsb' 22 6

/-- ICMP (R86). -/
def icmp (s : State) : Word := compareWord (missVsid s s.imiss) s.imiss

/-- DCMP (R86). -/
def dcmp (s : State) : Word := compareWord (missVsid s s.dmiss) s.dmiss

/- TCR (R94, spec/60_exceptions.md R796). -/

/-- A bit at an LSB-0 position. -/
def bitAt (k : Fin 32) (b : Bool) : Word := maskIf b (1#32 <<< k.val)

/-- The five fields at their positions, 0 elsewhere. -/
def tcrToWord (t : Tcr) : Word :=
  bitAt tcrLayout.we t.we ||| bitAt tcrLayout.wpHigh (t.wp.getLsbD 1) ||| bitAt tcrLayout.wpLow (t.wp.getLsbD 0) |||
    bitAt tcrLayout.wrc t.wrc ||| bitAt tcrLayout.ws t.ws

/-- The five fields of a written word. -/
def tcrOfWord (v : Word) : Tcr where
  we := v.getLsbD tcrLayout.we.val
  wp := BitVec.ofBool (v.getLsbD tcrLayout.wpHigh.val) ++ BitVec.ofBool (v.getLsbD tcrLayout.wpLow.val)
  wrc := v.getLsbD tcrLayout.wrc.val
  ws := v.getLsbD tcrLayout.ws.val

/- Timers. -/

/-- Load a count into DEC; DEC<0> going from 0 to 1 latches the decrementer exception (R74, spec/60 R791). -/
def writeDec (s : State) (v : Word) : State :=
  { s with dec := v, decPending := s.decPending || (!s.dec.msb && v.msb) }

/-- TBL (R79). -/
def timeBaseLow (s : State) : Word := s.tb.extractLsb' 0 32

/-- TBU (R79). -/
def timeBaseHigh (s : State) : Word := s.tb.extractLsb' 32 32

/-- The bits of XER that are kept: SO, OV, CA and the byte count (R48). -/
def xerKept : Word := 0xE000007F

/- The bits that reserved fields leave of a register (spec/93_implementation_defined.md A17). -/

/-- SDR1 but for its reserved bits 16 to 22 (R75). -/
def sdr1Kept : Word := 0xFFFF01FF

/-- RPA but for its reserved bits 20 to 22 and 29 (R87). -/
def rpaKept : Word := 0xFFFFF1FB

/-- A BAT word but for its reserved bits: 15 to 18 of an upper word, 15 to 24 and 29 of a lower one (R81). -/
def batKept (k : Fin 8) : Word := if k.val % 2 = 0 then 0xFFFE1FFF else 0xFFFE007B

/-- An IBAT word: NE and SE live in two of the reserved bits of the lower word (R81, D37; log entry 12). -/
def ibatKept (k : Fin 8) : Word :=
  batKept k ||| maskIf (k.val % 2 = 1) (1#32 <<< ibatNeBit ||| 1#32 <<< ibatSeBit)

/- Explicit access (R623). -/

/-- What `mfspr` reads; none where the register cannot be read so (R623, R624). Reserved fields of SDR1, the BATs and RPA
read back as any value (A17, log entry 42). -/
def readSpr (s : State) : Spr → Option Word
  | .xer => some s.xer
  | .lr => some s.lr
  | .ctr => some s.ctr
  | .dsisr => some s.dsisr
  | .dar => some s.dar
  | .dec => some s.dec
  | .sdr1 => some (s.readBack sdr1Kept s.sdr1)
  | .srr0 => some s.srr0
  | .srr1 => some s.srr1
  | .sprg k => some (s.sprg.get k)
  | .tbl => none
  | .tbu => none
  | .pvr => some pvrValue
  | .ibat k => some (s.readBack (ibatKept k) (s.ibat.get k))
  | .dbat k => some (s.readBack (batKept k) (s.dbat.get k))
  | .dmiss => some s.dmiss
  | .dcmp => some (dcmp s)
  | .hash1 => some (hash1 s)
  | .hash2 => some (hash2 s)
  | .imiss => some s.imiss
  | .icmp => some (icmp s)
  | .rpa => some (s.readBack rpaKept s.rpa)
  | .tcr => some (tcrToWord s.tcr)
  | .ibr => some s.ibr
  | .esasrr => some s.esasrr
  | .sebr => some s.sebr
  | .ser => some s.ser
  | .hid0 => some s.hid0
  | .hid1 => some Config.hid1Value
  | .iabr => some s.iabr
  | .sp => some s.sp
  | .lt => some s.lt

/-- What `mtspr` leaves; none where the register cannot be written (R623, R624). IBATs, SDR1, HID0 and IABR open a
context window (spec/70_reset_and_hazards.md R841). -/
def writeSpr (s : State) (v : Word) : Spr → Option State
  | .xer => some { s with xer := v &&& xerKept }
  | .lr => some { s with lr := v }
  | .ctr => some { s with ctr := v }
  | .dsisr => some { s with dsisr := v }
  | .dar => some { s with dar := v }
  | .dec => some (writeDec s v)
  | .sdr1 => some (openWindow s { s with sdr1 := v })
  | .srr0 => some { s with srr0 := v }
  | .srr1 => some { s with srr1 := v }
  | .sprg k => some { s with sprg := s.sprg.set k.val v k.isLt }
  | .tbl => some { s with tb := timeBaseHigh s ++ v }
  | .tbu => some { s with tb := v ++ timeBaseLow s }
  | .pvr => none
  | .ibat k => some (openWindow s { s with ibat := s.ibat.set k.val v k.isLt })
  | .dbat k => some { s with dbat := s.dbat.set k.val v k.isLt }
  | .dmiss => none
  | .dcmp => none
  | .hash1 => none
  | .hash2 => none
  | .imiss => none
  | .icmp => none
  | .rpa => some { s with rpa := v }
  | .tcr => some { s with tcr := tcrOfWord v }
  | .ibr => some { s with ibr := v }
  | .esasrr => some { s with esasrr := v }
  | .sebr => some { s with sebr := v }
  | .ser => some { s with ser := v }
  | .hid0 => some (openWindow s { s with hid0 := v })
  | .hid1 => some s
  | .iabr => some (openWindow s { s with iabr := v })
  | .sp => some { s with sp := v }
  | .lt => some { s with lt := v }

/-- The SPR number marks a supervisor register: bit 4 of the number, the encoded spr<0> (spec/30 R256). -/
def sprIsSupervisor (n : BitVec 10) : Bool := n.getLsbD 4

/-- An invalid SPR access (R624): privileged in user mode where the number marks a supervisor register, else illegal. -/
def invalidSpr (s : State) (n : BitVec 10) : Out :=
  if sprIsSupervisor n && s.prView then raisePrivileged s else raiseIllegal s

end Sys2Proof.Machine
end

