-- ==== Sys2Proof/Machine/IntegerArith.lean ====
section
/-!
DEFINITION. Integer arithmetic and compare (spec/40_integer_arithmetic_compare.md R300 to R334).
-/
namespace Sys2Proof.Machine

/-- Go on where every register named may be used (spec/10_state.md R41). -/
def withGprs (s : State) (named : List Reg) (o : Out) : Out := proceed (guardGprs s named) fun _ => o

/-- The last steps of an integer instruction with result `r`: CR0 where Rc = 1, and NIA (R300 g). -/
def finishInt (rc : Bool) (_rD : Reg) (r : Word) (s : State) : Out := advance (recordCr0 rc r s)

/-- rD <- x + y + c, then CA, then OV and SO, then CR0 (R300 c to g). -/
def sumInto (carry oe rc : Bool) (rD : Reg) (x y : Word) (c : Bool) (s : State) : Out :=
  let t := s.writeGpr rD (addWords x y c)
  let t' := if carry then withCarry t (carryOf x y c) else t
  finishInt rc rD (addWords x y c) (withOverflow oe (overflowOf x y c) t')

/-- A quotient the spec leaves undefined: rD is `free`, OV is 1, CR0<0..2> are the top bits of `crFree`, CR0<3> is the
new SO (R321, R322). -/
def undefinedQuotient (oe rc : Bool) (rD : Reg) (free crFree : Word) (s : State) : Out :=
  let t := withOverflow oe true (s.writeGpr rD free)
  advance (if rc then setCrField t 0 (crFree.extractLsb' 29 3 ++ BitVec.ofBool (xerSO t.xer)) else t)

/-- `addi` (R301). -/
def execAddi (rD rA : Reg) (simm : BitVec 16) (s : State) : Out :=
  withGprs s (rD :: namedOr0 rA) (advance (s.writeGpr rD (s.readGprOr0 rA + sext16 simm)))

/-- `addis` (R302). -/
def execAddis (rD rA : Reg) (simm : BitVec 16) (s : State) : Out :=
  withGprs s (rD :: namedOr0 rA) (advance (s.writeGpr rD (s.readGprOr0 rA + high16 simm)))

/-- `add` (R303). -/
def execAdd (rD rA rB : Reg) (oe rc : Bool) (s : State) : Out :=
  withGprs s [rD, rA, rB] (sumInto false oe rc rD (s.readGpr rA) (s.readGpr rB) false s)

/-- `subf` (R304). -/
def execSubf (rD rA rB : Reg) (oe rc : Bool) (s : State) : Out :=
  withGprs s [rD, rA, rB] (sumInto false oe rc rD (~~~s.readGpr rA) (s.readGpr rB) true s)

/-- `addic` (R305). -/
def execAddic (rD rA : Reg) (simm : BitVec 16) (s : State) : Out :=
  withGprs s [rD, rA] (sumInto true false false rD (s.readGpr rA) (sext16 simm) false s)

/-- `addic.` (R306). -/
def execAddicRc (rD rA : Reg) (simm : BitVec 16) (s : State) : Out :=
  withGprs s [rD, rA] (sumInto true false true rD (s.readGpr rA) (sext16 simm) false s)

/-- `subfic` (R307). -/
def execSubfic (rD rA : Reg) (simm : BitVec 16) (s : State) : Out :=
  withGprs s [rD, rA] (sumInto true false false rD (~~~s.readGpr rA) (sext16 simm) true s)

/-- `addc` (R308). -/
def execAddc (rD rA rB : Reg) (oe rc : Bool) (s : State) : Out :=
  withGprs s [rD, rA, rB] (sumInto true oe rc rD (s.readGpr rA) (s.readGpr rB) false s)

/-- `subfc` (R309). -/
def execSubfc (rD rA rB : Reg) (oe rc : Bool) (s : State) : Out :=
  withGprs s [rD, rA, rB] (sumInto true oe rc rD (~~~s.readGpr rA) (s.readGpr rB) true s)

/-- `adde` (R310). -/
def execAdde (rD rA rB : Reg) (oe rc : Bool) (s : State) : Out :=
  withGprs s [rD, rA, rB] (sumInto true oe rc rD (s.readGpr rA) (s.readGpr rB) (xerCA s.xer) s)

/-- `subfe` (R311). -/
def execSubfe (rD rA rB : Reg) (oe rc : Bool) (s : State) : Out :=
  withGprs s [rD, rA, rB] (sumInto true oe rc rD (~~~s.readGpr rA) (s.readGpr rB) (xerCA s.xer) s)

/-- `addme` (R312). -/
def execAddme (rD rA : Reg) (oe rc : Bool) (s : State) : Out :=
  withGprs s [rD, rA] (sumInto true oe rc rD (s.readGpr rA) 0xFFFFFFFF (xerCA s.xer) s)

/-- `subfme` (R313). -/
def execSubfme (rD rA : Reg) (oe rc : Bool) (s : State) : Out :=
  withGprs s [rD, rA] (sumInto true oe rc rD (~~~s.readGpr rA) 0xFFFFFFFF (xerCA s.xer) s)

/-- `addze` (R314). -/
def execAddze (rD rA : Reg) (oe rc : Bool) (s : State) : Out :=
  withGprs s [rD, rA] (sumInto true oe rc rD (s.readGpr rA) 0 (xerCA s.xer) s)

/-- `subfze` (R315). -/
def execSubfze (rD rA : Reg) (oe rc : Bool) (s : State) : Out :=
  withGprs s [rD, rA] (sumInto true oe rc rD (~~~s.readGpr rA) 0 (xerCA s.xer) s)

/-- `neg` (R316): overflow only for 0x80000000. -/
def execNeg (rD rA : Reg) (oe rc : Bool) (s : State) : Out :=
  withGprs s [rD, rA]
    (finishInt rc rD (0 - s.readGpr rA)
      (withOverflow oe (s.readGpr rA == 0x80000000) (s.writeGpr rD (0 - s.readGpr rA))))

/-- `mulli` (R317). -/
def execMulli (rD rA : Reg) (simm : BitVec 16) (s : State) : Out :=
  withGprs s [rD, rA] (advance (s.writeGpr rD (s.readGpr rA * sext16 simm)))

/-- `mullw` (R318). -/
def execMullw (rD rA rB : Reg) (oe rc : Bool) (s : State) : Out :=
  withGprs s [rD, rA, rB] <|
    let p := (s.readGpr rA).toInt * (s.readGpr rB).toInt
    let r := BitVec.ofInt 32 p
    finishInt rc rD r (withOverflow oe (r.toInt != p) (s.writeGpr rD r))

/-- `mulhw` (R319). -/
def execMulhw (rD rA rB : Reg) (rc : Bool) (s : State) : Out :=
  withGprs s [rD, rA, rB] <|
    let r := (BitVec.ofInt 64 ((s.readGpr rA).toInt * (s.readGpr rB).toInt)).extractLsb' 32 32
    finishInt rc rD r (s.writeGpr rD r)

/-- `mulhwu` (R320). -/
def execMulhwu (rD rA rB : Reg) (rc : Bool) (s : State) : Out :=
  withGprs s [rD, rA, rB] <|
    let r := (BitVec.ofNat 64 ((s.readGpr rA).toNat * (s.readGpr rB).toNat)).extractLsb' 32 32
    finishInt rc rD r (s.writeGpr rD r)

/-- `divw` (R321): a zero divisor and 0x80000000 / -1 leave rD and CR0<0..2> free. -/
def execDivw (rD rA rB : Reg) (oe rc : Bool) (s : State) : Out :=
  withGprs s [rD, rA, rB] <|
    let a := s.readGpr rA
    let b := s.readGpr rB
    if b == 0 || (a == 0x80000000 && b == 0xFFFFFFFF) then
      undefinedQuotient oe rc rD (s.draw .divw) (s.draw .divwCr) s
    else finishInt rc rD (a.sdiv b) (withOverflow oe false (s.writeGpr rD (a.sdiv b)))

/-- `divwu` (R322): a zero divisor leaves rD and CR0<0..2> free. -/
def execDivwu (rD rA rB : Reg) (oe rc : Bool) (s : State) : Out :=
  withGprs s [rD, rA, rB] <|
    let a := s.readGpr rA
    let b := s.readGpr rB
    if b == 0 then undefinedQuotient oe rc rD (s.draw .divwu) (s.draw .divwuCr) s
    else finishInt rc rD (a.udiv b) (withOverflow oe false (s.writeGpr rD (a.udiv b)))

/-- `cmpi` (R331). -/
def execCmpi (crfD : BitVec 3) (l : BitVec 1) (rA : Reg) (simm : BitVec 16) (s : State) : Out :=
  proceed (guardForm (compareOk l)) fun _ =>
    withGprs s [rA] (advance (setCrField s crfD (compareSigned (s.readGpr rA) (sext16 simm) (xerSO s.xer))))

/-- `cmp` (R332). -/
def execCmp (crfD : BitVec 3) (l : BitVec 1) (rA rB : Reg) (s : State) : Out :=
  proceed (guardForm (compareOk l)) fun _ =>
    withGprs s [rA, rB] (advance (setCrField s crfD (compareSigned (s.readGpr rA) (s.readGpr rB) (xerSO s.xer))))

/-- `cmpli` (R333). -/
def execCmpli (crfD : BitVec 3) (l : BitVec 1) (rA : Reg) (uimm : BitVec 16) (s : State) : Out :=
  proceed (guardForm (compareOk l)) fun _ =>
    withGprs s [rA] (advance (setCrField s crfD (compareUnsigned (s.readGpr rA) (zext16 uimm) (xerSO s.xer))))

/-- `cmpl` (R334). -/
def execCmpl (crfD : BitVec 3) (l : BitVec 1) (rA rB : Reg) (s : State) : Out :=
  proceed (guardForm (compareOk l)) fun _ =>
    withGprs s [rA, rB] (advance (setCrField s crfD (compareUnsigned (s.readGpr rA) (s.readGpr rB) (xerSO s.xer))))

end Sys2Proof.Machine
end

