-- ==== Sys2Proof/Machine/IntegerLogic.lean ====
section
/-!
DEFINITION. Integer logical, rotate and shift (spec/41_integer_logical_rotate_shift.md R350 to R383). The source is rS,
the destination rA.
-/
namespace Sys2Proof.Machine

/-- rA <- v, then CR0 where recording (R350). -/
def resultInto (rc : Bool) (rA : Reg) (v : Word) (s : State) : Out := finishInt rc rA v (s.writeGpr rA v)

/-- The six-bit shift amount (R380). -/
def shiftAmount (b : Word) : Nat := (b.extractLsb' 0 6).toNat

/-- The number of leading zeros, 32 for zero (R367). -/
def countLeadingZeros (v : Word) : Word := BitVec.ofNat 32 (if v = 0 then 32 else 31 - Nat.log2 v.toNat)

/-- Shift right algebraic by n, 0 to 63: CA where the source is negative and a 1 is shifted out (R382). -/
def shiftRightAlgebraic (rc : Bool) (rA : Reg) (v : Word) (n : Nat) (s : State) : Out :=
  let r := v.sshiftRight n
  finishInt rc rA r (withCarry (s.writeGpr rA r) (v.msb && v.toNat % 2 ^ n != 0))

/-- `andi.` (R351). -/
def execAndiRc (rS rA : Reg) (uimm : BitVec 16) (s : State) : Out :=
  withGprs s [rA, rS] (resultInto true rA (s.readGpr rS &&& zext16 uimm) s)

/-- `andis.` (R352). -/
def execAndisRc (rS rA : Reg) (uimm : BitVec 16) (s : State) : Out :=
  withGprs s [rA, rS] (resultInto true rA (s.readGpr rS &&& high16 uimm) s)

/-- `ori` (R353). -/
def execOri (rS rA : Reg) (uimm : BitVec 16) (s : State) : Out :=
  withGprs s [rA, rS] (resultInto false rA (s.readGpr rS ||| zext16 uimm) s)

/-- `oris` (R354). -/
def execOris (rS rA : Reg) (uimm : BitVec 16) (s : State) : Out :=
  withGprs s [rA, rS] (resultInto false rA (s.readGpr rS ||| high16 uimm) s)

/-- `xori` (R355). -/
def execXori (rS rA : Reg) (uimm : BitVec 16) (s : State) : Out :=
  withGprs s [rA, rS] (resultInto false rA (s.readGpr rS ^^^ zext16 uimm) s)

/-- `xoris` (R356). -/
def execXoris (rS rA : Reg) (uimm : BitVec 16) (s : State) : Out :=
  withGprs s [rA, rS] (resultInto false rA (s.readGpr rS ^^^ high16 uimm) s)

/-- `and` (R357). -/
def execAnd (rS rA rB : Reg) (rc : Bool) (s : State) : Out :=
  withGprs s [rA, rS, rB] (resultInto rc rA (s.readGpr rS &&& s.readGpr rB) s)

/-- `or` (R358). -/
def execOr (rS rA rB : Reg) (rc : Bool) (s : State) : Out :=
  withGprs s [rA, rS, rB] (resultInto rc rA (s.readGpr rS ||| s.readGpr rB) s)

/-- `xor` (R359). -/
def execXor (rS rA rB : Reg) (rc : Bool) (s : State) : Out :=
  withGprs s [rA, rS, rB] (resultInto rc rA (s.readGpr rS ^^^ s.readGpr rB) s)

/-- `nand` (R360). -/
def execNand (rS rA rB : Reg) (rc : Bool) (s : State) : Out :=
  withGprs s [rA, rS, rB] (resultInto rc rA (~~~(s.readGpr rS &&& s.readGpr rB)) s)

/-- `nor` (R361). -/
def execNor (rS rA rB : Reg) (rc : Bool) (s : State) : Out :=
  withGprs s [rA, rS, rB] (resultInto rc rA (~~~(s.readGpr rS ||| s.readGpr rB)) s)

/-- `eqv` (R362). -/
def execEqv (rS rA rB : Reg) (rc : Bool) (s : State) : Out :=
  withGprs s [rA, rS, rB] (resultInto rc rA (~~~(s.readGpr rS ^^^ s.readGpr rB)) s)

/-- `andc` (R363). -/
def execAndc (rS rA rB : Reg) (rc : Bool) (s : State) : Out :=
  withGprs s [rA, rS, rB] (resultInto rc rA (s.readGpr rS &&& ~~~s.readGpr rB) s)

/-- `orc` (R364). -/
def execOrc (rS rA rB : Reg) (rc : Bool) (s : State) : Out :=
  withGprs s [rA, rS, rB] (resultInto rc rA (s.readGpr rS ||| ~~~s.readGpr rB) s)

/-- `extsb` (R365). -/
def execExtsb (rS rA : Reg) (rc : Bool) (s : State) : Out :=
  withGprs s [rA, rS] (resultInto rc rA ((s.readGpr rS).extractLsb' 0 8 |>.signExtend 32) s)

/-- `extsh` (R366). -/
def execExtsh (rS rA : Reg) (rc : Bool) (s : State) : Out :=
  withGprs s [rA, rS] (resultInto rc rA ((s.readGpr rS).extractLsb' 0 16 |>.signExtend 32) s)

/-- `cntlzw` (R367). -/
def execCntlzw (rS rA : Reg) (rc : Bool) (s : State) : Out :=
  withGprs s [rA, rS] (resultInto rc rA (countLeadingZeros (s.readGpr rS)) s)

/-- `rlwinm` (R370). -/
def execRlwinm (rS rA : Reg) (sh mb me : BitVec 5) (rc : Bool) (s : State) : Out :=
  withGprs s [rA, rS] (resultInto rc rA ((s.readGpr rS).rotateLeft sh.toNat &&& maskMbMe mb me) s)

/-- `rlwnm` (R371). -/
def execRlwnm (rS rA rB : Reg) (mb me : BitVec 5) (rc : Bool) (s : State) : Out :=
  withGprs s [rA, rS, rB] (resultInto rc rA ((s.readGpr rS).rotateLeft ((s.readGpr rB).extractLsb' 0 5).toNat &&& maskMbMe mb me) s)

/-- `rlwimi` (R372). -/
def execRlwimi (rS rA : Reg) (sh mb me : BitVec 5) (rc : Bool) (s : State) : Out :=
  withGprs s [rA, rS] (resultInto rc rA (merge (maskMbMe mb me) ((s.readGpr rS).rotateLeft sh.toNat) (s.readGpr rA)) s)

/-- `slw` (R380): amounts 32 to 63 give 0. -/
def execSlw (rS rA rB : Reg) (rc : Bool) (s : State) : Out :=
  withGprs s [rA, rS, rB] (resultInto rc rA (s.readGpr rS <<< shiftAmount (s.readGpr rB)) s)

/-- `srw` (R381): amounts 32 to 63 give 0. -/
def execSrw (rS rA rB : Reg) (rc : Bool) (s : State) : Out :=
  withGprs s [rA, rS, rB] (resultInto rc rA (s.readGpr rS >>> shiftAmount (s.readGpr rB)) s)

/-- `sraw` (R382). -/
def execSraw (rS rA rB : Reg) (rc : Bool) (s : State) : Out :=
  withGprs s [rA, rS, rB] (shiftRightAlgebraic rc rA (s.readGpr rS) (shiftAmount (s.readGpr rB)) s)

/-- `srawi` (R383). -/
def execSrawi (rS rA : Reg) (sh : BitVec 5) (rc : Bool) (s : State) : Out :=
  withGprs s [rA, rS] (shiftRightAlgebraic rc rA (s.readGpr rS) sh.toNat s)

end Sys2Proof.Machine
end

