-- ==== Sys2Proof/Machine/FloatingPoint.lean ====
section
/-!
DEFINITION. Floating-point instructions (spec/42_floating_point.md R420 to R473).
-/
namespace Sys2Proof.Machine

/-- A double-precision arithmetic instruction: floating-point unavailable, else the emulation trap (R400, R430). -/
def emulatedFp (s : State) : Out := proceed (guardFp s) fun _ => raise .emulation 0 s

/-- The result of `frsp` on a datum: with VE = 1 a signalling NaN leaves frD, and FR, FI and FPRF as well, as R403 c says;
the words of R440 that clear FR and FI are not followed there (DESIGN CHOICE, log entry 37). A denormalized
result is tiny and takes the emulation trap, whatever `DENORM_INPUT_POLICY` says of the operand: D10 is followed where R272
and R440 execute every `frsp` (DESIGN CHOICE, log entry 15). -/
def deliverRounded (s : State) (frD : Reg) (rc : Bool) (w : Word) : Out :=
  if fpIsSnan w then
    let f := fpSetSticky fpVXSNAN s.fpscr
    if fpBit s.fpscr fpVE then finishFp s rc f
    else
      match niResult s .invalid 0 w 0 with
      | some v => deliverNi s frD rc v f
      | none => deliverFp s frD rc (fpQuiet w) false false f
  else if fpIsDenormal w then
    match niResult s .underflow 0 w 0 with
    | some v => deliverNi s frD rc v s.fpscr
    | none => raise .emulation 0 s
  else deliverFp s frD rc w false false s.fpscr

/-- The result of a conversion to integer: FPRF is free, and an invalid one clears FR and FI; with VE = 1 it leaves frD. So
says R441; R403 c, which leaves FR, FI and FPRF too, is not followed (DESIGN CHOICE, log entry 36). An invalid conversion in
non-IEEE mode writes a predetermined value of its own, an integer word, and follows R441 in all else: FR and FI cleared, XX
unchanged, FPRF free (DESIGN CHOICE, log entry 14). -/
def deliverInt (s : State) (frD : Reg) (rc : Bool) (w : Word) (x : FpInt) : Out :=
  let sticky := x.invalid ||| maskIf x.fi fpXX
  let f := fpSetFprf ((s.draw .fctiwFprf).extractLsb' 0 5) (fpSetRounding x.fr x.fi (fpSetSticky sticky s.fpscr))
  if x.invalid != 0 && fpBit s.fpscr fpVE then finishFp s rc f
  else
    match (if x.invalid != 0 then niResult s .conversion 0 w 0 else none) with
    | some v => finishFp (s.writeFpr frD v false) rc f
    | none => finishFp (s.writeFpr frD x.word false) rc f

/-- The preconditions of a compare (R400, R402: denormalized data are accepted). -/
def guardCompare (s : State) (frA frB : Reg) : Try Unit := do
  guardFp s
  guardSingles s [frA, frB]

/-- A compare: the CR field, FPCC, the invalid bits (R445). -/
def deliverCompare (s : State) (crfD : BitVec 3) (c : BitVec 4) (invalid : Word) : Out :=
  finishFp (setCrField s crfD c) false (fpSetFpcc c (fpSetSticky invalid s.fpscr))

/-- The invalid bits of an ordered compare (R446). -/
def orderedInvalid (ve : Bool) (a b : Word) : Word :=
  if fpIsSnan a || fpIsSnan b then fpVXSNAN ||| maskIf (!ve) fpVXVC
  else maskIf (fpIsNan a || fpIsNan b) fpVXVC

/-- The last steps of a move: CR1 where Rc = 1, and NIA (R450). -/
def moveFp (rc : Bool) (s : State) : Out := advance (recordCr1 rc s)

/-- `frA >= 0.0`: true of both zeros, false of every NaN (R454). -/
def fpNotLess (w : Word) : Bool := !fpIsNan w && decide (0 ≤ fpOrder w)

/-- The mask of 4-bit field n. -/
def fieldMaskOf (n : BitVec 3) : Word := 0xF0000000#32 >>> (4 * n.toNat)

/-- `LOW32(frB)` of `mtfsf` (R463). -/
def fprLowWord (s : State) (r : Reg) : Word :=
  if s.isSingle r then (toDouble (s.fprData r)).extractLsb' 0 32 else s.fprData r

/-- `fadds` (R420). -/
def execFadds (frD frA frB : Reg) (rc : Bool) (s : State) : Out :=
  proceed (guardArith s [frA, frB]) fun _ =>
    deliverRaw s frD rc false (s.fprData frA) (s.fprData frB) 0 (addRaw (fpRn s.fpscr) (s.fprData frA) (s.fprData frB))

/-- `fsubs` (R421). -/
def execFsubs (frD frA frB : Reg) (rc : Bool) (s : State) : Out :=
  proceed (guardArith s [frA, frB]) fun _ =>
    deliverRaw s frD rc false (s.fprData frA) (s.fprData frB) 0 (subRaw (fpRn s.fpscr) (s.fprData frA) (s.fprData frB))

/-- `fmuls` (R422). -/
def execFmuls (frD frA frC : Reg) (rc : Bool) (s : State) : Out :=
  proceed (guardArith s [frA, frC]) fun _ =>
    deliverRaw s frD rc false (s.fprData frA) 0 (s.fprData frC) (mulRaw (s.fprData frA) (s.fprData frC))

/-- `fdivs` (R423). -/
def execFdivs (frD frA frB : Reg) (rc : Bool) (s : State) : Out :=
  proceed (guardArith s [frA, frB]) fun _ =>
    deliverRaw s frD rc false (s.fprData frA) (s.fprData frB) 0 (divRaw (s.fprData frA) (s.fprData frB))

/-- `fres` (R424): a divide of 1.0. -/
def execFres (frD frB : Reg) (rc : Bool) (s : State) : Out :=
  proceed (guardArith s [frB]) fun _ =>
    deliverRaw s frD rc false 0x3F800000 (s.fprData frB) 0 (divRaw 0x3F800000 (s.fprData frB))

/-- `fmadds` (R425). -/
def execFmadds (frD frA frB frC : Reg) (rc : Bool) (s : State) : Out :=
  proceed (guardArith s [frA, frB, frC]) fun _ =>
    deliverRaw s frD rc false (s.fprData frA) (s.fprData frB) (s.fprData frC) (maddRaw (fpRn s.fpscr) (s.fprData frA) (s.fprData frC) (s.fprData frB))

/-- `fmsubs` (R426). -/
def execFmsubs (frD frA frB frC : Reg) (rc : Bool) (s : State) : Out :=
  proceed (guardArith s [frA, frB, frC]) fun _ =>
    deliverRaw s frD rc false (s.fprData frA) (s.fprData frB) (s.fprData frC) (msubRaw (fpRn s.fpscr) (s.fprData frA) (s.fprData frC) (s.fprData frB))

/-- `fnmadds` (R427). -/
def execFnmadds (frD frA frB frC : Reg) (rc : Bool) (s : State) : Out :=
  proceed (guardArith s [frA, frB, frC]) fun _ =>
    deliverRaw s frD rc true (s.fprData frA) (s.fprData frB) (s.fprData frC) (maddRaw (fpRn s.fpscr) (s.fprData frA) (s.fprData frC) (s.fprData frB))

/-- `fnmsubs` (R428). -/
def execFnmsubs (frD frA frB frC : Reg) (rc : Bool) (s : State) : Out :=
  proceed (guardArith s [frA, frB, frC]) fun _ =>
    deliverRaw s frD rc true (s.fprData frA) (s.fprData frB) (s.fprData frC) (msubRaw (fpRn s.fpscr) (s.fprData frA) (s.fprData frC) (s.fprData frB))

/-- `fadd` (R430): trapped for emulation. -/
def execFadd (_frD _frA _frB : Reg) (_rc : Bool) (s : State) : Out :=
  emulatedFp s

/-- `fsub` (R431): trapped for emulation. -/
def execFsub (_frD _frA _frB : Reg) (_rc : Bool) (s : State) : Out :=
  emulatedFp s

/-- `fmul` (R432): trapped for emulation. -/
def execFmul (_frD _frA _frC : Reg) (_rc : Bool) (s : State) : Out :=
  emulatedFp s

/-- `fdiv` (R433): trapped for emulation. -/
def execFdiv (_frD _frA _frB : Reg) (_rc : Bool) (s : State) : Out :=
  emulatedFp s

/-- `fmadd` (R434): trapped for emulation. -/
def execFmadd (_frD _frA _frB _frC : Reg) (_rc : Bool) (s : State) : Out :=
  emulatedFp s

/-- `fmsub` (R435): trapped for emulation. -/
def execFmsub (_frD _frA _frB _frC : Reg) (_rc : Bool) (s : State) : Out :=
  emulatedFp s

/-- `fnmadd` (R436): trapped for emulation. -/
def execFnmadd (_frD _frA _frB _frC : Reg) (_rc : Bool) (s : State) : Out :=
  emulatedFp s

/-- `fnmsub` (R437): trapped for emulation. -/
def execFnmsub (_frD _frA _frB _frC : Reg) (_rc : Bool) (s : State) : Out :=
  emulatedFp s

/-- `frsp` (R440): the operand already is a single; a signalling NaN is quieted. -/
def execFrsp (frD frB : Reg) (rc : Bool) (s : State) : Out :=
  proceed (guardArith s [frB]) fun _ =>
    deliverRounded s frD rc (s.fprData frB)

/-- `fctiw` (R441). -/
def execFctiw (frD frB : Reg) (rc : Bool) (s : State) : Out :=
  proceed (guardArith s [frB]) fun _ =>
    deliverInt s frD rc (s.fprData frB) (convertToInt (fpRn s.fpscr) (s.fprData frB))

/-- `fctiwz` (R442): toward zero whatever RN. -/
def execFctiwz (frD frB : Reg) (rc : Bool) (s : State) : Out :=
  proceed (guardArith s [frB]) fun _ =>
    deliverInt s frD rc (s.fprData frB) (convertToInt 1 (s.fprData frB))

/-- `fcmpu` (R445). -/
def execFcmpu (crfD : BitVec 3) (frA frB : Reg) (s : State) : Out :=
  proceed (guardCompare s frA frB) fun _ =>
    deliverCompare s crfD (fpCompare (s.fprData frA) (s.fprData frB)) (snanBits [s.fprData frA, s.fprData frB])

/-- `fcmpo` (R446). -/
def execFcmpo (crfD : BitVec 3) (frA frB : Reg) (s : State) : Out :=
  proceed (guardCompare s frA frB) fun _ =>
    deliverCompare s crfD (fpCompare (s.fprData frA) (s.fprData frB))
      (orderedInvalid (fpBit s.fpscr fpVE) (s.fprData frA) (s.fprData frB))

/-- `fmr` (R450). -/
def execFmr (frD frB : Reg) (rc : Bool) (s : State) : Out :=
  proceed (guardFp s) fun _ => proceed (guardTagged s frB) fun _ =>
    moveFp rc (s.writeFpr frD (s.fprData frB) (s.spTag frB))

/-- `fneg` (R451). -/
def execFneg (frD frB : Reg) (rc : Bool) (s : State) : Out :=
  proceed (guardFp s) fun _ => proceed (guardSingles s [frB]) fun _ =>
    moveFp rc (s.writeFpr frD (fpNegate (s.fprData frB)) true)

/-- `fabs` (R452). -/
def execFabs (frD frB : Reg) (rc : Bool) (s : State) : Out :=
  proceed (guardFp s) fun _ => proceed (guardSingles s [frB]) fun _ =>
    moveFp rc (s.writeFpr frD (s.fprData frB &&& 0x7FFFFFFF) true)

/-- `fnabs` (R453). -/
def execFnabs (frD frB : Reg) (rc : Bool) (s : State) : Out :=
  proceed (guardFp s) fun _ => proceed (guardSingles s [frB]) fun _ =>
    moveFp rc (s.writeFpr frD (s.fprData frB ||| 0x80000000) true)

/-- `fsel` (R454): frA needs a datum, the selected source a meaning (log entry 39). -/
def execFsel (frD frA frB frC : Reg) (rc : Bool) (s : State) : Out :=
  proceed (guardFp s) fun _ => proceed (guardSingles s [frA]) fun _ =>
    let src := if fpNotLess (s.fprData frA) then frC else frB
    proceed (guardTagged s src) fun _ => moveFp rc (s.writeFpr frD (s.fprData src) (s.spTag src))

/-- `mffs` (R460). -/
def execMffs (frD : Reg) (rc : Bool) (s : State) : Out :=
  proceed (guardFp s) fun _ => moveFp rc (s.writeFpr frD s.fpscr false)

/-- `mcrfs` (R461). -/
def execMcrfs (crfD crfS : BitVec 3) (s : State) : Out :=
  proceed (guardFp s) fun _ =>
    finishFp (setCrField s crfD (field4 s.fpscr crfS)) false
      (s.fpscr &&& ~~~(fieldMaskOf crfS &&& (fpFX ||| fpExceptionBits)))

/-- `mtfsfi` (R462). -/
def execMtfsfi (crfD : BitVec 3) (imm : BitVec 4) (rc : Bool) (s : State) : Out :=
  proceed (guardFp s) fun _ =>
    finishFp s rc (merge (fieldMaskOf crfD) (setField4 0 crfD imm) s.fpscr)

/-- `mtfsf` (R463). -/
def execMtfsf (fm : BitVec 8) (frB : Reg) (rc : Bool) (s : State) : Out :=
  proceed (guardFp s) fun _ => proceed (guardTagged s frB) fun _ =>
    finishFp s rc (merge (fieldMask fm) (fprLowWord s frB) s.fpscr)

/-- `mtfsb0` (R464). -/
def execMtfsb0 (crbD : BitVec 5) (rc : Bool) (s : State) : Out :=
  proceed (guardFp s) fun _ => finishFp s rc (setIbmBit s.fpscr crbD.toNat false)

/-- `mtfsb1` (R465): FX where an exception bit goes from 0 to 1. -/
def execMtfsb1 (crbD : BitVec 5) (rc : Bool) (s : State) : Out :=
  proceed (guardFp s) fun _ =>
    finishFp s rc (fpSetSticky (0x80000000#32 >>> crbD.toNat) s.fpscr)

/-- `fsqrt` (R470, R473): not implemented, illegal whatever MSR[FP] holds. -/
def execFsqrt (_frD _frB : Reg) (_rc : Bool) (s : State) : Out :=
  raiseIllegal s

/-- `fsqrts` (R471, R473): not implemented, illegal whatever MSR[FP] holds. -/
def execFsqrts (_frD _frB : Reg) (_rc : Bool) (s : State) : Out :=
  raiseIllegal s

/-- `frsqrte` (R472, R473): not implemented, illegal whatever MSR[FP] holds. -/
def execFrsqrte (_frD _frB : Reg) (_rc : Bool) (s : State) : Out :=
  raiseIllegal s

end Sys2Proof.Machine
end

