-- ==== Sys2Proof/Machine/LoadStore.lean ====
section
/-!
DEFINITION. Loads and stores (spec/43_load_store.md R480 to R561).
-/
namespace Sys2Proof.Machine

/-- The address written back by an update form (R480). -/
def updateBase (s : State) (base : Option Reg) (ea : Word) : State :=
  match base with
  | some rA => s.writeGpr rA ea
  | none => s

/-- Sign extension of a loaded halfword (R490). -/
def signHalf (v : Word) : Word := (v.extractLsb' 0 16).signExtend 32

/-- An integer load of `n` bytes at `ea`: the datum through `conv` to rD, then the base (R480, R481). -/
def loadInt (s : State) (w : Word) (named : List Reg) (ea : Word) (n : Nat) (conv : Word → Word) (rD : Reg)
    (base : Option Reg) : Out :=
  withGprs s named <|
  proceed (guardBigEndian s w base.isSome (!isAligned ea n) ea) fun _ =>
  proceed (orStop s (loadData s ea n)) fun (v, t) => advance (updateBase (t.writeGpr rD (conv v)) base ea)

/-- An integer store of the low `n` bytes of `v` at `ea`, then the base (R480, R481). -/
def storeInt (s : State) (w : Word) (named : List Reg) (ea : Word) (n : Nat) (v : Word) (base : Option Reg) : Out :=
  withGprs s named <|
  proceed (guardBigEndian s w base.isSome (!isAligned ea n) ea) fun _ =>
  proceed (tryStore s ea n v) fun t => advance (updateBase t base ea)

/-- What `stwcx.` does at a physical address (R531): it stores where the reservation names its granule, a free choice
where it names another, not where there is none. -/
def conditionalStoreSucceeds (s : State) (pa : Word) : Bool :=
  match s.reserve with
  | some g => if g = pa &&& granuleMask then true else s.drawBit .stwcxOutcome
  | none => false

/-- A single-precision load (R536). -/
def loadSingleFp (s : State) (w : Word) (named : List Reg) (ea : Word) (frD : Reg) (base : Option Reg) : Out :=
  proceed (guardFp s) fun _ =>
  withGprs s named <|
  proceed (guardWordAligned s w base.isSome ea) fun _ =>
  proceed (guardBigEndian s w base.isSome false ea) fun _ =>
  proceed (orStop s (loadData s ea 4)) fun (v, t) => advance (updateBase (t.writeFpr frD v true) base ea)

/-- A double-precision load: a doubleword that is no single takes the emulation trap, with no register written (R536,
R541). -/
def loadDoubleFp (s : State) (w : Word) (named : List Reg) (ea : Word) (frD : Reg) (base : Option Reg) : Out :=
  proceed (guardFp s) fun _ =>
  withGprs s named <|
  proceed (guardWordAligned s w base.isSome ea) fun _ =>
  proceed (guardBigEndian s w base.isSome (!isAligned ea 8) ea) fun _ =>
  proceed (orStop s (loadDouble s ea)) fun (v, t) =>
    match toSingle v with
    | some x => advance (updateBase (t.writeFpr frD x true) base ea)
    | none => raise .emulation 0 t

/-- A single-precision store (R550). The tags are refused before the alignment and translation exceptions, an order the
spec leaves open between R400 and R550 (DESIGN CHOICE, log entry 58). -/
def storeSingleFp (s : State) (w : Word) (named : List Reg) (ea : Word) (frS : Reg) (base : Option Reg) : Out :=
  proceed (guardFp s) fun _ =>
  withGprs s named <|
  proceed (guardSingles s [frS]) fun _ =>
  proceed (guardWordAligned s w base.isSome ea) fun _ =>
  proceed (guardBigEndian s w base.isSome false ea) fun _ =>
  proceed (tryStore s ea 4 (s.fprData frS)) fun t => advance (updateBase t base ea)

/-- The doubleword a double store writes: the exact image of a single, or an integer word under a free high word
(R546). -/
def doubleImage (s : State) (r : Reg) : BitVec 64 :=
  if s.isSingle r then toDouble (s.fprData r) else s.draw .stfdHigh ++ s.fprData r

/-- A double-precision store (R546). The tags are refused before the alignment and translation exceptions, an order the
spec leaves open between R400 and R546 (DESIGN CHOICE, log entry 58). -/
def storeDoubleFp (s : State) (w : Word) (named : List Reg) (ea : Word) (frS : Reg) (base : Option Reg) : Out :=
  proceed (guardFp s) fun _ =>
  withGprs s named <|
  proceed (guardTagged s frS) fun _ =>
  proceed (guardWordAligned s w base.isSome ea) fun _ =>
  proceed (guardBigEndian s w base.isSome (!isAligned ea 8) ea) fun _ =>
  proceed (orStop s (storeDouble s ea (doubleImage s frS))) fun t => advance (updateBase t base ea)

/-- `lbz` (R482). -/
def execLbz (rD rA : Reg) (d : BitVec 16) (s : State) : Out :=
  loadInt s (encode (.lbz rD rA d)) (rD :: namedOr0 rA) (eaD s rA d) 1 id rD none

/-- `lbzu` (R483). -/
def execLbzu (rD rA : Reg) (d : BitVec 16) (s : State) : Out :=
  proceed (guardForm (updateLoadOk rD rA)) fun _ =>
    loadInt s (encode (.lbzu rD rA d)) (rD :: [rA]) (eaDU s rA d) 1 id rD (some rA)

/-- `lbzx` (R484). -/
def execLbzx (rD rA rB : Reg) (s : State) : Out :=
  loadInt s (encode (.lbzx rD rA rB)) (rD :: namedOr0 rA ++ [rB]) (eaX s rA rB) 1 id rD none

/-- `lbzux` (R485). -/
def execLbzux (rD rA rB : Reg) (s : State) : Out :=
  proceed (guardForm (updateLoadOk rD rA)) fun _ =>
    loadInt s (encode (.lbzux rD rA rB)) (rD :: [rA, rB]) (eaXU s rA rB) 1 id rD (some rA)

/-- `lhz` (R486). -/
def execLhz (rD rA : Reg) (d : BitVec 16) (s : State) : Out :=
  loadInt s (encode (.lhz rD rA d)) (rD :: namedOr0 rA) (eaD s rA d) 2 id rD none

/-- `lhzu` (R487). -/
def execLhzu (rD rA : Reg) (d : BitVec 16) (s : State) : Out :=
  proceed (guardForm (updateLoadOk rD rA)) fun _ =>
    loadInt s (encode (.lhzu rD rA d)) (rD :: [rA]) (eaDU s rA d) 2 id rD (some rA)

/-- `lhzx` (R488). -/
def execLhzx (rD rA rB : Reg) (s : State) : Out :=
  loadInt s (encode (.lhzx rD rA rB)) (rD :: namedOr0 rA ++ [rB]) (eaX s rA rB) 2 id rD none

/-- `lhzux` (R489). -/
def execLhzux (rD rA rB : Reg) (s : State) : Out :=
  proceed (guardForm (updateLoadOk rD rA)) fun _ =>
    loadInt s (encode (.lhzux rD rA rB)) (rD :: [rA, rB]) (eaXU s rA rB) 2 id rD (some rA)

/-- `lha` (R490). -/
def execLha (rD rA : Reg) (d : BitVec 16) (s : State) : Out :=
  loadInt s (encode (.lha rD rA d)) (rD :: namedOr0 rA) (eaD s rA d) 2 signHalf rD none

/-- `lhau` (R491). -/
def execLhau (rD rA : Reg) (d : BitVec 16) (s : State) : Out :=
  proceed (guardForm (updateLoadOk rD rA)) fun _ =>
    loadInt s (encode (.lhau rD rA d)) (rD :: [rA]) (eaDU s rA d) 2 signHalf rD (some rA)

/-- `lhax` (R492). -/
def execLhax (rD rA rB : Reg) (s : State) : Out :=
  loadInt s (encode (.lhax rD rA rB)) (rD :: namedOr0 rA ++ [rB]) (eaX s rA rB) 2 signHalf rD none

/-- `lhaux` (R493). -/
def execLhaux (rD rA rB : Reg) (s : State) : Out :=
  proceed (guardForm (updateLoadOk rD rA)) fun _ =>
    loadInt s (encode (.lhaux rD rA rB)) (rD :: [rA, rB]) (eaXU s rA rB) 2 signHalf rD (some rA)

/-- `lwz` (R494). -/
def execLwz (rD rA : Reg) (d : BitVec 16) (s : State) : Out :=
  loadInt s (encode (.lwz rD rA d)) (rD :: namedOr0 rA) (eaD s rA d) 4 id rD none

/-- `lwzu` (R495). -/
def execLwzu (rD rA : Reg) (d : BitVec 16) (s : State) : Out :=
  proceed (guardForm (updateLoadOk rD rA)) fun _ =>
    loadInt s (encode (.lwzu rD rA d)) (rD :: [rA]) (eaDU s rA d) 4 id rD (some rA)

/-- `lwzx` (R496). -/
def execLwzx (rD rA rB : Reg) (s : State) : Out :=
  loadInt s (encode (.lwzx rD rA rB)) (rD :: namedOr0 rA ++ [rB]) (eaX s rA rB) 4 id rD none

/-- `lwzux` (R497). -/
def execLwzux (rD rA rB : Reg) (s : State) : Out :=
  proceed (guardForm (updateLoadOk rD rA)) fun _ =>
    loadInt s (encode (.lwzux rD rA rB)) (rD :: [rA, rB]) (eaXU s rA rB) 4 id rD (some rA)

/-- `stb` (R498). -/
def execStb (rS rA : Reg) (d : BitVec 16) (s : State) : Out :=
  storeInt s (encode (.stb rS rA d)) (rS :: namedOr0 rA) (eaD s rA d) 1 (s.readGpr rS) none

/-- `stbu` (R499). -/
def execStbu (rS rA : Reg) (d : BitVec 16) (s : State) : Out :=
  proceed (guardForm (updateOk rA)) fun _ =>
    storeInt s (encode (.stbu rS rA d)) (rS :: [rA]) (eaDU s rA d) 1 (s.readGpr rS) (some rA)

/-- `stbx` (R500). -/
def execStbx (rS rA rB : Reg) (s : State) : Out :=
  storeInt s (encode (.stbx rS rA rB)) (rS :: namedOr0 rA ++ [rB]) (eaX s rA rB) 1 (s.readGpr rS) none

/-- `stbux` (R501). -/
def execStbux (rS rA rB : Reg) (s : State) : Out :=
  proceed (guardForm (updateOk rA)) fun _ =>
    storeInt s (encode (.stbux rS rA rB)) (rS :: [rA, rB]) (eaXU s rA rB) 1 (s.readGpr rS) (some rA)

/-- `sth` (R502). -/
def execSth (rS rA : Reg) (d : BitVec 16) (s : State) : Out :=
  storeInt s (encode (.sth rS rA d)) (rS :: namedOr0 rA) (eaD s rA d) 2 (s.readGpr rS) none

/-- `sthu` (R503). -/
def execSthu (rS rA : Reg) (d : BitVec 16) (s : State) : Out :=
  proceed (guardForm (updateOk rA)) fun _ =>
    storeInt s (encode (.sthu rS rA d)) (rS :: [rA]) (eaDU s rA d) 2 (s.readGpr rS) (some rA)

/-- `sthx` (R504). -/
def execSthx (rS rA rB : Reg) (s : State) : Out :=
  storeInt s (encode (.sthx rS rA rB)) (rS :: namedOr0 rA ++ [rB]) (eaX s rA rB) 2 (s.readGpr rS) none

/-- `sthux` (R505). -/
def execSthux (rS rA rB : Reg) (s : State) : Out :=
  proceed (guardForm (updateOk rA)) fun _ =>
    storeInt s (encode (.sthux rS rA rB)) (rS :: [rA, rB]) (eaXU s rA rB) 2 (s.readGpr rS) (some rA)

/-- `stw` (R506). -/
def execStw (rS rA : Reg) (d : BitVec 16) (s : State) : Out :=
  storeInt s (encode (.stw rS rA d)) (rS :: namedOr0 rA) (eaD s rA d) 4 (s.readGpr rS) none

/-- `stwu` (R507). -/
def execStwu (rS rA : Reg) (d : BitVec 16) (s : State) : Out :=
  proceed (guardForm (updateOk rA)) fun _ =>
    storeInt s (encode (.stwu rS rA d)) (rS :: [rA]) (eaDU s rA d) 4 (s.readGpr rS) (some rA)

/-- `stwx` (R508). -/
def execStwx (rS rA rB : Reg) (s : State) : Out :=
  storeInt s (encode (.stwx rS rA rB)) (rS :: namedOr0 rA ++ [rB]) (eaX s rA rB) 4 (s.readGpr rS) none

/-- `stwux` (R509). -/
def execStwux (rS rA rB : Reg) (s : State) : Out :=
  proceed (guardForm (updateOk rA)) fun _ =>
    storeInt s (encode (.stwux rS rA rB)) (rS :: [rA, rB]) (eaXU s rA rB) 4 (s.readGpr rS) (some rA)

/-- `lhbrx` (R510). -/
def execLhbrx (rD rA rB : Reg) (s : State) : Out :=
  loadInt s (encode (.lhbrx rD rA rB)) (rD :: namedOr0 rA ++ [rB]) (eaX s rA rB) 2 reverseHalf rD none

/-- `lwbrx` (R511). -/
def execLwbrx (rD rA rB : Reg) (s : State) : Out :=
  loadInt s (encode (.lwbrx rD rA rB)) (rD :: namedOr0 rA ++ [rB]) (eaX s rA rB) 4 reverseBytes rD none

/-- `sthbrx` (R512). -/
def execSthbrx (rS rA rB : Reg) (s : State) : Out :=
  storeInt s (encode (.sthbrx rS rA rB)) (rS :: namedOr0 rA ++ [rB]) (eaX s rA rB) 2 (reverseHalf (s.readGpr rS)) none

/-- `stwbrx` (R513). -/
def execStwbrx (rS rA rB : Reg) (s : State) : Out :=
  storeInt s (encode (.stwbrx rS rA rB)) (rS :: namedOr0 rA ++ [rB]) (eaX s rA rB) 4 (reverseBytes (s.readGpr rS)) none

/-- `lmw` (R520): where a word stops, a free number of the earlier registers has been loaded (D24). -/
def execLmw (rD rA : Reg) (d : BitVec 16) (s : State) : Out :=
  proceed (guardForm (lmwOk rD rA)) fun _ =>
    let ea := eaD s rA d
    let w := encode (.lmw rD rA d)
    withGprs s (rD :: 31 :: namedOr0 rA) <|
    proceed (guardWordAligned s w true ea) fun _ =>
    proceed (guardBigEndian s w true true ea) fun _ =>
      let r := loadRun s ea 4 (32 - rD.toNat)
      match r.stop with
      | none => advance (writeGprs r.reached rD r.words)
      | some e => e.outcome (writeGprs r.reached rD (r.words.take ((s.draw .lmwCount).toNat % (r.words.length + 1))))

/-- `stmw` (R521): where a word stops, a free number of the earlier words has been stored (D24). -/
def execStmw (rS rA : Reg) (d : BitVec 16) (s : State) : Out :=
  let ea := eaD s rA d
  let w := encode (.stmw rS rA d)
  withGprs s (rS :: 31 :: namedOr0 rA) <|
  proceed (guardWordAligned s w true ea) fun _ =>
  proceed (guardBigEndian s w true true ea) fun _ =>
    let vs := readGprs s rS (32 - rS.toNat)
    let p := partAddresses s ea 4 true (32 - rS.toNat)
    match p.2 with
    | none => advance (storeWords s ea vs)
    | some e => e.outcome (storeWords s ea (vs.take ((s.draw .stmwCount).toNat % (p.1.length + 1))))

/-- `lswi` (R524): trapped for emulation, whatever registers it names while MSR[TGPR] = 1 (DESIGN CHOICE, log entry 55). -/
def execLswi (_rD _rA : Reg) (_nb : BitVec 5) (s : State) : Out :=
  raise .emulation 0 s

/-- `lswx` (R525): trapped for emulation, whatever registers it names while MSR[TGPR] = 1 (DESIGN CHOICE, log entry 55). -/
def execLswx (_rD _rA _rB : Reg) (s : State) : Out :=
  raise .emulation 0 s

/-- `stswi` (R526): trapped for emulation, whatever registers it names while MSR[TGPR] = 1 (DESIGN CHOICE, log entry 55). -/
def execStswi (_rS _rA : Reg) (_nb : BitVec 5) (s : State) : Out :=
  raise .emulation 0 s

/-- `stswx` (R527): trapped for emulation, whatever registers it names while MSR[TGPR] = 1 (DESIGN CHOICE, log entry 55). -/
def execStswx (_rS _rA _rB : Reg) (s : State) : Out :=
  raise .emulation 0 s

/-- `lwarx` (R530). -/
def execLwarx (rD rA rB : Reg) (s : State) : Out :=
  let ea := eaX s rA rB
  let w := encode (.lwarx rD rA rB)
  withGprs s (rD :: namedOr0 rA ++ [rB]) <|
  proceed (guardWordAligned s w false ea) fun _ =>
  proceed (guardBigEndian s w false false ea) fun _ =>
  proceed (orStop s (translateData s ea false)) fun pa =>
    let r := loadAt s ea 4 [pa]
    advance { r.2.writeGpr rD (r.1.getD 0 0) with reserve := some (pa &&& granuleMask) }

/-- `stwcx.` (R531). -/
def execStwcxRc (rS rA rB : Reg) (rc : Bool) (s : State) : Out :=
  proceed (guardForm rc) fun _ =>
    let ea := eaX s rA rB
    let w := encode (.stwcxRc rS rA rB rc)
    withGprs s (rS :: namedOr0 rA ++ [rB]) <|
    proceed (guardWordAligned s w false ea) fun _ =>
    proceed (guardBigEndian s w false false ea) fun _ =>
    proceed (orStop s (translateData s ea true)) fun pa =>
      let ok := conditionalStoreSucceeds s pa
      let t := if ok then writePhys s pa 4 (s.readGpr rS) else s
      advance (setCrField { t with reserve := none } 0 (crBits false false ok (xerSO s.xer)))

/-- `lfs` (R538). -/
def execLfs (frD rA : Reg) (d : BitVec 16) (s : State) : Out :=
  loadSingleFp s (encode (.lfs frD rA d)) (namedOr0 rA) (eaD s rA d) frD none

/-- `lfsu` (R539). -/
def execLfsu (frD rA : Reg) (d : BitVec 16) (s : State) : Out :=
  proceed (guardForm (updateOk rA)) fun _ =>
    loadSingleFp s (encode (.lfsu frD rA d)) [rA] (eaDU s rA d) frD (some rA)

/-- `lfsx` (R540). -/
def execLfsx (frD rA rB : Reg) (s : State) : Out :=
  loadSingleFp s (encode (.lfsx frD rA rB)) (namedOr0 rA ++ [rB]) (eaX s rA rB) frD none

/-- `lfsux` (R545). -/
def execLfsux (frD rA rB : Reg) (s : State) : Out :=
  proceed (guardForm (updateOk rA)) fun _ =>
    loadSingleFp s (encode (.lfsux frD rA rB)) [rA, rB] (eaXU s rA rB) frD (some rA)

/-- `lfd` (R541). -/
def execLfd (frD rA : Reg) (d : BitVec 16) (s : State) : Out :=
  loadDoubleFp s (encode (.lfd frD rA d)) (namedOr0 rA) (eaD s rA d) frD none

/-- `lfdu` (R542). -/
def execLfdu (frD rA : Reg) (d : BitVec 16) (s : State) : Out :=
  proceed (guardForm (updateOk rA)) fun _ =>
    loadDoubleFp s (encode (.lfdu frD rA d)) [rA] (eaDU s rA d) frD (some rA)

/-- `lfdx` (R543). -/
def execLfdx (frD rA rB : Reg) (s : State) : Out :=
  loadDoubleFp s (encode (.lfdx frD rA rB)) (namedOr0 rA ++ [rB]) (eaX s rA rB) frD none

/-- `lfdux` (R544). -/
def execLfdux (frD rA rB : Reg) (s : State) : Out :=
  proceed (guardForm (updateOk rA)) fun _ =>
    loadDoubleFp s (encode (.lfdux frD rA rB)) [rA, rB] (eaXU s rA rB) frD (some rA)

/-- `stfs` (R550). -/
def execStfs (frS rA : Reg) (d : BitVec 16) (s : State) : Out :=
  storeSingleFp s (encode (.stfs frS rA d)) (namedOr0 rA) (eaD s rA d) frS none

/-- `stfsu` (R551). -/
def execStfsu (frS rA : Reg) (d : BitVec 16) (s : State) : Out :=
  proceed (guardForm (updateOk rA)) fun _ =>
    storeSingleFp s (encode (.stfsu frS rA d)) [rA] (eaDU s rA d) frS (some rA)

/-- `stfsx` (R552). -/
def execStfsx (frS rA rB : Reg) (s : State) : Out :=
  storeSingleFp s (encode (.stfsx frS rA rB)) (namedOr0 rA ++ [rB]) (eaX s rA rB) frS none

/-- `stfsux` (R553). -/
def execStfsux (frS rA rB : Reg) (s : State) : Out :=
  proceed (guardForm (updateOk rA)) fun _ =>
    storeSingleFp s (encode (.stfsux frS rA rB)) [rA, rB] (eaXU s rA rB) frS (some rA)

/-- `stfd` (R546). -/
def execStfd (frS rA : Reg) (d : BitVec 16) (s : State) : Out :=
  storeDoubleFp s (encode (.stfd frS rA d)) (namedOr0 rA) (eaD s rA d) frS none

/-- `stfdu` (R547). -/
def execStfdu (frS rA : Reg) (d : BitVec 16) (s : State) : Out :=
  proceed (guardForm (updateOk rA)) fun _ =>
    storeDoubleFp s (encode (.stfdu frS rA d)) [rA] (eaDU s rA d) frS (some rA)

/-- `stfdx` (R548). -/
def execStfdx (frS rA rB : Reg) (s : State) : Out :=
  storeDoubleFp s (encode (.stfdx frS rA rB)) (namedOr0 rA ++ [rB]) (eaX s rA rB) frS none

/-- `stfdux` (R549). -/
def execStfdux (frS rA rB : Reg) (s : State) : Out :=
  proceed (guardForm (updateOk rA)) fun _ =>
    storeDoubleFp s (encode (.stfdux frS rA rB)) [rA, rB] (eaXU s rA rB) frS (some rA)

/-- `stfiwx` (R554): not implemented, illegal. -/
def execStfiwx (_frS _rA _rB : Reg) (s : State) : Out :=
  raiseIllegal s

/-- `eciwx` (R560): not implemented, illegal. -/
def execEciwx (_rD _rA _rB : Reg) (s : State) : Out :=
  raiseIllegal s

/-- `ecowx` (R561): not implemented, illegal. -/
def execEcowx (_rS _rA _rB : Reg) (s : State) : Out :=
  raiseIllegal s

end Sys2Proof.Machine
end

