-- ==== Sys2Proof/Machine/FlowControl.lean ====
section
/-!
DEFINITION. Branches, system linkage, traps and condition-register logic (spec/44_flow_control.md R570 to R609).
-/
namespace Sys2Proof.Machine

/-- The trap-type program exception where the condition holds, else nothing (R590). -/
def trapIf (s : State) (cond : Bool) : Out := if cond then raise .program infoTrap s else advance s

/-- `b` (R571). -/
def execB (li : BitVec 24) (aa lk : Bool) (s : State) : Out :=
  .next (branchTo s true lk (if aa then sextLI li else s.cia + sextLI li))

/-- `bc` (R572, R573). -/
def execBc (bo bi : BitVec 5) (bd : BitVec 14) (aa lk : Bool) (s : State) : Out :=
  proceed (guardForm (boOk bo)) fun _ =>
    let target := if aa then sextBD bd else s.cia + sextBD bd
    .next (branchTo { s with ctr := branchCtr bo s.ctr } (branchTaken bo bi s.ctr s.cr) lk target)

/-- `bclr` (R575): the target is the old LR. -/
def execBclr (bo bi : BitVec 5) (lk : Bool) (s : State) : Out :=
  proceed (guardForm (boOk bo)) fun _ =>
    .next (branchTo { s with ctr := branchCtr bo s.ctr } (branchTaken bo bi s.ctr s.cr) lk s.lr)

/-- `bcctr` (R576). -/
def execBcctr (bo bi : BitVec 5) (lk : Bool) (s : State) : Out :=
  proceed (guardForm (bcctrOk bo)) fun _ =>
    .next (branchTo s (branchCondOk bo bi s.cr) lk s.ctr)

/-- `sc` (R580; spec/60_exceptions.md R763). -/
def execSc (s : State) : Out :=
  .next (takeException .systemCall (s.cia + 4) 0 s)

/-- `rfi` (spec/60_exceptions.md R746). -/
def execRfi (s : State) : Out :=
  proceed (guardSupervisor s) fun _ => .next (returnFromInterrupt s)

/-- `tw` (R591). -/
def execTw (trapOn : BitVec 5) (rA rB : Reg) (s : State) : Out :=
  withGprs s [rA, rB] (trapIf s (trapCondition trapOn (s.readGpr rA) (s.readGpr rB)))

/-- `twi` (R592). -/
def execTwi (trapOn : BitVec 5) (rA : Reg) (simm : BitVec 16) (s : State) : Out :=
  withGprs s [rA] (trapIf s (trapCondition trapOn (s.readGpr rA) (sext16 simm)))

/-- `crand` (R601). -/
def execCrand (crbD crbA crbB : BitVec 5) (s : State) : Out :=
  advance (setCrBit s crbD (ibmBit s.cr crbA.toNat && ibmBit s.cr crbB.toNat))

/-- `cror` (R602). -/
def execCror (crbD crbA crbB : BitVec 5) (s : State) : Out :=
  advance (setCrBit s crbD (ibmBit s.cr crbA.toNat || ibmBit s.cr crbB.toNat))

/-- `crxor` (R603). -/
def execCrxor (crbD crbA crbB : BitVec 5) (s : State) : Out :=
  advance (setCrBit s crbD (ibmBit s.cr crbA.toNat != ibmBit s.cr crbB.toNat))

/-- `crnand` (R604). -/
def execCrnand (crbD crbA crbB : BitVec 5) (s : State) : Out :=
  advance (setCrBit s crbD (!(ibmBit s.cr crbA.toNat && ibmBit s.cr crbB.toNat)))

/-- `crnor` (R605). -/
def execCrnor (crbD crbA crbB : BitVec 5) (s : State) : Out :=
  advance (setCrBit s crbD (!(ibmBit s.cr crbA.toNat || ibmBit s.cr crbB.toNat)))

/-- `creqv` (R606). -/
def execCreqv (crbD crbA crbB : BitVec 5) (s : State) : Out :=
  advance (setCrBit s crbD (ibmBit s.cr crbA.toNat == ibmBit s.cr crbB.toNat))

/-- `crandc` (R607). -/
def execCrandc (crbD crbA crbB : BitVec 5) (s : State) : Out :=
  advance (setCrBit s crbD (ibmBit s.cr crbA.toNat && !ibmBit s.cr crbB.toNat))

/-- `crorc` (R608). -/
def execCrorc (crbD crbA crbB : BitVec 5) (s : State) : Out :=
  advance (setCrBit s crbD (ibmBit s.cr crbA.toNat || !ibmBit s.cr crbB.toNat))

/-- `mcrf` (R609). -/
def execMcrf (crfD crfS : BitVec 3) (s : State) : Out :=
  advance (setCrField s crfD (field4 s.cr crfS))

end Sys2Proof.Machine
end

