-- ==== Sys2Proof/Machine/ProcessorControl.lean ====
section
/-!
DEFINITION. Moves to and from special registers, MSR and CR, synchronisation, `esa` and `dsa`
(spec/45_processor_control.md R620 to R652).
-/
namespace Sys2Proof.Machine

/-- The power mode an `mtmsr` of `v` selects (spec/60_exceptions.md R801): none where POW = 0 or HID0 selects none. -/
def selectPower (s : State) (v : Word) : Try (Option PowerState) :=
  if v &&& msrPOW == 0 then .ok none
  else
    match hid0Field (·.doze) s.hid0View, hid0Field (·.nap) s.hid0View, hid0Field (·.sleep) s.hid0View with
    | false, false, false => .ok none
    | true, false, false => .ok (some .doze)
    | false, true, false => .ok (some .nap)
    | false, false, true => .ok (some .sleep)
    | true, true, _ => .error (.fault .powerModeSelect)
    | true, _, true => .error (.fault .powerModeSelect)
    | _, true, true => .error (.fault .powerModeSelect)

/-- Every stale record through a stage function. -/
def mapStale (f : StaleWord → StalePhase) (s : State) : State :=
  { s with stale := s.stale.map fun e => { e with phase := f e } }

/-- `sync` completes an earlier push or invalidate (spec/20_memory.md R221). -/
def syncPhase (e : StaleWord) : StalePhase :=
  match e.phase with
  | .pushed => .pushedSynced
  | .invalidated => .invalidatedSynced
  | .stored | .pushedSynced | .invalidatedSynced => e.phase

/-- The MSR `esa` or `dsa` leaves, effective at once (spec/70_reset_and_hazards.md R841): no old PR or AP stays
possible. -/
def supervisorAccess (s : State) (msr : Word) : State :=
  { s with
    msr := msr
    windows := s.windows.map fun c => { c with pr := msr &&& msrPR != 0, ap := msr &&& msrAP != 0 } }

/-- `mtspr` (R620, R621). The program exceptions come before the refusal of GPR4 to GPR31 with MSR[TGPR] = 1, an order no
rule states (DESIGN CHOICE, log entry 55). -/
def execMtspr (rS : Reg) (spr : BitVec 10) (s : State) : Out :=
  match sprOfNumber spr.toNat with
  | none => invalidSpr s spr
  | some r =>
    match writeSpr s (s.readGpr rS) r with
    | none => invalidSpr s spr
    | some t =>
      if sprIsSupervisor spr && s.prView then raisePrivileged s else withGprs s [rS] (advance t)

/-- `mfspr` (R620, R622). The program exceptions come before the refusal of GPR4 to GPR31 with MSR[TGPR] = 1, an order no
rule states (DESIGN CHOICE, log entry 55). -/
def execMfspr (rD : Reg) (spr : BitVec 10) (s : State) : Out :=
  match sprOfNumber spr.toNat with
  | none => invalidSpr s spr
  | some r =>
    match readSpr s r with
    | none => invalidSpr s spr
    | some v =>
      if sprIsSupervisor spr && s.prView then raisePrivileged s else withGprs s [rD] (advance (s.writeGpr rD v))

/-- `mftb` (R625). -/
def execMftb (rD : Reg) (tbr : BitVec 10) (s : State) : Out :=
  if tbr.toNat = 268 then withGprs s [rD] (advance (s.writeGpr rD (timeBaseLow s)))
  else if tbr.toNat = 269 then withGprs s [rD] (advance (s.writeGpr rD (timeBaseHigh s)))
  else raiseIllegal s

/-- `mfmsr` (R630). -/
def execMfmsr (rD : Reg) (s : State) : Out :=
  proceed (guardSupervisor s) fun _ => withGprs s [rD] (advance (s.writeGpr rD s.msr))

/-- `mtmsr` (R631). One that completes while a mode selected before is not yet entered replaces that mode by what it selects
itself, which is none where POW = 0 or HID0 selects none (DESIGN CHOICE, log entry 25). -/
def execMtmsr (rS : Reg) (s : State) : Out :=
  proceed (guardSupervisor s) fun _ =>
    withGprs s [rS] <|
    proceed (selectPower s (s.readGpr rS)) fun p =>
      let t := openWindow s { s with msr := s.readGpr rS &&& msrImplemented, powPending := p }
      if !s.msrBit msrFE && fpTrapEnabled t.msr t.fpscr then
        .next (takeException .program (s.cia + 4) infoFpEnabled t)
      else advance t

/-- `mfcr` (R632). -/
def execMfcr (rD : Reg) (s : State) : Out :=
  withGprs s [rD] (advance (s.writeGpr rD s.cr))

/-- `mtcrf` (R633). -/
def execMtcrf (rS : Reg) (crm : BitVec 8) (s : State) : Out :=
  withGprs s [rS] (advance { s with cr := merge (fieldMask crm) (s.readGpr rS) s.cr })

/-- `mcrxr` (R634). -/
def execMcrxr (crfD : BitVec 3) (s : State) : Out :=
  advance { setCrField s crfD (field4 s.xer 0) with xer := s.xer &&& 0x0FFFFFFF }

/-- `sync` (R640). -/
def execSync (s : State) : Out :=
  advance (settleTlbs (mapStale syncPhase s))

/-- `isync` (R641). -/
def execIsync (s : State) : Out :=
  advance (closeWindows { s with stale := s.stale.filter fun e => e.phase != .invalidatedSynced })

/-- `eieio` (R642): a no-op for one core. -/
def execEieio (s : State) : Out :=
  advance s

/-- `esa` (R650). -/
def execEsa (s : State) : Out :=
  if esaPermitted s then
    advance (supervisorAccess { s with esasrr := s.msr &&& esaMask }
      ((esaNewApEe s.msr &&& ~~~msrPR) ||| msrSA))
  else raisePrivileged s

/-- `dsa` (R651). -/
def execDsa (s : State) : Out :=
  proceed (guardSupervisor s) fun _ =>
    advance (supervisorAccess s (merge esaMask s.esasrr s.msr))

end Sys2Proof.Machine
end

