-- ==== Sys2Proof/Machine/MemoryControl.lean ====
section
/-!
DEFINITION. Cache, segment-register and TLB instructions (spec/46_memory_control.md R670 to R698).
-/
namespace Sys2Proof.Machine

/-- A cache instruction: its block's address translated as a load or a store (R670). -/
def blockAccess (s : State) (w : Word) (named : List Reg) (ea : Word) (store : Bool) (k : Word → Out) : Out :=
  withGprs s named <|
  proceed (guardBigEndian s w false false ea) fun _ =>
  proceed (orStop s (translateData s ea store)) k

/-- `dcbst` and `dcbf` push the stores to a block (spec/20_memory.md R221). -/
def pushPhase (block : Word) (e : StaleWord) : StalePhase :=
  if blockAlign e.addr = block then
    match e.phase with
    | .stored => .pushed
    | .pushed | .pushedSynced | .invalidated | .invalidatedSynced => e.phase
  else e.phase

/-- `icbi` invalidates a block whose stores are in memory (R221, R677). -/
def invalidatePhase (block : Word) (e : StaleWord) : StalePhase :=
  if blockAlign e.addr = block then
    match e.phase with
    | .pushedSynced => .invalidated
    | .stored | .pushed | .invalidated | .invalidatedSynced => e.phase
  else e.phase

/-- A record whose store may still be lost by `dcbi`: neither in memory for good nor settled by an earlier `dcbi`
(R674). Another master's snooped access to the block leaves it so (DESIGN CHOICE, log entry 27). -/
def notPushed (block : Word) (e : StaleWord) : Bool :=
  blockAlign e.addr == block && !e.discarded && (e.phase == .stored || e.phase == .pushed)

/-- The bytes that unsnooped copies of an address may still hold (spec/60_exceptions.md R803). -/
def cachedBytes (s : State) (a : Word) : List Byte := (s.cached.filter fun e => e.1 = a.toNat).map (·.2)

/-- The words of a block by its 32 bytes. -/
def blockWords (byte : Nat → Byte) : List Word :=
  (List.range 8).map fun j => wordOfBE ((List.range 4).map fun k => byte (4 * j + k))

/-- Byte k of a block after `dcbi`: its last stored value or one that memory or a copy held before (R674, R225). -/
def discardedByte (s : State) (block : Word) (k : Nat) : Byte :=
  let a := block + BitVec.ofNat 32 k
  let olds := (s.stale.filter fun e => notPushed block e && e.addr == wordAlign a).map
    fun e => e.old.extractLsb' (8 * (3 - k % 4)) 8
  s.drawFrom (.dcbiByte k) (readByte s a) (olds ++ cachedBytes s a)

/-- The records of a block after `dcbi`: its bytes are settled, whatever becomes of the records' stages later; the
instruction side still needs the whole of R221 (log entry 27). -/
def markDiscarded (block : Word) (s : State) : State :=
  { s with stale := s.stale.map fun e => { e with discarded := e.discarded || blockAlign e.addr == block } }

/-- `dcbi` on a block: its bytes, after which nothing of the block is left to push (R674). -/
def discardBlock (s : State) (block : Word) : State :=
  markDiscarded block (writeBlock s block (blockWords (discardedByte s block)))

/-- Byte k of a block once its copies are flushed: what memory holds or what an unsnooped copy held (spec/60_exceptions.md
R803). -/
def settledByte (s : State) (block : Word) (k : Nat) : Byte :=
  let a := block + BitVec.ofNat 32 k
  s.drawFrom (.settledByte k) (readByte s a) (cachedBytes s a)

/-- A block with no copy left that differs from memory (spec/60_exceptions.md R803; log entry 53). -/
def settleBlock (s : State) (block : Word) : State :=
  if s.cached.any (fun e => blockAlign (BitVec.ofNat 32 e.1) == block) then
    writeBlock s block (blockWords (settledByte s block))
  else s

/-- What reading a segment register gives: T, Ks, Kp, N and VSID as stored, the reserved bits 4 to 7 any value
(spec/10_state.md R63; A17, log entry 42). -/
def readSr (s : State) (v : Word) : Word := s.readBack 0xF0FFFFFF v

/-- `SR[n] <- v`: fetches may still see the old value (R690). -/
def writeSr (s : State) (n : BitVec 4) (v : Word) : State :=
  openWindow s { s with sr := s.sr.set n.toNat v n.isLt }

/-- Both ways of a set made invalid (R694). -/
def invalidateSet (tlb : Vector TlbEntry 32) (set : BitVec 4) : Vector TlbEntry 32 :=
  let i0 := tlbIndex set false
  let i1 := tlbIndex set true
  (tlb.set i0.val { tlb.get i0 with valid := false } i0.isLt).set i1.val { tlb.get i1 with valid := false } i1.isLt

/-- The entry `tlbld` and `tlbli` write: set EA<16..19>, or the set of protection-only mode (spec/20_memory.md R182; log
entry 16), way SRR1<14> (R696). -/
def tlbLoadPlace (s : State) (ea : Word) : Fin 32 :=
  tlbIndex (if protectionOnly s then Config.poFormat.setOf ea else tlbSet ea) (ibmBit s.srr1 14)

/-- The entry loaded: VSID from bits 1 to 24 of DCMP or ICMP, the page of rB, RPA (R696). -/
def loadedEntry (s : State) (cmp ea : Word) : TlbEntry :=
  { valid := true, vsid := cmp.extractLsb' 7 24, page := ea.extractLsb' 12 20, pte1 := s.rpa }

/-- `dcbz` (R671): alignment where the mapping is W or I in virtual mode, before protection (R781). -/
def execDcbz (rA rB : Reg) (s : State) : Out :=
  let ea := eaX s rA rB
  withGprs s (namedOr0 rA ++ [rB]) <|
  proceed (guardBigEndian s (encode (.dcbz rA rB)) false false ea) fun _ =>
  proceed (orStop s (dataMapping s ea true)) fun m =>
    if m.wi then takeAlignment s (encode (.dcbz rA rB)) false false ea
    else proceed (orStop s (checkMapping ea true m)) fun pa =>
      advance (writeBlock s (blockAlign pa) (List.replicate 8 0))

/-- `dcbst` (R672). -/
def execDcbst (rA rB : Reg) (s : State) : Out :=
  blockAccess s (encode (.dcbst rA rB)) (namedOr0 rA ++ [rB]) (eaX s rA rB) false fun pa =>
    advance (mapStale (pushPhase (blockAlign pa)) s)

/-- `dcbf` (R673). -/
def execDcbf (rA rB : Reg) (s : State) : Out :=
  blockAccess s (encode (.dcbf rA rB)) (namedOr0 rA ++ [rB]) (eaX s rA rB) false fun pa =>
    advance (mapStale (pushPhase (blockAlign pa)) (settleBlock s (blockAlign pa)))

/-- `dcbi` (R674). -/
def execDcbi (rA rB : Reg) (s : State) : Out :=
  proceed (guardSupervisor s) fun _ =>
    blockAccess s (encode (.dcbi rA rB)) (namedOr0 rA ++ [rB]) (eaX s rA rB) true fun pa =>
      advance (discardBlock s (blockAlign pa))

/-- `dcbt` (R675): a hint, no operation. -/
def execDcbt (rA rB : Reg) (s : State) : Out :=
  withGprs s (namedOr0 rA ++ [rB]) (advance s)

/-- `dcbtst` (R676): a hint, no operation. -/
def execDcbtst (rA rB : Reg) (s : State) : Out :=
  withGprs s (namedOr0 rA ++ [rB]) (advance s)

/-- `icbi` (R677). -/
def execIcbi (rA rB : Reg) (s : State) : Out :=
  blockAccess s (encode (.icbi rA rB)) (namedOr0 rA ++ [rB]) (eaX s rA rB) false fun pa =>
    advance (mapStale (invalidatePhase (blockAlign pa)) s)

/-- `mtsr` (R690). -/
def execMtsr (rS : Reg) (srn : BitVec 4) (s : State) : Out :=
  proceed (guardSupervisor s) fun _ =>
    withGprs s [rS] (advance (writeSr s srn (s.readGpr rS)))

/-- `mtsrin` (R691). -/
def execMtsrin (rS rB : Reg) (s : State) : Out :=
  proceed (guardSupervisor s) fun _ =>
    withGprs s [rS, rB] (advance (writeSr s ((s.readGpr rB).extractLsb' 28 4) (s.readGpr rS)))

/-- `mfsr` (R692). -/
def execMfsr (rD : Reg) (srn : BitVec 4) (s : State) : Out :=
  proceed (guardSupervisor s) fun _ =>
    withGprs s [rD] (advance (s.writeGpr rD (readSr s (s.sr.get srn.toFin))))

/-- `mfsrin` (R693). -/
def execMfsrin (rD rB : Reg) (s : State) : Out :=
  proceed (guardSupervisor s) fun _ =>
    withGprs s [rD, rB] (advance (s.writeGpr rD (readSr s (s.srFor (s.readGpr rB)))))

/-- `tlbie` (R694): both ways of the set, in both TLBs. -/
def execTlbie (rB : Reg) (s : State) : Out :=
  proceed (guardSupervisor s) fun _ =>
    withGprs s [rB] <|
      let set := tlbSet (s.readGpr rB)
      advance (openWindow s { s with itlb := invalidateSet s.itlb set, dtlb := invalidateSet s.dtlb set })

/-- `tlbsync` (R695): a privileged no-op for one core. -/
def execTlbsync (s : State) : Out :=
  proceed (guardSupervisor s) fun _ => advance s

/-- `tlbld` (R696). -/
def execTlbld (rB : Reg) (s : State) : Out :=
  proceed (guardSupervisor s) fun _ =>
    withGprs s [rB] <|
      let i := tlbLoadPlace s (s.readGpr rB)
      advance (openWindow s { s with dtlb := s.dtlb.set i.val (loadedEntry s (dcmp s) (s.readGpr rB)) i.isLt })

/-- `tlbli` (R697). -/
def execTlbli (rB : Reg) (s : State) : Out :=
  proceed (guardSupervisor s) fun _ =>
    withGprs s [rB] <|
      let i := tlbLoadPlace s (s.readGpr rB)
      advance (openWindow s { s with itlb := s.itlb.set i.val (loadedEntry s (icmp s) (s.readGpr rB)) i.isLt })

/-- `tlbia` (R698): not implemented, illegal. -/
def execTlbia (s : State) : Out :=
  raiseIllegal s

end Sys2Proof.Machine
end

