-- ==== Sys2Proof/Machine/Boundary.lean ====
section
/-!
DEFINITION. What happens between instructions: the environment's events and ticks, hard reset, and which condition is
taken at a boundary (spec/60_exceptions.md R780, R782, R790 to R803, R820; spec/70_reset_and_hazards.md R830).
-/
namespace Sys2Proof.Machine

/-- Hard reset of a running machine: the state after reset with memory and its map, the input levels and the model's own
inputs as they are, and with the words and bytes the caches may still hold (R830; log entry 33). -/
def hardReset (s : State) : State :=
  { State.reset with
    mem := s.mem
    map := s.map
    cached := s.cached
    stale := s.stale
    pins := s.pins
    env := s.env
    amid := s.amid
    draws := s.draws }

/- The tick (R790: time base, watchdog, decrementer). -/

/-- The time base counts: TBEN asserted and not asleep (R792, R800). -/
def timeBaseRuns (s : State) : Bool := s.pins.tben && s.power != .sleep

/-- The decrementer counts (R791, R800, `NAP_DEC_TICKS`). -/
def decrementerRuns (s : State) : Bool := timeBaseRuns s && (s.power != .nap || napDecTicks)

/-- A carry out of the selected time-base bit (R794). -/
def watchdogExpires (wp : BitVec 2) (old new : BitVec 64) : Bool :=
  old.getLsbD (Config.wdtBit wp).val && !new.getLsbD (Config.wdtBit wp).val

/-- An expiry with the watchdog enabled (R794). -/
def watchdogExpiry (s : State) : State :=
  if !s.tcr.we then s
  else if !s.tcr.ws then { s with wdtPending := true, tcr := { s.tcr with ws := true } }
  else if s.tcr.wrc then { s with wdtResetPending := true }
  else { s with wdtPending := true }

/-- The time base's part of a tick, with the watchdog it feeds (R792, R794). -/
def tickTimeBase (s : State) : State :=
  if timeBaseRuns s then
    let t := { s with tb := s.tb + 1 }
    if watchdogExpires s.tcr.wp s.tb t.tb then watchdogExpiry t else t
  else s

/-- The decrementer's part of a tick (R791). -/
def tickDecrementer (s : State) : State := if decrementerRuns s then writeDec s (s.dec - 1) else s

/-- One tick (R790). -/
def tick (s : State) : State := tickDecrementer (tickTimeBase s)

/- The environment (R820). -/

/-- One event of the environment (spec/10_state.md R104). Hard reset holds while HRESET is asserted and once more at its
negation, so that no condition set meanwhile outlives it (R830; DESIGN CHOICE, log entry 33). -/
def applyEvent (s : State) (e : Event) : State :=
  match e with
  | .tick => tick s
  | .int level => { s with pins := { s.pins with int := level } }
  | .smi level => { s with pins := { s.pins with smi := level } }
  | .tben level => { s with pins := { s.pins with tben := level } }
  | .hreset level =>
    let t := { s with pins := { s.pins with hreset := level } }
    if level || s.pins.hreset then hardReset t else t
  | .sreset => { s with sresetPending := true }
  | .mcp => { s with mcheckPending := true }
  | .tea => { s with mcheckPending := true }
  | .bus e => applyBus s e

/-- A TEA that a transaction received is recognised at this boundary or at a later one (R752; log entry 28). -/
def recogniseTea (s : State) : State :=
  if s.teaUnrecognised && s.drawBit .teaRecognised then { s with teaUnrecognised := false, mcheckPending := true } else s

/-- The start of a step: the next batch of events, a new place to draw free values at, no exception taken yet. -/
def beginStep (s : State) : State :=
  recogniseTea
    (s.env.headD [] |>.foldl applyEvent { s with env := s.env.tail, draws := s.draws + 1, taken := none })

/- Interrupts (R759 to R764, R780 items 4 to 7, R802). -/

/-- The condition of a maskable interrupt stands: an input level, or a latch (R759 to R764). A latch set before sleep
stands there too (DEDUCED from R764 and R802, log entry 57). -/
def interruptStands (s : State) : Exception → Bool
  | .smi => s.pins.smi
  | .external => s.pins.int
  | .decrementer => s.decPending
  | .watchdog => s.wdtPending
  | .softReset | .machineCheck | .dsi | .isi | .alignment | .program | .fpUnavailable | .systemCall | .trace | .instrMiss
  | .dataLoadMiss | .dataStoreMiss | .iabrMatch | .emulation => false

/-- The maskable interrupts that are takeable, in the order of R780. -/
def takeable (s : State) : List Exception :=
  if s.msrBit msrEE then [.smi, .external, .decrementer, .watchdog].filter (interruptStands s) else []

/-- A takeable interrupt may be put off by one boundary, in full power and not twice in a row (R782, D35; log entry
24). -/
def putOff (s : State) (e : Exception) : Bool :=
  s.power == .full && !s.deferred.contains e && s.drawBit (.deferInterrupt e.offset)

/-- The interrupt taken at this boundary: the first takeable one that is not put off. -/
def pendingInterrupt (s : State) : Option Exception := (takeable s).find? fun e => !putOff s e

/-- Take an asynchronous exception: SRR0 is the first instruction not executed (R742). -/
def takeAsync (e : Exception) (s : State) : State := takeException e s.cia 0 s

/-- Recognise a machine check condition (R752). A core that checkstops in doze, nap or sleep keeps that power state, a
checkstop being no exception entry (R107, R802, R820; DESIGN CHOICE, log entry 46). -/
def machineCheck (s : State) : State :=
  let t := { s with mcheckPending := false }
  if s.msrBit msrME then takeAsync .machineCheck t else { t with checkstop := true }

/-- Take the soft reset of a second watchdog expiry (R795). -/
def watchdogReset (s : State) : State :=
  takeAsync .softReset { s with wdtResetPending := false, wdtPending := false, tcr := { s.tcr with ws := false } }

/-- What a boundary comes to (R820): a state the step ends in, or the instruction at CIA in a state. -/
inductive Boundary
  | ends (s : State)
  | runs (s : State)

/-- A boundary at which no exception is taken: waiting in a static mode, entering one, or the instruction at CIA
(R801, R802, R820). -/
def atInstruction (s : State) : Boundary :=
  if s.power ≠ .full then .ends s
  else
    match s.powPending with
    | none => .runs s
    | some p => if s.drawBit .powerEntry then .ends { s with power := p, powPending := none } else .runs s

/-- The order of recognition at one boundary (R780, R820). Where an SRESET edge and a second watchdog expiry are both
pending (one item of R780, R105) two soft resets follow one another, SRESET's first (DESIGN CHOICE, log entry 56). Where
every takeable interrupt is put off the instruction at CIA runs, and no static mode is entered (R782; log entry 24). -/
def atBoundary (s : State) : Boundary :=
  if s.pins.hreset then .ends (hardReset s)
  else if s.checkstop then .ends s
  else if s.mcheckPending then .ends (machineCheck s)
  else if s.sresetPending then .ends (takeAsync .softReset { s with sresetPending := false })
  else if s.wdtResetPending then .ends (watchdogReset s)
  else
    match pendingInterrupt s with
    | some e => .ends (takeAsync e s)
    | none =>
      let t := { s with deferred := takeable s }
      if t.deferred.isEmpty then atInstruction t else .runs t

end Sys2Proof.Machine
end

