-- ==== Sys2Proof/Machine/Dispatch.lean ====
section
/-!
DEFINITION. The meaning of every instruction, one arm per constructor.
-/
namespace Sys2Proof.Machine

def exec (i : Instr) (s : State) : Host.Outcome State Fault Refusal :=
  match i with
  | .twi trapOn rA simm => Sys2Proof.Machine.execTwi trapOn rA simm s
  | .mulli rD rA simm => Sys2Proof.Machine.execMulli rD rA simm s
  | .subfic rD rA simm => Sys2Proof.Machine.execSubfic rD rA simm s
  | .addic rD rA simm => Sys2Proof.Machine.execAddic rD rA simm s
  | .addicRc rD rA simm => Sys2Proof.Machine.execAddicRc rD rA simm s
  | .addi rD rA simm => Sys2Proof.Machine.execAddi rD rA simm s
  | .addis rD rA simm => Sys2Proof.Machine.execAddis rD rA simm s
  | .ori rS rA uimm => Sys2Proof.Machine.execOri rS rA uimm s
  | .oris rS rA uimm => Sys2Proof.Machine.execOris rS rA uimm s
  | .xori rS rA uimm => Sys2Proof.Machine.execXori rS rA uimm s
  | .xoris rS rA uimm => Sys2Proof.Machine.execXoris rS rA uimm s
  | .andiRc rS rA uimm => Sys2Proof.Machine.execAndiRc rS rA uimm s
  | .andisRc rS rA uimm => Sys2Proof.Machine.execAndisRc rS rA uimm s
  | .cmpli crfD l rA uimm => Sys2Proof.Machine.execCmpli crfD l rA uimm s
  | .cmpi crfD l rA simm => Sys2Proof.Machine.execCmpi crfD l rA simm s
  | .bc bo bi bd aa lk => Sys2Proof.Machine.execBc bo bi bd aa lk s
  | .sc => Sys2Proof.Machine.execSc s
  | .b li aa lk => Sys2Proof.Machine.execB li aa lk s
  | .mcrf crfD crfS => Sys2Proof.Machine.execMcrf crfD crfS s
  | .bclr bo bi lk => Sys2Proof.Machine.execBclr bo bi lk s
  | .rfi => Sys2Proof.Machine.execRfi s
  | .isync => Sys2Proof.Machine.execIsync s
  | .bcctr bo bi lk => Sys2Proof.Machine.execBcctr bo bi lk s
  | .crnor crbD crbA crbB => Sys2Proof.Machine.execCrnor crbD crbA crbB s
  | .crandc crbD crbA crbB => Sys2Proof.Machine.execCrandc crbD crbA crbB s
  | .crxor crbD crbA crbB => Sys2Proof.Machine.execCrxor crbD crbA crbB s
  | .crnand crbD crbA crbB => Sys2Proof.Machine.execCrnand crbD crbA crbB s
  | .crand crbD crbA crbB => Sys2Proof.Machine.execCrand crbD crbA crbB s
  | .creqv crbD crbA crbB => Sys2Proof.Machine.execCreqv crbD crbA crbB s
  | .crorc crbD crbA crbB => Sys2Proof.Machine.execCrorc crbD crbA crbB s
  | .cror crbD crbA crbB => Sys2Proof.Machine.execCror crbD crbA crbB s
  | .rlwimi rS rA sh mb me rc => Sys2Proof.Machine.execRlwimi rS rA sh mb me rc s
  | .rlwinm rS rA sh mb me rc => Sys2Proof.Machine.execRlwinm rS rA sh mb me rc s
  | .rlwnm rS rA rB mb me rc => Sys2Proof.Machine.execRlwnm rS rA rB mb me rc s
  | .subfc rD rA rB oe rc => Sys2Proof.Machine.execSubfc rD rA rB oe rc s
  | .addc rD rA rB oe rc => Sys2Proof.Machine.execAddc rD rA rB oe rc s
  | .subf rD rA rB oe rc => Sys2Proof.Machine.execSubf rD rA rB oe rc s
  | .neg rD rA oe rc => Sys2Proof.Machine.execNeg rD rA oe rc s
  | .subfe rD rA rB oe rc => Sys2Proof.Machine.execSubfe rD rA rB oe rc s
  | .adde rD rA rB oe rc => Sys2Proof.Machine.execAdde rD rA rB oe rc s
  | .subfze rD rA oe rc => Sys2Proof.Machine.execSubfze rD rA oe rc s
  | .addze rD rA oe rc => Sys2Proof.Machine.execAddze rD rA oe rc s
  | .subfme rD rA oe rc => Sys2Proof.Machine.execSubfme rD rA oe rc s
  | .addme rD rA oe rc => Sys2Proof.Machine.execAddme rD rA oe rc s
  | .mullw rD rA rB oe rc => Sys2Proof.Machine.execMullw rD rA rB oe rc s
  | .add rD rA rB oe rc => Sys2Proof.Machine.execAdd rD rA rB oe rc s
  | .divwu rD rA rB oe rc => Sys2Proof.Machine.execDivwu rD rA rB oe rc s
  | .divw rD rA rB oe rc => Sys2Proof.Machine.execDivw rD rA rB oe rc s
  | .mulhwu rD rA rB rc => Sys2Proof.Machine.execMulhwu rD rA rB rc s
  | .mulhw rD rA rB rc => Sys2Proof.Machine.execMulhw rD rA rB rc s
  | .cmp crfD l rA rB => Sys2Proof.Machine.execCmp crfD l rA rB s
  | .cmpl crfD l rA rB => Sys2Proof.Machine.execCmpl crfD l rA rB s
  | .tw trapOn rA rB => Sys2Proof.Machine.execTw trapOn rA rB s
  | .slw rS rA rB rc => Sys2Proof.Machine.execSlw rS rA rB rc s
  | .and rS rA rB rc => Sys2Proof.Machine.execAnd rS rA rB rc s
  | .andc rS rA rB rc => Sys2Proof.Machine.execAndc rS rA rB rc s
  | .nor rS rA rB rc => Sys2Proof.Machine.execNor rS rA rB rc s
  | .eqv rS rA rB rc => Sys2Proof.Machine.execEqv rS rA rB rc s
  | .xor rS rA rB rc => Sys2Proof.Machine.execXor rS rA rB rc s
  | .orc rS rA rB rc => Sys2Proof.Machine.execOrc rS rA rB rc s
  | .or rS rA rB rc => Sys2Proof.Machine.execOr rS rA rB rc s
  | .nand rS rA rB rc => Sys2Proof.Machine.execNand rS rA rB rc s
  | .srw rS rA rB rc => Sys2Proof.Machine.execSrw rS rA rB rc s
  | .sraw rS rA rB rc => Sys2Proof.Machine.execSraw rS rA rB rc s
  | .srawi rS rA sh rc => Sys2Proof.Machine.execSrawi rS rA sh rc s
  | .cntlzw rS rA rc => Sys2Proof.Machine.execCntlzw rS rA rc s
  | .extsh rS rA rc => Sys2Proof.Machine.execExtsh rS rA rc s
  | .extsb rS rA rc => Sys2Proof.Machine.execExtsb rS rA rc s
  | .mfcr rD => Sys2Proof.Machine.execMfcr rD s
  | .mfmsr rD => Sys2Proof.Machine.execMfmsr rD s
  | .mtcrf rS crm => Sys2Proof.Machine.execMtcrf rS crm s
  | .mtmsr rS => Sys2Proof.Machine.execMtmsr rS s
  | .mfspr rD spr => Sys2Proof.Machine.execMfspr rD spr s
  | .mftb rD tbr => Sys2Proof.Machine.execMftb rD tbr s
  | .mtspr rS spr => Sys2Proof.Machine.execMtspr rS spr s
  | .mcrxr crfD => Sys2Proof.Machine.execMcrxr crfD s
  | .lwzx rD rA rB => Sys2Proof.Machine.execLwzx rD rA rB s
  | .lwzux rD rA rB => Sys2Proof.Machine.execLwzux rD rA rB s
  | .lbzx rD rA rB => Sys2Proof.Machine.execLbzx rD rA rB s
  | .lbzux rD rA rB => Sys2Proof.Machine.execLbzux rD rA rB s
  | .lhzx rD rA rB => Sys2Proof.Machine.execLhzx rD rA rB s
  | .lhzux rD rA rB => Sys2Proof.Machine.execLhzux rD rA rB s
  | .lhax rD rA rB => Sys2Proof.Machine.execLhax rD rA rB s
  | .lhaux rD rA rB => Sys2Proof.Machine.execLhaux rD rA rB s
  | .stwx rS rA rB => Sys2Proof.Machine.execStwx rS rA rB s
  | .stwux rS rA rB => Sys2Proof.Machine.execStwux rS rA rB s
  | .stbx rS rA rB => Sys2Proof.Machine.execStbx rS rA rB s
  | .stbux rS rA rB => Sys2Proof.Machine.execStbux rS rA rB s
  | .sthx rS rA rB => Sys2Proof.Machine.execSthx rS rA rB s
  | .sthux rS rA rB => Sys2Proof.Machine.execSthux rS rA rB s
  | .lwbrx rD rA rB => Sys2Proof.Machine.execLwbrx rD rA rB s
  | .lhbrx rD rA rB => Sys2Proof.Machine.execLhbrx rD rA rB s
  | .stwbrx rS rA rB => Sys2Proof.Machine.execStwbrx rS rA rB s
  | .sthbrx rS rA rB => Sys2Proof.Machine.execSthbrx rS rA rB s
  | .lwarx rD rA rB => Sys2Proof.Machine.execLwarx rD rA rB s
  | .stwcxRc rS rA rB rc => Sys2Proof.Machine.execStwcxRc rS rA rB rc s
  | .lswx rD rA rB => Sys2Proof.Machine.execLswx rD rA rB s
  | .lswi rD rA nb => Sys2Proof.Machine.execLswi rD rA nb s
  | .stswx rS rA rB => Sys2Proof.Machine.execStswx rS rA rB s
  | .stswi rS rA nb => Sys2Proof.Machine.execStswi rS rA nb s
  | .lfsx frD rA rB => Sys2Proof.Machine.execLfsx frD rA rB s
  | .lfsux frD rA rB => Sys2Proof.Machine.execLfsux frD rA rB s
  | .lfdx frD rA rB => Sys2Proof.Machine.execLfdx frD rA rB s
  | .lfdux frD rA rB => Sys2Proof.Machine.execLfdux frD rA rB s
  | .stfsx frS rA rB => Sys2Proof.Machine.execStfsx frS rA rB s
  | .stfsux frS rA rB => Sys2Proof.Machine.execStfsux frS rA rB s
  | .stfdx frS rA rB => Sys2Proof.Machine.execStfdx frS rA rB s
  | .stfdux frS rA rB => Sys2Proof.Machine.execStfdux frS rA rB s
  | .stfiwx frS rA rB => Sys2Proof.Machine.execStfiwx frS rA rB s
  | .eciwx rD rA rB => Sys2Proof.Machine.execEciwx rD rA rB s
  | .ecowx rS rA rB => Sys2Proof.Machine.execEcowx rS rA rB s
  | .dcbst rA rB => Sys2Proof.Machine.execDcbst rA rB s
  | .dcbf rA rB => Sys2Proof.Machine.execDcbf rA rB s
  | .dcbtst rA rB => Sys2Proof.Machine.execDcbtst rA rB s
  | .dcbt rA rB => Sys2Proof.Machine.execDcbt rA rB s
  | .dcbi rA rB => Sys2Proof.Machine.execDcbi rA rB s
  | .icbi rA rB => Sys2Proof.Machine.execIcbi rA rB s
  | .dcbz rA rB => Sys2Proof.Machine.execDcbz rA rB s
  | .mtsr rS srn => Sys2Proof.Machine.execMtsr rS srn s
  | .mtsrin rS rB => Sys2Proof.Machine.execMtsrin rS rB s
  | .mfsr rD srn => Sys2Proof.Machine.execMfsr rD srn s
  | .mfsrin rD rB => Sys2Proof.Machine.execMfsrin rD rB s
  | .tlbie rB => Sys2Proof.Machine.execTlbie rB s
  | .tlbia => Sys2Proof.Machine.execTlbia s
  | .tlbsync => Sys2Proof.Machine.execTlbsync s
  | .esa => Sys2Proof.Machine.execEsa s
  | .dsa => Sys2Proof.Machine.execDsa s
  | .sync => Sys2Proof.Machine.execSync s
  | .eieio => Sys2Proof.Machine.execEieio s
  | .tlbld rB => Sys2Proof.Machine.execTlbld rB s
  | .tlbli rB => Sys2Proof.Machine.execTlbli rB s
  | .lwz rD rA d => Sys2Proof.Machine.execLwz rD rA d s
  | .lwzu rD rA d => Sys2Proof.Machine.execLwzu rD rA d s
  | .lbz rD rA d => Sys2Proof.Machine.execLbz rD rA d s
  | .lbzu rD rA d => Sys2Proof.Machine.execLbzu rD rA d s
  | .stw rS rA d => Sys2Proof.Machine.execStw rS rA d s
  | .stwu rS rA d => Sys2Proof.Machine.execStwu rS rA d s
  | .stb rS rA d => Sys2Proof.Machine.execStb rS rA d s
  | .stbu rS rA d => Sys2Proof.Machine.execStbu rS rA d s
  | .lhz rD rA d => Sys2Proof.Machine.execLhz rD rA d s
  | .lhzu rD rA d => Sys2Proof.Machine.execLhzu rD rA d s
  | .lha rD rA d => Sys2Proof.Machine.execLha rD rA d s
  | .lhau rD rA d => Sys2Proof.Machine.execLhau rD rA d s
  | .sth rS rA d => Sys2Proof.Machine.execSth rS rA d s
  | .sthu rS rA d => Sys2Proof.Machine.execSthu rS rA d s
  | .lmw rD rA d => Sys2Proof.Machine.execLmw rD rA d s
  | .stmw rS rA d => Sys2Proof.Machine.execStmw rS rA d s
  | .lfs frD rA d => Sys2Proof.Machine.execLfs frD rA d s
  | .lfsu frD rA d => Sys2Proof.Machine.execLfsu frD rA d s
  | .lfd frD rA d => Sys2Proof.Machine.execLfd frD rA d s
  | .lfdu frD rA d => Sys2Proof.Machine.execLfdu frD rA d s
  | .stfs frS rA d => Sys2Proof.Machine.execStfs frS rA d s
  | .stfsu frS rA d => Sys2Proof.Machine.execStfsu frS rA d s
  | .stfd frS rA d => Sys2Proof.Machine.execStfd frS rA d s
  | .stfdu frS rA d => Sys2Proof.Machine.execStfdu frS rA d s
  | .fdivs frD frA frB rc => Sys2Proof.Machine.execFdivs frD frA frB rc s
  | .fsubs frD frA frB rc => Sys2Proof.Machine.execFsubs frD frA frB rc s
  | .fadds frD frA frB rc => Sys2Proof.Machine.execFadds frD frA frB rc s
  | .fres frD frB rc => Sys2Proof.Machine.execFres frD frB rc s
  | .fmuls frD frA frC rc => Sys2Proof.Machine.execFmuls frD frA frC rc s
  | .fmsubs frD frA frB frC rc => Sys2Proof.Machine.execFmsubs frD frA frB frC rc s
  | .fmadds frD frA frB frC rc => Sys2Proof.Machine.execFmadds frD frA frB frC rc s
  | .fnmsubs frD frA frB frC rc => Sys2Proof.Machine.execFnmsubs frD frA frB frC rc s
  | .fnmadds frD frA frB frC rc => Sys2Proof.Machine.execFnmadds frD frA frB frC rc s
  | .fsqrts frD frB rc => Sys2Proof.Machine.execFsqrts frD frB rc s
  | .fdiv frD frA frB rc => Sys2Proof.Machine.execFdiv frD frA frB rc s
  | .fsub frD frA frB rc => Sys2Proof.Machine.execFsub frD frA frB rc s
  | .fadd frD frA frB rc => Sys2Proof.Machine.execFadd frD frA frB rc s
  | .fmul frD frA frC rc => Sys2Proof.Machine.execFmul frD frA frC rc s
  | .fmsub frD frA frB frC rc => Sys2Proof.Machine.execFmsub frD frA frB frC rc s
  | .fmadd frD frA frB frC rc => Sys2Proof.Machine.execFmadd frD frA frB frC rc s
  | .fnmsub frD frA frB frC rc => Sys2Proof.Machine.execFnmsub frD frA frB frC rc s
  | .fnmadd frD frA frB frC rc => Sys2Proof.Machine.execFnmadd frD frA frB frC rc s
  | .fsel frD frA frB frC rc => Sys2Proof.Machine.execFsel frD frA frB frC rc s
  | .fsqrt frD frB rc => Sys2Proof.Machine.execFsqrt frD frB rc s
  | .frsqrte frD frB rc => Sys2Proof.Machine.execFrsqrte frD frB rc s
  | .fcmpu crfD frA frB => Sys2Proof.Machine.execFcmpu crfD frA frB s
  | .fcmpo crfD frA frB => Sys2Proof.Machine.execFcmpo crfD frA frB s
  | .frsp frD frB rc => Sys2Proof.Machine.execFrsp frD frB rc s
  | .fctiw frD frB rc => Sys2Proof.Machine.execFctiw frD frB rc s
  | .fctiwz frD frB rc => Sys2Proof.Machine.execFctiwz frD frB rc s
  | .fneg frD frB rc => Sys2Proof.Machine.execFneg frD frB rc s
  | .fmr frD frB rc => Sys2Proof.Machine.execFmr frD frB rc s
  | .fnabs frD frB rc => Sys2Proof.Machine.execFnabs frD frB rc s
  | .fabs frD frB rc => Sys2Proof.Machine.execFabs frD frB rc s
  | .mtfsb1 crbD rc => Sys2Proof.Machine.execMtfsb1 crbD rc s
  | .mtfsb0 crbD rc => Sys2Proof.Machine.execMtfsb0 crbD rc s
  | .mcrfs crfD crfS => Sys2Proof.Machine.execMcrfs crfD crfS s
  | .mtfsfi crfD imm rc => Sys2Proof.Machine.execMtfsfi crfD imm rc s
  | .mffs frD rc => Sys2Proof.Machine.execMffs frD rc s
  | .mtfsf fm frB rc => Sys2Proof.Machine.execMtfsf fm frB rc s

end Sys2Proof.Machine
end

