-- ==== Sys2Proof/Machine/Cycle.lean ====
section
/-!
DEFINITION. The machine step: one boundary, and the instruction at CIA where the boundary comes to it
(spec/60_exceptions.md R765, R768, R781, R820).
-/
namespace Sys2Proof.Machine

/-- A branch, for MSR[BE] (R765). -/
def isBranch : Instr → Bool
  | .b .. | .bc .. | .bclr .. | .bcctr .. => true
  | _ => false

/-- `rfi` and `sc` are never traced (R765). -/
def neverTraced : Instr → Bool
  | .rfi | .sc => true
  | _ => false

/-- The trace exception is due after `i` ran from `before` to `after` (R765). -/
def traceDue (before after : State) (i : Instr) : Bool :=
  after.taken.isNone && !neverTraced i && (before.msrBit msrSE || (before.msrBit msrBE && isBranch i))

/-- The trace exception after an instruction that completed (R765). -/
def traceAfter (before : State) (i : Instr) (o : Out) : Out :=
  match o with
  | .next t => if traceDue before t i then .next (takeException .trace t.cia 0 t) else .next t
  | .fault f => .fault f
  | .refused r => .refused r

/-- Run a fetched word: illegal words take the exception, invalid forms stop (R781 item 3; spec/30_encoding.md R241). -/
def executeWord (s : State) (w : Word) : Out :=
  match decode w with
  | .ok i => traceAfter s i (exec i s)
  | .error .illegal => raiseIllegal s
  | .error .invalidForm => .fault .invalidForm
  | .error .truncated => .fault .invalidForm

/-- The instruction address breakpoint matches CIA (R768). -/
def iabrHit (s : State) : Bool := s.iabrView.getLsbD 1 && wordAlign s.iabrView == wordAlign s.cia

/-- Fetch and run the instruction at CIA (R781). -/
def runInstruction (s : State) : Out :=
  proceed (fetch s) fun w => if iabrHit s then raise .iabrMatch 0 s else executeWord s w

/-- One step of the machine (R820). -/
def cycle (s : State) : Out :=
  match atBoundary (beginStep s) with
  | .ends t => .next t
  | .runs t => runInstruction t

/-- The physical address the next fetch reads. -/
def fetchAddress (s : State) : Word :=
  match translateFetch s with
  | .ok pa => pa
  | .error _ => s.cia

/-- The word loaded where the next fetch reads, with memory there and no older word left for the fetch to see. -/
def placeFetchWord (s : State) (w : Word) : State :=
  let pa := wordAlign (fetchAddress s)
  { s with
    mem := setBytes s.mem pa (bytesBE 4 w)
    map := s.map.filter fun r => r.kind == .rom || !r.covers pa
    stale := s.stale.filter fun e => e.addr != pa }

end Sys2Proof.Machine
end

