-- ==== Sys2Proof/Machine/Step.lean ====
section
/-!
DEFINITION. The step of the machine, and the placing of one instruction where the step fetches.
-/
namespace Sys2Proof.Machine

/-- One step (spec/60_exceptions.md R820): `cycle` in Sys2Proof/Machine/Cycle.lean. -/
def step (s : State) : Host.Outcome State Fault Refusal := cycle s

/-- The state with the instruction of the opcode table's word `w` stored where `step` fetches next (log entry 22). -/
def State.withFetchWord (s : State) (_nbits w : Nat) : State := placeFetchWord s (BitVec.ofNat 32 w)

end Sys2Proof.Machine
end

