-- ==== Sys2Proof/Safety.lean ====
section
/-!
DEFINITION. The terms the statements are written in: what counts as a safe step, the invariant of the machine, and what
an instruction leaves in the parts of the state it may change.
-/
namespace Sys2Proof.Machine

/-- The step neither faults nor is refused. -/
def Safe (s : State) : Prop := ∃ t, step s = .next t

/-- What every reachable state satisfies: memory is in canonical form, CIA is word-aligned (R42), the reserved bits of
MSR and XER are 0 (R61, R48), the reserved bit of FPSCR is 0 and its FEX and VX are the computed ones (R51, R52), a
reservation names a granule (R100). -/
structure Inv (s : State) : Prop where
  mem : s.mem.wf = true
  cia : s.cia &&& 3 = 0
  msr : s.msr &&& ~~~msrImplemented = 0
  xer : s.xer &&& ~~~xerKept = 0
  fpscr : fpNormalize s.fpscr = s.fpscr
  reserve : ∀ g, s.reserve = some g → g &&& ~~~granuleMask = 0

/- Memory as a program reads it. -/

/-- Every byte of physical memory reads as before. -/
def SameBytes (s t : State) : Prop := ∀ a : Word, readByte t a = readByte s a

/-- Every byte of physical memory but those at the listed addresses reads as before. -/
def SameBytesBut (places : List Word) (s t : State) : Prop := ∀ a : Word, a ∉ places → readByte t a = readByte s a

/-- `n` consecutive physical addresses. -/
def placesFrom (pa : Word) (n : Nat) : List Word := (List.range n).map fun k => pa + BitVec.ofNat 32 k

/-- The value of bytes in the order of rising addresses, the first the most significant. -/
def bigEndian (bs : List Byte) : Nat := bs.foldl (fun n b => 256 * n + b.toNat) 0

/-- The physical addresses of an `n`-byte operand at `ea`: one translation where it is aligned, else one for each byte
(spec/20_memory.md R142, R156). -/
def Places (s : State) (ea : Word) (n : Nat) (store : Bool) (places : List Word) : Prop :=
  if ea.toNat % n = 0 then ∃ pa, translateData s ea store = .ok pa ∧ places = placesFrom pa n
  else List.Forall₂ (fun k pa => translateData s (ea + BitVec.ofNat 32 k) store = .ok pa) (List.range n) places

/- The registers an integer instruction writes. -/

/-- An integer that is no signed 32-bit integer. -/
def outside32 (z : Int) : Bool := decide (z < -2 ^ 31) || decide (2 ^ 31 ≤ z)

/-- CR after an integer instruction with result `v`: unchanged, or CR0 by the sign of `v` and the new XER[SO]
(spec/10_state.md R46). -/
def CrAfter (rc : Bool) (v : Word) (s t : State) : Prop :=
  if rc then
    ibmBit t.cr 0 = decide (v.toInt < 0) ∧ ibmBit t.cr 1 = decide (0 < v.toInt) ∧
    ibmBit t.cr 2 = decide (v = 0) ∧ ibmBit t.cr 3 = ibmBit t.xer 0 ∧
    ∀ k, 4 ≤ k → k < 32 → ibmBit t.cr k = ibmBit s.cr k
  else t.cr = s.cr

/-- XER after an instruction: OV and SO where `ov` is given, CA where `ca` is given, all else unchanged
(spec/40_integer_arithmetic_compare.md R300). -/
def XerAfter (ov ca : Option Bool) (s t : State) : Prop :=
  ibmBit t.xer 0 = (ibmBit s.xer 0 || ov.getD false) ∧ ibmBit t.xer 1 = ov.getD (ibmBit s.xer 1) ∧
  ibmBit t.xer 2 = ca.getD (ibmBit s.xer 2) ∧ ∀ k, 3 ≤ k → k < 32 → ibmBit t.xer k = ibmBit s.xer k

/-- `t` differs from `s` in general register `rD`, CR, XER and CIA only; the bank of registers not in use is as it was. -/
structure OnlyInteger (rD : Reg) (s t : State) : Prop where
  others : ∀ r, r ≠ rD → t.readGpr r = s.readGpr r
  bank : t.gpr = (s.writeGpr rD (t.readGpr rD)).gpr ∧ t.tgpr = (s.writeGpr rD (t.readGpr rD)).tgpr
  bytes : SameBytes s t
  rest : t = { s with gpr := t.gpr, tgpr := t.tgpr, cr := t.cr, xer := t.xer, cia := t.cia }

/-- The instruction completes: rD is `v`, CR0 records it where `rc`, XER is as said, the next instruction follows, and
nothing else changes. -/
def Computes (i : Instr) (s : State) (rD : Reg) (v : Word) (rc : Bool) (ov ca : Option Bool) : Prop :=
  ∃ t, exec i s = .next t ∧ t.readGpr rD = v ∧ t.cia = s.cia + 4 ∧ CrAfter rc v s t ∧ XerAfter ov ca s t ∧
    OnlyInteger rD s t

/-- CR with the 4 bits of field `n` replaced, most significant first. -/
def CrFieldIs (n : BitVec 3) (b0 b1 b2 b3 : Bool) (s t : State) : Prop :=
  ibmBit t.cr (4 * n.toNat) = b0 ∧ ibmBit t.cr (4 * n.toNat + 1) = b1 ∧ ibmBit t.cr (4 * n.toNat + 2) = b2 ∧
  ibmBit t.cr (4 * n.toNat + 3) = b3 ∧ ∀ k, k < 32 → k / 4 ≠ n.toNat → ibmBit t.cr k = ibmBit s.cr k

/- The floating-point registers and the FPSCR. -/

/-- The datum is no infinity and no NaN. -/
def fpFinite (w : Word) : Prop := fpExp w ≠ 255

/-- The value of a finite datum (spec/42_floating_point.md R401). -/
def fpValue (w : Word) : ℚ := (if fpNeg w then -1 else 1) * (fpSignificand w : ℚ) * (2 : ℚ) ^ fpScale w

/-- The value of the largest finite datum. -/
def fpLargest : ℚ := fpValue 0x7F7FFFFF

/-- `w` is the finite datum a real number rounds to under RN (R404): 00 nearest, ties to even; 01 toward zero; 10 up; 11
down. -/
def RoundsTo (rn : BitVec 2) (x : ℚ) (w : Word) : Prop :=
  fpFinite w ∧
  match rn.toNat with
  | 0 => (∀ u, fpFinite u → |x - fpValue w| ≤ |x - fpValue u|) ∧
      ((∃ u, fpFinite u ∧ fpValue u ≠ fpValue w ∧ |x - fpValue u| = |x - fpValue w|) → w.getLsbD 0 = false)
  | 1 => |fpValue w| ≤ |x| ∧ 0 ≤ fpValue w * x ∧
      ∀ u, fpFinite u → 0 ≤ fpValue u * x → |fpValue u| ≤ |x| → |fpValue u| ≤ |fpValue w|
  | 2 => x ≤ fpValue w ∧ ∀ u, fpFinite u → x ≤ fpValue u → fpValue w ≤ fpValue u
  | _ => fpValue w ≤ x ∧ ∀ u, fpFinite u → fpValue u ≤ x → fpValue u ≤ fpValue w

/-- `z` is the integer a real number rounds to under RN (R441). -/
def RoundsToInt (rn : BitVec 2) (x : ℚ) (z : ℤ) : Prop :=
  match rn.toNat with
  | 0 => |x - z| ≤ 1 / 2 ∧ (|x - z| = 1 / 2 → z % 2 = 0)
  | 1 => |(z : ℚ)| ≤ |x| ∧ |x| - |(z : ℚ)| < 1 ∧ 0 ≤ z * x
  | 2 => x ≤ z ∧ z < x + 1
  | _ => z ≤ x ∧ x - 1 < z

/-- The exception bits of the FPSCR but its summaries: OX, UX, ZX, XX, VXSNAN to VXVC, VXSOFT, VXSQRT, VXCVI. -/
def fpscrExceptions : List Nat := [3, 4, 5, 6, 7, 8, 9, 10, 11, 12, 21, 22, 23]

/-- The invalid-operation bits of the FPSCR. -/
def fpscrInvalids : List Nat := [7, 8, 9, 10, 11, 12, 21, 22, 23]

/-- The FPSCR's VX and FEX are the summaries of its other bits (spec/10_state.md R52). -/
def FpscrSummed (g : Word) : Prop :=
  ibmBit g 2 = fpscrInvalids.any (ibmBit g) ∧
  ibmBit g 1 = ((ibmBit g 2 && ibmBit g 24) || (ibmBit g 3 && ibmBit g 25) || (ibmBit g 4 && ibmBit g 26) ||
    (ibmBit g 5 && ibmBit g 27) || (ibmBit g 6 && ibmBit g 28))

/-- The FPSCR after an arithmetic, conversion or compare instruction: the exception bits raised are set and none is
cleared, FX where one of them was 0, FR, FI and FPRF where given, the summaries, the enables and modes unchanged
(spec/10_state.md R51 to R53, spec/42_floating_point.md R403 e). -/
def FpscrAfter (raised : Word) (fr fi : Option Bool) (fprf : Option (BitVec 5)) (f g : Word) : Prop :=
  (∀ k ∈ fpscrExceptions, ibmBit g k = (ibmBit f k || ibmBit raised k)) ∧
  ibmBit g 0 = (ibmBit f 0 || fpscrExceptions.any fun k => ibmBit raised k && !ibmBit f k) ∧
  FpscrSummed g ∧ ibmBit g 13 = fr.getD (ibmBit f 13) ∧ ibmBit g 14 = fi.getD (ibmBit f 14) ∧
  g.extractLsb' 12 5 = fprf.getD (f.extractLsb' 12 5) ∧ ibmBit g 20 = false ∧
  ∀ k, 24 ≤ k → k < 32 → ibmBit g k = ibmBit f k

/-- The floating-point unit is available and every source register named holds a finite single-precision datum that is
not denormalized; non-IEEE mode is off (spec/42_floating_point.md R400, R402). -/
def FpReady (s : State) (srcs : List Reg) : Prop :=
  s.msrBit msrFP = true ∧ ibmBit s.fpscr 29 = false ∧
  ∀ r ∈ srcs, s.isSingle r = true ∧ fpFinite (s.fprData r) ∧ fpIsDenormal (s.fprData r) = false

/-- CR1 after a floating-point record form (spec/10_state.md R47). -/
def Cr1After (rc : Bool) (s t : State) : Prop :=
  if rc then CrFieldIs 1 (ibmBit t.fpscr 0) (ibmBit t.fpscr 1) (ibmBit t.fpscr 2) (ibmBit t.fpscr 3) s t
  else t.cr = s.cr

/-- `t` differs from `s` in floating-point register `frD` with its tags, CR, FPSCR and CIA only. -/
structure OnlyFloat (frD : Reg) (s t : State) : Prop where
  others : ∀ r, r ≠ frD → t.fprData r = s.fprData r ∧ t.spTag r = s.spTag r ∧ t.ltTag r = s.ltTag r
  bytes : SameBytes s t
  rest : t = { s with fpr := t.fpr, sp := t.sp, lt := t.lt, cr := t.cr, fpscr := t.fpscr, cia := t.cia }

/-- A floating-point instruction completes with `w` in frD, tagged a single or an integer word. -/
def FloatResult (o : Out) (s t : State) (frD : Reg) (w : Word) (single rc : Bool) : Prop :=
  o = .next t ∧ t.fprData frD = w ∧ t.spTag frD = single ∧ t.ltTag frD = !single ∧ t.cia = s.cia + 4 ∧
  Cr1After rc s t ∧ OnlyFloat frD s t

/-- The effects of a floating-point instruction before its enabled exception: `w` in frD, tagged a single or an integer
word, and CR1. -/
def FloatWrites (s u : State) (frD : Reg) (w : Word) (single rc : Bool) : Prop :=
  u.fprData frD = w ∧ u.spTag frD = single ∧ u.ltTag frD = !single ∧ u.cia = s.cia ∧ Cr1After rc s u ∧ OnlyFloat frD s u

/-- The effects of a floating-point instruction that writes no FPR: FPSCR and CR1. -/
def FloatKeeps (s u : State) (rc : Bool) : Prop := u = { s with fpscr := u.fpscr, cr := u.cr } ∧ Cr1After rc s u

/-- How a floating-point instruction with the effects `u` ends: the next instruction follows, or, where FEX stands and FE0 or
FE1 is 1, the floating-point enabled program exception at CIA (spec/42_floating_point.md R411). -/
def EndsFloat (o : Out) (s u : State) : Prop :=
  (s.msr &&& 0x00000900 = 0 ∨ ibmBit u.fpscr 1 = false → o = .next { u with cia := s.cia + 4 }) ∧
  (s.msr &&& 0x00000900 ≠ 0 → ibmBit u.fpscr 1 = true → o = .next (takeException .program s.cia 0x00100000 u))

/-- A real number rounds, with unbounded exponent, beyond the largest finite datum (R404, R405). -/
def RoundsBeyond (rn : BitVec 2) (x : ℚ) : Prop :=
  match rn.toNat with
  | 0 => (2 : ℚ) ^ 128 - (2 : ℚ) ^ 103 ≤ |x|
  | 1 => (2 : ℚ) ^ 128 ≤ |x|
  | 2 => fpLargest < x ∨ x ≤ -(2 : ℚ) ^ 128
  | _ => (2 : ℚ) ^ 128 ≤ x ∨ x < -fpLargest

/-- The sign of an exact sum of zero of terms with the given signs (R404). -/
def zeroSumSign (rn : BitVec 2) (n1 n2 : Bool) : Bool := if n1 = n2 then n1 else decide (rn = 3)

/-- The instruction takes an exception that saves its own address, and has no other effect. -/
def Raises (o : Out) (e : Exception) (info : Word) (s : State) : Prop := o = .next (takeException e s.cia info s)

/-- A special register: its number (numbers not given by the specification are the model's, log entry 1), the bits that read
back as stored (the others are reserved fields and read back as any value, log entry 42), and its value. -/
structure SprRow where
  /-- number -/
  num : BitVec 10
  /-- bits that read back as stored -/
  kept : Word
  /-- value -/
  value : State → Word

/-- A register of which every bit reads back as stored. -/
def wholeRow (num : BitVec 10) (value : State → Word) : SprRow := { num, kept := 0xFFFFFFFF, value }

/-- The special registers that `mfspr` reads as they stand. -/
def specialRegisters : List SprRow :=
  [wholeRow 1 (·.xer), wholeRow 8 (·.lr), wholeRow 9 (·.ctr), wholeRow 18 (·.dsisr), wholeRow 19 (·.dar),
   wholeRow 22 (·.dec), { num := 25, kept := 0xFFFF01FF, value := (·.sdr1) }, wholeRow 26 (·.srr0), wholeRow 27 (·.srr1),
   wholeRow 272 (·.sprg[0]), wholeRow 273 (·.sprg[1]), wholeRow 274 (·.sprg[2]), wholeRow 275 (·.sprg[3])] ++
  (List.finRange 8).map (fun k =>
    { num := 528 + BitVec.ofNat 10 k.val,
      kept := if k.val % 2 = 0 then 0xFFFE1FFF else 0xFFFE007B ||| 1#32 <<< ibatNeBit ||| 1#32 <<< ibatSeBit,
      value := (·.ibat.get k) }) ++
  (List.finRange 8).map (fun k =>
    { num := 536 + BitVec.ofNat 10 k.val, kept := if k.val % 2 = 0 then 0xFFFE1FFF else 0xFFFE007B,
      value := (·.dbat.get k) }) ++
  [wholeRow 976 (·.dmiss), wholeRow 980 (·.imiss), { num := 982, kept := 0xFFFFF1FB, value := (·.rpa) },
   wholeRow 986 (·.ibr), wholeRow 987 (·.esasrr), wholeRow 990 (·.sebr), wholeRow 991 (·.ser), wholeRow 1008 (·.hid0),
   wholeRow 1010 (·.iabr), wholeRow 1021 (·.sp), wholeRow 1022 (·.lt)]

/-- The instruction completes with in rD a word that agrees with `v` on the bits of `kept`; nothing else changes. -/
def Reads (i : Instr) (s : State) (rD : Reg) (kept v : Word) : Prop :=
  ∃ w, w &&& kept = v &&& kept ∧ Computes i s rD w false none none

/- Loads and stores. An access is made in parts: one where the operand is aligned, else one for each byte. Before part `k`
the bus has acted in `k` gaps (spec/20_memory.md R161): the part finds the state `gaps s k`. -/

/-- The number of the last part of an access of `n` bytes at `ea`. -/
def lastPart (ea : Word) (n : Nat) : Nat := if ea.toNat % n = 0 then 0 else n - 1

/-- A byte that a load may see at a physical address: what memory holds, or a cached copy that another master's write did
not reach (spec/60_exceptions.md R803); any byte where no memory stands (spec/20_memory.md R165). -/
def Sees (s : State) (pa : Word) (b : Byte) : Prop :=
  s.noMemory pa = true ∨ b = readByte s pa ∨ (pa.toNat, b) ∈ s.cached

/-- A TEA for a transaction of the next load is to come, or comes in one of the next `m` gaps. -/
def TeaComes (s : State) (m : Nat) : Prop := s.teaNext = true ∨ ∃ es ∈ s.amid.take m, BusEvent.teaLoad ∈ es

/-- No transaction of a load from `places` with `m` gaps ends with TEA: none comes, and nothing at `places` answers with one
(spec/60_exceptions.md R752; spec/92_eei_decisions.md, physical memory map). -/
def NoTea (s : State) (m : Nat) (places : List Word) : Prop :=
  ¬ TeaComes s m ∧ ∀ a ∈ places, s.answersTea a = false

/-- The bytes a load with `m` gaps gets from `places`, byte `k` by part `part k`; any bytes where one of its transactions
ends with TEA (spec/60_exceptions.md R752). -/
def SeesAll (s : State) (m : Nat) (part : Nat → Nat) (places : List Word) (bs : List Byte) : Prop :=
  bs.length = places.length ∧
  (NoTea s m places → ∀ k, k < places.length → Sees (gaps s (part k)) (places.getD k 0) (bs.getD k 0))

/-- What a load from `places` with `m` gaps leaves of the TEA conditions (spec/60_exceptions.md R752). -/
def TeaLoaded (m : Nat) (places : List Word) (s t : State) : Prop :=
  t.teaNext = false ∧ (TeaComes s m → t.teaUnrecognised = true) ∧
  (s.teaUnrecognised = true → t.teaUnrecognised = true) ∧
  (NoTea s m places → t.teaUnrecognised = s.teaUnrecognised)

/-- No other master writes to `places` in the next `m` gaps. -/
def Undisturbed (s : State) (m : Nat) (places : List Word) : Prop :=
  ∀ es ∈ s.amid.take m, ∀ addr v, BusEvent.write addr v ∈ es → addr ∉ places

/-- What a store to `places` with `m` gaps leaves of memory, of the words a fetch and the bytes a load may still see, and of
the TEA condition: bytes elsewhere and where no RAM stands read as the gaps alone leave them, and the stored bytes are
`bs` where no other master writes to them meanwhile. -/
structure StoreEffect (s : State) (m : Nat) (places : List Word) (bs : List Byte) (t : State) : Prop where
  others : ∀ a, a ∉ places ∨ s.isRam a = false → readByte t a = readByte (gaps s m) a
  stored : Undisturbed s m places →
    ∀ k, k < places.length → s.isRam (places.getD k 0) = true → readByte t (places.getD k 0) = bs.getD k 0
  kept : s.stale <:+ t.stale
  recorded : ∀ e ∈ t.stale, e ∈ s.stale ∨ (e.phase = .stored ∧ ∃ a ∈ places, e.addr = wordAlign a) ∨
    (e.phase = .pushedSynced ∧ ∃ es ∈ s.amid.take m, ∃ a v, BusEvent.write a v ∈ es ∧ e.addr = wordAlign a)
  replaced : m = 0 → ∀ a ∈ places, readWordAt t a ≠ readWordAt s a →
    ∃ e ∈ t.stale, e.addr = wordAlign a ∧ e.old = readWordAt s a ∧ e.phase = .stored
  copies : ∀ e : Host.Cell, BitVec.ofNat 32 e.1 ∉ places ∨ s.isRam (BitVec.ofNat 32 e.1) = false →
    (e ∈ t.cached ↔ e ∈ (gaps s m).cached)
  settled : Undisturbed s m places →
    ∀ e ∈ t.cached, s.isRam (BitVec.ofNat 32 e.1) = true → BitVec.ofNat 32 e.1 ∉ places
  tea : (s.teaUnrecognised = true → t.teaUnrecognised = true) ∧
    ((∀ a ∈ places, s.kindAt a ≠ some .absent) → t.teaUnrecognised = s.teaUnrecognised)

/-- The low `n` bytes of a number, the most significant first. -/
def bigEndianBytes (n v : Nat) : List Byte := (List.range n).map fun k => BitVec.ofNat 8 (v / 256 ^ (n - 1 - k))

/-- The bank of general registers not in use is as it was. -/
def SameBank (s t : State) : Prop := if s.msrBit msrTGPR then t.gpr = s.gpr else t.tgpr = s.tgpr

/-- An integer load of `v` into rD with, in an update form, `ea` in the base; `u` is the state the gaps leave. -/
def Loaded (rD : Reg) (v : Word) (base : Option Reg) (ea : Word) (u t : State) : Prop :=
  t.readGpr rD = v ∧ (∀ rA, base = some rA → t.readGpr rA = ea) ∧
  (∀ r, r ≠ rD → base ≠ some r → t.readGpr r = u.readGpr r) ∧ SameBank u t ∧
  t = { u with gpr := t.gpr, tgpr := t.tgpr, teaNext := t.teaNext, teaUnrecognised := t.teaUnrecognised, cia := u.cia + 4 }

/-- A store changes, besides memory and what follows it, the base of an update form and CIA only; `u` is the state the gaps
leave. -/
def OnlyStore (base : Option Reg) (ea : Word) (u t : State) : Prop :=
  (∀ rA, base = some rA → t.readGpr rA = ea) ∧ (∀ r, base ≠ some r → t.readGpr r = u.readGpr r) ∧ SameBank u t ∧
  t = { u with gpr := t.gpr, tgpr := t.tgpr, mem := t.mem, stale := t.stale, cached := t.cached
               teaUnrecognised := t.teaUnrecognised, cia := u.cia + 4 }

/-- A store that stops on the way has changed memory and what follows it only. -/
def StoppedStore (u t : State) : Prop :=
  t = { u with mem := t.mem, stale := t.stale, cached := t.cached, teaUnrecognised := t.teaUnrecognised }

/-- A floating-point load changes floating-point register `frD` with its tags, the base of an update form, the TEA
conditions and CIA only; `u` is the state the gaps leave. -/
structure OnlyFloatLoad (frD : Reg) (base : Option Reg) (ea : Word) (u t : State) : Prop where
  update : ∀ rA, base = some rA → t.readGpr rA = ea
  others : ∀ r, base ≠ some r → t.readGpr r = u.readGpr r
  floats : ∀ r, r ≠ frD → t.fprData r = u.fprData r ∧ t.spTag r = u.spTag r ∧ t.ltTag r = u.ltTag r
  bank : SameBank u t
  rest : t = { u with gpr := t.gpr, tgpr := t.tgpr, fpr := t.fpr, sp := t.sp, lt := t.lt, teaNext := t.teaNext
                      teaUnrecognised := t.teaUnrecognised, cia := u.cia + 4 }

end Sys2Proof.Machine
end

