-- ==== Sys2Proof/Certificates/Slice0/Obligations.lean ====
section
/-!
DEFINITION. The statements for the provers.
-/
open Sys2Proof Sys2Proof.Machine

/-- addi and addis add a sign-extended or shifted immediate to (rA|0) and change nothing else (R301, R302, R41) -/
def Obligations.AddImmediate : Prop :=
  ∀ (s : State) (rD rA : Reg) (simm : BitVec 16), s.gprsUsable (rD :: namedOr0 rA) = true →
    let a : Int := if rA = 0 then 0 else (s.readGpr rA).toInt
    Computes (.addi rD rA simm) s rD (BitVec.ofInt 32 (a + simm.toInt)) false none none ∧
    Computes (.addis rD rA simm) s rD (BitVec.ofInt 32 (a + simm.toInt * 2 ^ 16)) false none none

/-- add, subf and neg: result, overflow, CR0 and frame for every form (R300, R303, R304, R316, R46) -/
def Obligations.AddAndSubtract : Prop :=
  ∀ (s : State) (rD rA rB : Reg) (oe rc : Bool), s.gprsUsable [rD, rA, rB] = true →
    let a := (s.readGpr rA).toInt
    let b := (s.readGpr rB).toInt
    let ov (z : Int) : Option Bool := if oe then some (outside32 z) else none
    Computes (.add rD rA rB oe rc) s rD (BitVec.ofInt 32 (a + b)) rc (ov (a + b)) none ∧
    Computes (.subf rD rA rB oe rc) s rD (BitVec.ofInt 32 (b - a)) rc (ov (b - a)) none ∧
    Computes (.neg rD rA oe rc) s rD (BitVec.ofInt 32 (-a)) rc (ov (-a)) none

/-- addc, subfc, addic, addic. and subfic: result, carry, overflow, CR0 and frame (R300, R305, R306, R307, R308, R309, R46) -/
def Obligations.CarryingSums : Prop :=
  ∀ (s : State) (rD rA rB : Reg) (simm : BitVec 16) (oe rc : Bool), s.gprsUsable [rD, rA, rB] = true →
    let a := s.readGpr rA
    let b := s.readGpr rB
    let i : Word := simm.signExtend 32
    let ov (z : Int) : Option Bool := if oe then some (outside32 z) else none
    Computes (.addc rD rA rB oe rc) s rD (BitVec.ofInt 32 (a.toInt + b.toInt)) rc (ov (a.toInt + b.toInt))
      (some (decide (2 ^ 32 ≤ a.toNat + b.toNat))) ∧
    Computes (.subfc rD rA rB oe rc) s rD (BitVec.ofInt 32 (b.toInt - a.toInt)) rc (ov (b.toInt - a.toInt))
      (some (decide (a.toNat ≤ b.toNat))) ∧
    Computes (.addic rD rA simm) s rD (BitVec.ofInt 32 (a.toInt + simm.toInt)) false none
      (some (decide (2 ^ 32 ≤ a.toNat + i.toNat))) ∧
    Computes (.addicRc rD rA simm) s rD (BitVec.ofInt 32 (a.toInt + simm.toInt)) true none
      (some (decide (2 ^ 32 ≤ a.toNat + i.toNat))) ∧
    Computes (.subfic rD rA simm) s rD (BitVec.ofInt 32 (simm.toInt - a.toInt)) false none
      (some (decide (a.toNat ≤ i.toNat)))

/-- adde, subfe, addme, subfme, addze and subfze: result, carry, overflow, CR0 and frame (R300, R310, R311, R312, R313, R314, R315, R46) -/
def Obligations.ExtendedSums : Prop :=
  ∀ (s : State) (rD rA rB : Reg) (oe rc : Bool), s.gprsUsable [rD, rA, rB] = true →
    let a := s.readGpr rA
    let b := s.readGpr rB
    let c := (ibmBit s.xer 2).toNat
    let ov (z : Int) : Option Bool := if oe then some (outside32 z) else none
    Computes (.adde rD rA rB oe rc) s rD (BitVec.ofInt 32 (a.toInt + b.toInt + c)) rc (ov (a.toInt + b.toInt + c))
      (some (decide (2 ^ 32 ≤ a.toNat + b.toNat + c))) ∧
    Computes (.subfe rD rA rB oe rc) s rD (BitVec.ofInt 32 (b.toInt - a.toInt - 1 + c)) rc
      (ov (b.toInt - a.toInt - 1 + c)) (some (decide (a.toNat + 1 ≤ b.toNat + c))) ∧
    Computes (.addme rD rA oe rc) s rD (BitVec.ofInt 32 (a.toInt - 1 + c)) rc (ov (a.toInt - 1 + c))
      (some (decide (1 ≤ a.toNat + c))) ∧
    Computes (.subfme rD rA oe rc) s rD (BitVec.ofInt 32 (-a.toInt - 2 + c)) rc (ov (-a.toInt - 2 + c))
      (some (decide (a.toNat + 2 ≤ 2 ^ 32 + c))) ∧
    Computes (.addze rD rA oe rc) s rD (BitVec.ofInt 32 (a.toInt + c)) rc (ov (a.toInt + c))
      (some (decide (2 ^ 32 ≤ a.toNat + c))) ∧
    Computes (.subfze rD rA oe rc) s rD (BitVec.ofInt 32 (-a.toInt - 1 + c)) rc (ov (-a.toInt - 1 + c))
      (some (decide (a.toNat + 1 ≤ c)))

/-- mulli, mullw, mulhw and mulhwu: result, overflow, CR0 and frame (R317, R318, R319, R320, R46) -/
def Obligations.Products : Prop :=
  ∀ (s : State) (rD rA rB : Reg) (simm : BitVec 16) (oe rc : Bool), s.gprsUsable [rD, rA, rB] = true →
    let a := s.readGpr rA
    let b := s.readGpr rB
    Computes (.mulli rD rA simm) s rD (BitVec.ofInt 32 (a.toInt * simm.toInt)) false none none ∧
    Computes (.mullw rD rA rB oe rc) s rD (BitVec.ofInt 32 (a.toInt * b.toInt)) rc
      (if oe then some (outside32 (a.toInt * b.toInt)) else none) none ∧
    Computes (.mulhw rD rA rB rc) s rD (BitVec.ofInt 32 (a.toInt * b.toInt / 2 ^ 32)) rc none none ∧
    Computes (.mulhwu rD rA rB rc) s rD (BitVec.ofNat 32 (a.toNat * b.toNat / 2 ^ 32)) rc none none

/-- divw and divwu where the quotient is defined: result, flags and frame (R321, R322, R46) -/
def Obligations.Quotients : Prop :=
  ∀ (s : State) (rD rA rB : Reg) (oe rc : Bool), s.gprsUsable [rD, rA, rB] = true →
    let a := s.readGpr rA
    let b := s.readGpr rB
    let ov : Option Bool := if oe then some false else none
    b ≠ 0 →
    (¬(a.toInt = -2 ^ 31 ∧ b.toInt = -1) →
      Computes (.divw rD rA rB oe rc) s rD (BitVec.ofInt 32 (a.toInt.tdiv b.toInt)) rc ov none) ∧
    Computes (.divwu rD rA rB oe rc) s rD (BitVec.ofNat 32 (a.toNat / b.toNat)) rc ov none

/-- divw and divwu where the quotient is undefined go on: only rD and CR0 bits 0 to 2 are free (R321, R322) -/
def Obligations.UndefinedQuotients : Prop :=
  ∀ (s : State) (rD rA rB : Reg) (oe rc : Bool), s.gprsUsable [rD, rA, rB] = true →
    let a := s.readGpr rA
    let b := s.readGpr rB
    let goesOn (i : Instr) : Prop :=
      ∃ t, exec i s = .next t ∧ t.cia = s.cia + 4 ∧ XerAfter (if oe then some true else none) none s t ∧
        (rc = false → t.cr = s.cr) ∧
        (rc = true → ibmBit t.cr 3 = ibmBit t.xer 0 ∧ ∀ k, 4 ≤ k → k < 32 → ibmBit t.cr k = ibmBit s.cr k) ∧
        OnlyInteger rD s t
    (b = 0 ∨ (a = 0x80000000 ∧ b = 0xFFFFFFFF) → goesOn (.divw rD rA rB oe rc)) ∧
    (b = 0 → goesOn (.divwu rD rA rB oe rc))

/-- cmpi, cmp, cmpli and cmpl set one CR field to less, greater, equal and SO; L = 1 is refused (R330, R331, R332, R333, R334) -/
def Obligations.Compares : Prop :=
  ∀ (s : State) (crfD : BitVec 3) (rA rB : Reg) (imm : BitVec 16),
    let a := s.readGpr rA
    let b := s.readGpr rB
    let sets (i : Instr) (lt gt eq : Bool) : Prop :=
      ∃ t, exec i s = .next t ∧ CrFieldIs crfD lt gt eq (ibmBit s.xer 0) s t ∧ SameBytes s t ∧
        t = { s with cr := t.cr, cia := s.cia + 4 }
    (s.gprsUsable [rA] = true →
      sets (.cmpi crfD 0 rA imm) (decide (a.toInt < imm.toInt)) (decide (imm.toInt < a.toInt))
        (decide (a.toInt = imm.toInt)) ∧
      sets (.cmpli crfD 0 rA imm) (decide (a.toNat < imm.toNat)) (decide (imm.toNat < a.toNat))
        (decide (a.toNat = imm.toNat))) ∧
    (s.gprsUsable [rA, rB] = true →
      sets (.cmp crfD 0 rA rB) (decide (a.toInt < b.toInt)) (decide (b.toInt < a.toInt)) (decide (a = b)) ∧
      sets (.cmpl crfD 0 rA rB) (decide (a.toNat < b.toNat)) (decide (b.toNat < a.toNat)) (decide (a = b))) ∧
    exec (.cmpi crfD 1 rA imm) s = .fault .invalidForm ∧ exec (.cmpli crfD 1 rA imm) s = .fault .invalidForm ∧
    exec (.cmp crfD 1 rA rB) s = .fault .invalidForm ∧ exec (.cmpl crfD 1 rA rB) s = .fault .invalidForm

/-- The bitwise instructions combine rS with rB or an immediate bit by bit (R350, R351, R357, R358, R359, R360, R361, R362, R363, R364, R46) -/
def Obligations.Logical : Prop :=
  ∀ (s : State) (rS rA rB : Reg) (uimm : BitVec 16) (rc : Bool), s.gprsUsable [rA, rS, rB] = true →
    let combines (i : Instr) (rec : Bool) (v : Word) (f : Bool → Bool → Bool) : Prop :=
      ∃ r : Word, (∀ k, k < 32 → r.getLsbD k = f ((s.readGpr rS).getLsbD k) (v.getLsbD k)) ∧
        Computes i s rA r rec none none
    let low : Word := BitVec.ofNat 32 uimm.toNat
    let high : Word := BitVec.ofNat 32 (uimm.toNat * 2 ^ 16)
    let b := s.readGpr rB
    combines (.and rS rA rB rc) rc b (fun x y => x && y) ∧ combines (.or rS rA rB rc) rc b (fun x y => x || y) ∧
    combines (.xor rS rA rB rc) rc b (fun x y => x != y) ∧ combines (.nand rS rA rB rc) rc b (fun x y => !(x && y)) ∧
    combines (.nor rS rA rB rc) rc b (fun x y => !(x || y)) ∧ combines (.eqv rS rA rB rc) rc b (fun x y => x == y) ∧
    combines (.andc rS rA rB rc) rc b (fun x y => x && !y) ∧ combines (.orc rS rA rB rc) rc b (fun x y => x || !y) ∧
    combines (.andiRc rS rA uimm) true low (fun x y => x && y) ∧
    combines (.andisRc rS rA uimm) true high (fun x y => x && y) ∧
    combines (.ori rS rA uimm) false low (fun x y => x || y) ∧ combines (.oris rS rA uimm) false high (fun x y => x || y) ∧
    combines (.xori rS rA uimm) false low (fun x y => x != y) ∧
    combines (.xoris rS rA uimm) false high (fun x y => x != y)

/-- extsb and extsh extend the sign of the low byte or halfword; cntlzw counts leading zeros (R365, R366, R367, R46) -/
def Obligations.ExtendAndCount : Prop :=
  ∀ (s : State) (rS rA : Reg) (rc : Bool), s.gprsUsable [rA, rS] = true →
    let v := s.readGpr rS
    let signed (n : Nat) (z : Int) : Prop := -2 ^ (n - 1) ≤ z ∧ z < 2 ^ (n - 1) ∧ (z - v.toInt) % 2 ^ n = 0
    (∃ z, signed 8 z ∧ Computes (.extsb rS rA rc) s rA (BitVec.ofInt 32 z) rc none none) ∧
    (∃ z, signed 16 z ∧ Computes (.extsh rS rA rc) s rA (BitVec.ofInt 32 z) rc none none) ∧
    ∃ n, n ≤ 32 ∧ (∀ k, k < n → ibmBit v k = false) ∧ (n < 32 → ibmBit v n = true) ∧
      Computes (.cntlzw rS rA rc) s rA (BitVec.ofNat 32 n) rc none none

/-- rlwinm, rlwnm and rlwimi: rotated bits where the mask is 1, zeros or the old bits of rA elsewhere (R262, R370, R371, R372, R46) -/
def Obligations.Rotates : Prop :=
  ∀ (s : State) (rS rA rB : Reg) (sh mb me : BitVec 5) (rc : Bool), s.gprsUsable [rA, rS, rB] = true →
    let inMask (k : Nat) : Prop :=
      if mb.toNat ≤ me.toNat then mb.toNat ≤ k ∧ k ≤ me.toNat else mb.toNat ≤ k ∨ k ≤ me.toNat
    let rotates (i : Instr) (n : Nat) (outside : Nat → Bool) : Prop :=
      ∃ r : Word, (∀ k, k < 32 → (inMask k → ibmBit r k = ibmBit (s.readGpr rS) ((k + n) % 32)) ∧
          (¬inMask k → ibmBit r k = outside k)) ∧
        Computes i s rA r rc none none
    rotates (.rlwinm rS rA sh mb me rc) sh.toNat (fun _ => false) ∧
    rotates (.rlwnm rS rA rB mb me rc) ((s.readGpr rB).toNat % 32) (fun _ => false) ∧
    rotates (.rlwimi rS rA sh mb me rc) sh.toNat (ibmBit (s.readGpr rA))

/-- slw, srw, sraw and srawi: shifts by 0 to 63, and CA of the algebraic shifts (R380, R381, R382, R383, R46) -/
def Obligations.Shifts : Prop :=
  ∀ (s : State) (rS rA rB : Reg) (sh : BitVec 5) (rc : Bool), s.gprsUsable [rA, rS, rB] = true →
    let v := s.readGpr rS
    let n := (s.readGpr rB).toNat % 64
    let carry (n : Nat) : Option Bool := some (decide (v.toInt < 0 ∧ v.toInt % 2 ^ n ≠ 0))
    Computes (.slw rS rA rB rc) s rA (BitVec.ofNat 32 (v.toNat * 2 ^ n)) rc none none ∧
    Computes (.srw rS rA rB rc) s rA (BitVec.ofNat 32 (v.toNat / 2 ^ n)) rc none none ∧
    Computes (.sraw rS rA rB rc) s rA (BitVec.ofInt 32 (v.toInt / 2 ^ n)) rc none (carry n) ∧
    Computes (.srawi rS rA sh rc) s rA (BitVec.ofInt 32 (v.toInt / 2 ^ sh.toNat)) rc none (carry sh.toNat)

/-- Single-precision arithmetic on finite operands delivers the correctly rounded exact result (R400, R401, R404, R411, R412, R420, R421, R422, R423, R424, R425, R426). The exception with FEX standing is log entry 38. -/
def Obligations.FloatArithmetic : Prop :=
  ∀ (s : State) (frD frA frB frC : Reg) (rc : Bool), FpReady s [frA, frB, frC] →
    let a := fpValue (s.fprData frA)
    let b := fpValue (s.fprData frB)
    let c := fpValue (s.fprData frC)
    let rn := s.fpscr.extractLsb' 0 2
    let na := fpNeg (s.fprData frA)
    let nb := fpNeg (s.fprData frB)
    let nc := fpNeg (s.fprData frC)
    let delivers (i : Instr) (x : ℚ) (zeroSign negated : Bool) : Prop :=
      x = 0 ∨ (2 : ℚ) ^ (-126 : ℤ) ≤ |x| → ¬RoundsBeyond rn x →
      ∃ u w, (if x = 0 then fpIsZero w = true ∧ fpNeg w = zeroSign else RoundsTo rn x w) ∧
        FloatWrites s u frD (if negated then fpNegate w else w) true rc ∧
        FpscrAfter (if fpValue w = x then 0 else fpXX) (some (decide (|x| < |fpValue w|))) (some (decide (fpValue w ≠ x)))
          (some (fpClass (u.fprData frD))) s.fpscr u.fpscr ∧ EndsFloat (exec i s) s u
    delivers (.fadds frD frA frB rc) (a + b) (zeroSumSign rn na nb) false ∧
    delivers (.fsubs frD frA frB rc) (a - b) (zeroSumSign rn na (!nb)) false ∧
    delivers (.fmuls frD frA frC rc) (a * c) (na != nc) false ∧
    (b ≠ 0 → delivers (.fdivs frD frA frB rc) (a / b) (na != nb) false) ∧
    (b ≠ 0 → delivers (.fres frD frB rc) (1 / b) nb false) ∧
    delivers (.fmadds frD frA frB frC rc) (a * c + b) (zeroSumSign rn (na != nc) nb) false ∧
    delivers (.fmsubs frD frA frB frC rc) (a * c - b) (zeroSumSign rn (na != nc) (!nb)) false ∧
    delivers (.fnmadds frD frA frB frC rc) (a * c + b) (zeroSumSign rn (na != nc) nb) true ∧
    delivers (.fnmsubs frD frA frB frC rc) (a * c - b) (zeroSumSign rn (na != nc) (!nb)) true

/-- A tiny exact result takes the emulation trap and changes nothing else (R410). That frsp of a denormalized datum traps where the open policy computes with it is log entry 15; what non-IEEE mode delivers is open, log entry 14. -/
def Obligations.FloatTinyTraps : Prop :=
  ∀ (s : State) (frD frA frB frC : Reg) (rc : Bool),
    let traps (i : Instr) (x : ℚ) : Prop := x ≠ 0 → |x| < (2 : ℚ) ^ (-126 : ℤ) → Raises (exec i s) .emulation 0 s
    (FpReady s [] → s.isSingle frB = true → fpIsDenormal (s.fprData frB) = true →
      Raises (exec (.frsp frD frB rc) s) .emulation 0 s) ∧
    (FpReady s [frA, frB, frC] →
      let a := fpValue (s.fprData frA)
      let b := fpValue (s.fprData frB)
      let c := fpValue (s.fprData frC)
      traps (.fadds frD frA frB rc) (a + b) ∧ traps (.fsubs frD frA frB rc) (a - b) ∧
      traps (.fmuls frD frA frC rc) (a * c) ∧ (b ≠ 0 → traps (.fdivs frD frA frB rc) (a / b)) ∧
      (b ≠ 0 → traps (.fres frD frB rc) (1 / b)) ∧ traps (.fmadds frD frA frB frC rc) (a * c + b) ∧
      traps (.fmsubs frD frA frB frC rc) (a * c - b) ∧ traps (.fnmadds frD frA frB frC rc) (a * c + b) ∧
      traps (.fnmsubs frD frA frB frC rc) (a * c - b))

/-- Overflow: an infinity or the largest finite datum by RN and sign; with OE = 1 the result scaled by 2^-192 (R404, R405, R411). The exception with FEX standing is log entry 38. -/
def Obligations.FloatOverflow : Prop :=
  ∀ (s : State) (frD frA frB frC : Reg) (rc : Bool), FpReady s [frA, frB, frC] →
    let a := fpValue (s.fprData frA)
    let b := fpValue (s.fprData frB)
    let c := fpValue (s.fprData frC)
    let rn := s.fpscr.extractLsb' 0 2
    let limit (x : ℚ) : Word :=
      if 0 < x then (if rn = 0 ∨ rn = 2 then 0x7F800000 else 0x7F7FFFFF)
      else (if rn = 0 ∨ rn = 3 then 0xFF800000 else 0xFF7FFFFF)
    let overflows (i : Instr) (x : ℚ) (negated : Bool) : Prop :=
      RoundsBeyond rn x →
      ∃ u w fr fi, FloatWrites s u frD (if negated then fpNegate w else w) true rc ∧
        (ibmBit s.fpscr 25 = false → w = limit x ∧ fi = true) ∧
        (ibmBit s.fpscr 25 = true → RoundsTo rn (x / 2 ^ 192) w ∧ fi = decide (fpValue w ≠ x / 2 ^ 192) ∧
          fr = decide (|x / 2 ^ 192| < |fpValue w|)) ∧
        FpscrAfter (fpOX ||| if fi then fpXX else 0) (some fr) (some fi) (some (fpClass (u.fprData frD))) s.fpscr u.fpscr ∧
        EndsFloat (exec i s) s u
    overflows (.fadds frD frA frB rc) (a + b) false ∧ overflows (.fsubs frD frA frB rc) (a - b) false ∧
    overflows (.fmuls frD frA frC rc) (a * c) false ∧ (b ≠ 0 → overflows (.fdivs frD frA frB rc) (a / b) false) ∧
    (b ≠ 0 → overflows (.fres frD frB rc) (1 / b) false) ∧ overflows (.fmadds frD frA frB frC rc) (a * c + b) false ∧
    overflows (.fmsubs frD frA frB frC rc) (a * c - b) false ∧ overflows (.fnmadds frD frA frB frC rc) (a * c + b) true ∧
    overflows (.fnmsubs frD frA frB frC rc) (a * c - b) true

/-- Zero divide: fdivs and fres of a finite nonzero dividend by zero (R406, R411, R412, R47, R757). The exception with FEX standing, set by this instruction or before it, is log entry 38 (DEDUCED from R757) -/
def Obligations.FloatZeroDivide : Prop :=
  ∀ (s : State) (frD frA frB : Reg) (rc : Bool), fpIsZero (s.fprData frB) = true →
    let infinity (negative : Bool) : Word := if negative then 0xFF800000 else 0x7F800000
    let divides (i : Instr) (negative : Bool) : Prop :=
      ∃ u, (if ibmBit s.fpscr 27 then
            FpscrAfter fpZX none none none s.fpscr u.fpscr ∧ ibmBit u.fpscr 1 = true ∧
            u = { s with fpscr := u.fpscr, cr := u.cr }
          else
            u.fprData frD = infinity negative ∧ u.isSingle frD = true ∧ u.cia = s.cia ∧ OnlyFloat frD s u ∧
            FpscrAfter fpZX (some false) (some false) (some (fpClass (infinity negative))) s.fpscr u.fpscr) ∧
        Cr1After rc s u ∧
        exec i s = if ibmBit u.fpscr 1 = true ∧ s.msr &&& 0x00000900 ≠ 0 then
            .next (takeException .program s.cia 0x00100000 u)
          else .next { u with cia := s.cia + 4 }
    (FpReady s [frA, frB] → fpIsZero (s.fprData frA) = false →
      divides (.fdivs frD frA frB rc) (fpNeg (s.fprData frA) != fpNeg (s.fprData frB))) ∧
    (FpReady s [frB] → divides (.fres frD frB rc) (fpNeg (s.fprData frB)))

/-- NaN operands, invalid operations and infinities in single-precision arithmetic (R403, R411, R412, R420, R421, R422, R423, R424, R425, R426, R427, R428). The exception with FEX standing is log entry 38. -/
def Obligations.FloatInvalid : Prop :=
  ∀ (s : State) (frD frA frB frC : Reg) (rc : Bool), FpReady s [] →
    (∀ r ∈ [frA, frB, frC], s.isSingle r = true ∧ fpIsDenormal (s.fprData r) = false) →
    let a := s.fprData frA
    let b := s.fprData frB
    let c := s.fprData frC
    let delivers (i : Instr) (w raised : Word) : Prop :=
      ∃ u, EndsFloat (exec i s) s u ∧
        if raised ≠ 0 ∧ ibmBit s.fpscr 24 = true then
          FpscrAfter raised none none none s.fpscr u.fpscr ∧ FloatKeeps s u rc
        else
          FpscrAfter raised (some false) (some false) (some (fpClass w)) s.fpscr u.fpscr ∧ FloatWrites s u frD w true rc
    let quiet (w : Word) : Word := w ||| 0x00400000
    let first (x y : Word) : Word := if fpIsNan x then quiet x else quiet y
    let snan (ws : List Word) : Word := if ws.any fpIsSnan then fpVXSNAN else 0
    let timesZero (x y : Word) : Bool := (fpIsInf x && fpIsZero y) || (fpIsZero x && fpIsInf y)
    let infinity (negative : Bool) : Word := if negative then 0xFF800000 else 0x7F800000
    let product := fpNeg a != fpNeg c
    let madds : List Instr := [.fmadds frD frA frB frC rc, .fmsubs frD frA frB frC rc, .fnmadds frD frA frB frC rc,
      .fnmsubs frD frA frB frC rc]
    let noNan (x y : Word) : Bool := !fpIsNan x && !fpIsNan y
    (fpIsNan a || fpIsNan b →
      delivers (.fadds frD frA frB rc) (first a b) (snan [a, b]) ∧
      delivers (.fsubs frD frA frB rc) (first a b) (snan [a, b]) ∧
      delivers (.fdivs frD frA frB rc) (first a b) (snan [a, b])) ∧
    (fpIsNan a || fpIsNan c → delivers (.fmuls frD frA frC rc) (first a c) (snan [a, c])) ∧
    (fpIsNan b → delivers (.fres frD frB rc) (quiet b) (snan [b])) ∧
    (fpIsNan a || fpIsNan b || fpIsNan c → ∀ i ∈ madds, delivers i (if fpIsNan a then quiet a else first b c)
      (snan [a, b, c] ||| if timesZero a c then fpVXIMZ else 0)) ∧
    (fpIsInf a && fpIsInf b → delivers (.fdivs frD frA frB rc) 0x7FC00000 fpVXIDI) ∧
    (timesZero a c → delivers (.fmuls frD frA frC rc) 0x7FC00000 fpVXIMZ ∧
      (fpIsNan b = false → ∀ i ∈ madds, delivers i 0x7FC00000 fpVXIMZ)) ∧
    (fpIsZero a && fpIsZero b → delivers (.fdivs frD frA frB rc) 0x7FC00000 fpVXZDZ) ∧
    (noNan a b = true → fpIsInf a || fpIsInf b →
      let sum (i : Instr) (nb : Bool) : Prop :=
        if fpIsInf a = true ∧ fpIsInf b = true ∧ fpNeg a ≠ nb then delivers i 0x7FC00000 fpVXISI
        else delivers i (infinity (if fpIsInf a then fpNeg a else nb)) 0
      sum (.fadds frD frA frB rc) (fpNeg b) ∧ sum (.fsubs frD frA frB rc) (!fpNeg b) ∧
      (fpIsInf b = false → delivers (.fdivs frD frA frB rc) (infinity (fpNeg a != fpNeg b)) 0) ∧
      (fpIsInf a = false →
        delivers (.fdivs frD frA frB rc) (if fpNeg a != fpNeg b then 0x80000000 else 0x00000000) 0)) ∧
    (fpIsInf b → delivers (.fres frD frB rc) (if fpNeg b then 0x80000000 else 0x00000000) 0) ∧
    (noNan a c = true → fpIsInf a || fpIsInf c → timesZero a c = false →
      delivers (.fmuls frD frA frC rc) (infinity product) 0) ∧
    (noNan a c = true → fpIsNan b = false → timesZero a c = false → fpIsInf a || fpIsInf b || fpIsInf c →
      let sum (i : Instr) (nb negated : Bool) : Prop :=
        if (fpIsInf a || fpIsInf c) = true ∧ fpIsInf b = true ∧ product ≠ nb then delivers i 0x7FC00000 fpVXISI
        else delivers i (infinity ((if fpIsInf a || fpIsInf c then product else nb) != negated)) 0
      sum (.fmadds frD frA frB frC rc) (fpNeg b) false ∧ sum (.fmsubs frD frA frB frC rc) (!fpNeg b) false ∧
      sum (.fnmadds frD frA frB frC rc) (fpNeg b) true ∧ sum (.fnmsubs frD frA frB frC rc) (!fpNeg b) true)

/-- frsp keeps a single datum; fctiw and fctiwz round to an integer word or saturate (R440, R441, R442, R403, R411). What an invalid conversion with VE = 1 leaves in FR, FI and FPRF is log entry 36, frsp of a denormalized datum log entry 15, the exception with FEX standing log entry 38. That frsp of a signalling NaN with VE = 1 leaves FR, FI and FPRF is the model's choice, R403 c over the words of R440 that clear FR and FI (log entry 37) -/
def Obligations.FloatConversions : Prop :=
  ∀ (s : State) (frD frB : Reg) (rc : Bool), FpReady s [] →
    s.isSingle frB = true → fpIsDenormal (s.fprData frB) = false →
    let w := s.fprData frB
    let x := fpValue w
    let snan : Word := if fpIsSnan w then fpVXSNAN else 0
    let trapped (raised : Word) : Prop := raised &&& 0x01F80700 ≠ 0 ∧ ibmBit s.fpscr 24 = true
    let gives (i : Instr) (v raised : Word) (fr fi : Bool) : Prop :=
      ∃ u c, (if trapped raised then FloatKeeps s u rc else FloatWrites s u frD v false rc) ∧
        FpscrAfter raised (some fr) (some fi) (some c) s.fpscr u.fpscr ∧ EndsFloat (exec i s) s u
    let converts (i : Instr) (rn : BitVec 2) : Prop :=
      if fpIsNan w then gives i 0x80000000 (fpVXCVI ||| snan) false false
      else if fpIsInf w then gives i (if fpNeg w then 0x80000000 else 0x7FFFFFFF) fpVXCVI false false
      else ∃ z : ℤ, RoundsToInt rn x z ∧
        if 2 ^ 31 ≤ z then gives i 0x7FFFFFFF fpVXCVI false false
        else if z < -2 ^ 31 then gives i 0x80000000 fpVXCVI false false
        else gives i (BitVec.ofInt 32 z) (if (z : ℚ) = x then 0 else fpXX) (decide (|x| < |(z : ℚ)|))
          (decide ((z : ℚ) ≠ x))
    (∃ u, (if trapped snan then FloatKeeps s u rc ∧ FpscrAfter snan none none none s.fpscr u.fpscr
        else FloatWrites s u frD (if fpIsNan w then w ||| 0x00400000 else w) true rc ∧
          FpscrAfter snan (some false) (some false) (some (fpClass w)) s.fpscr u.fpscr) ∧
      EndsFloat (exec (.frsp frD frB rc) s) s u) ∧
    converts (.fctiw frD frB rc) (s.fpscr.extractLsb' 0 2) ∧ converts (.fctiwz frD frB rc) 1

/-- fcmpu and fcmpo write less, greater, equal or unordered to a CR field and FPCC (R445, R446, R53, R411). The exception with FEX standing is log entry 38. -/
def Obligations.FloatCompares : Prop :=
  ∀ (s : State) (crfD : BitVec 3) (frA frB : Reg), s.msrBit msrFP = true →
    s.isSingle frA = true → s.isSingle frB = true →
    let a := s.fprData frA
    let b := s.fprData frB
    let less (x y : Word) : Prop :=
      (fpIsInf x = true ∧ fpNeg x = true ∧ ¬(fpIsInf y = true ∧ fpNeg y = true)) ∨
      (fpIsInf y = true ∧ fpNeg y = false ∧ ¬(fpIsInf x = true ∧ fpNeg x = false)) ∨
      (fpFinite x ∧ fpFinite y ∧ fpValue x < fpValue y)
    let snan := fpIsSnan a || fpIsSnan b
    let compares (i : Instr) (raised : Word) : Prop :=
      ∃ u lt gt eq un, (un = true ↔ fpIsNan a = true ∨ fpIsNan b = true) ∧
        (lt = true ↔ un = false ∧ less a b) ∧ (gt = true ↔ un = false ∧ less b a) ∧
        (eq = true ↔ un = false ∧ lt = false ∧ gt = false) ∧ CrFieldIs crfD lt gt eq un s u ∧
        FpscrAfter raised none none
          (some (BitVec.ofBool (ibmBit s.fpscr 15) ++ BitVec.ofBool lt ++ BitVec.ofBool gt ++ BitVec.ofBool eq ++
            BitVec.ofBool un)) s.fpscr u.fpscr ∧
        u = { s with cr := u.cr, fpscr := u.fpscr } ∧ EndsFloat (exec i s) s u
    compares (.fcmpu crfD frA frB) (if snan then fpVXSNAN else 0) ∧
    compares (.fcmpo crfD frA frB)
      (if snan then fpVXSNAN ||| (if ibmBit s.fpscr 24 then 0 else fpVXVC)
       else if fpIsNan a || fpIsNan b then fpVXVC else 0)

/-- fmr, fneg, fabs, fnabs and fsel move a datum with its tags and leave the FPSCR (R44, R450, R451, R452, R453, R454, R47). That fsel does not look at the source it does not select is log entry 39 (DEDUCED; R44 speaks of reading an FPR as an operand) -/
def Obligations.FloatMoves : Prop :=
  ∀ (s : State) (frD frA frB frC : Reg) (rc : Bool), s.msrBit msrFP = true →
    let moves (i : Instr) (w : Word) (single : Bool) : Prop :=
      ∃ t, FloatResult (exec i s) s t frD w single rc ∧ t.fpscr = s.fpscr
    let b := s.fprData frB
    (s.isTagged frB = true → moves (.fmr frD frB rc) b (s.spTag frB)) ∧
    (s.isSingle frB = true →
      moves (.fneg frD frB rc) (BitVec.ofBool (!b.getLsbD 31) ++ b.extractLsb' 0 31) true ∧
      moves (.fabs frD frB rc) (BitVec.ofBool false ++ b.extractLsb' 0 31) true ∧
      moves (.fnabs frD frB rc) (BitVec.ofBool true ++ b.extractLsb' 0 31) true) ∧
    (s.isSingle frA = true →
      let a := s.fprData frA
      let source := if fpIsNan a = false ∧ (fpNeg a = false ∨ fpIsZero a = true) then frC else frB
      s.isTagged source = true → moves (.fsel frD frA frB frC rc) (s.fprData source) (s.spTag source))

/-- mffs, mcrfs, mtfsfi, mtfsf, mtfsb0 and mtfsb1: the FPSCR bits they read and write (R460, R461, R462, R463, R464, R465, R52, R411, R757). The exception with FEX standing is log entry 38. -/
def Obligations.FpscrMoves : Prop :=
  ∀ (s : State) (frD frB : Reg) (crfD crfS : BitVec 3) (imm : BitVec 4) (fm : BitVec 8) (crbD : BitVec 5) (rc : Bool),
    s.msrBit msrFP = true →
    let f := s.fpscr
    let writes (i : Instr) (rec : Bool) (crWritten : State → Prop) (bit : Nat → Bool) : Prop :=
      ∃ t, EndsFloat (exec i s) s t ∧ FpscrSummed t.fpscr ∧
        (∀ k, k < 32 → k ≠ 1 → k ≠ 2 → k ≠ 20 → ibmBit t.fpscr k = bit k) ∧ ibmBit t.fpscr 20 = false ∧
        (rec = true → Cr1After rc s t) ∧ crWritten t ∧ t = { s with cr := t.cr, fpscr := t.fpscr }
    let any : State → Prop := fun _ => True
    (∃ t, FloatResult (exec (.mffs frD rc) s) s t frD f false rc ∧ t.fpscr = f) ∧
    writes (.mcrfs crfD crfS) false
      (fun t => CrFieldIs crfD (ibmBit f (4 * crfS.toNat)) (ibmBit f (4 * crfS.toNat + 1)) (ibmBit f (4 * crfS.toNat + 2))
        (ibmBit f (4 * crfS.toNat + 3)) s t)
      (fun k => ibmBit f k && !(decide (k / 4 = crfS.toNat) && (k == 0 || fpscrExceptions.contains k))) ∧
    writes (.mtfsfi crfD imm rc) true any
      (fun k => if k / 4 = crfD.toNat then imm.getLsbD (3 - k % 4) else ibmBit f k) ∧
    (s.isTagged frB = true → writes (.mtfsf fm frB rc) true any
      (fun k => if fm.getLsbD (7 - k / 4) then
          ibmBit (if s.spTag frB then (toDouble (s.fprData frB)).extractLsb' 0 32 else s.fprData frB) k
        else ibmBit f k)) ∧
    writes (.mtfsb0 crbD rc) true any (fun k => ibmBit f k && k != crbD.toNat) ∧
    writes (.mtfsb1 crbD rc) true any
      (fun k => ibmBit f k || k == crbD.toNat ||
        (k == 0 && fpscrExceptions.contains crbD.toNat && !ibmBit f crbD.toNat))

/-- Every integer load form: the datum, the base of an update form, and nothing else; a load that stops (R142, R150, R156, R161, R480, R481, R482, R486, R490, R494, R510, R511). What a load sees is fixed but for log entries 21 (no RAM), 28 (TEA), 53 (cached copies) and 54 (gaps) -/
def Obligations.IntegerLoads : Prop :=
  ∀ (s : State) (rD rA rB : Reg) (d : BitVec 16), s.gprsUsable [rD, rA, rB] = true → s.leView = false →
    let eaD : Word := (if rA = 0 then 0 else s.readGpr rA) + d.signExtend 32
    let eaX : Word := (if rA = 0 then 0 else s.readGpr rA) + s.readGpr rB
    let eaDU : Word := s.readGpr rA + d.signExtend 32
    let eaXU : Word := s.readGpr rA + s.readGpr rB
    let zero (bs : List Byte) : Word := BitVec.ofNat 32 (bigEndian bs)
    let sign (bs : List Byte) : Word := (BitVec.ofNat 16 (bigEndian bs)).signExtend 32
    let little (bs : List Byte) : Word := BitVec.ofNat 32 (bigEndian bs.reverse)
    let loads (i : Instr) (n : Nat) (ea : Word) (base : Option Reg) (f : List Byte → Word) : Prop :=
      (∀ places, Places s ea n false places →
        ∃ bs t, exec i s = .next t ∧ SeesAll s (lastPart ea n) (fun k => if ea.toNat % n = 0 then 0 else k) places bs ∧
          TeaLoaded (lastPart ea n) places s t ∧ Loaded rD (f bs) base ea (gaps s (lastPart ea n)) t) ∧
      ∀ k e, k < n → (ea.toNat % n = 0 → k = 0) →
        (∀ j, j < k → ∃ pa, translateData s (ea + BitVec.ofNat 32 j) false = .ok pa) →
        translateData s (ea + BitVec.ofNat 32 k) false = .error e → exec i s = e.outcome s
    loads (.lbz rD rA d) 1 eaD none zero ∧ loads (.lbzx rD rA rB) 1 eaX none zero ∧
    loads (.lhz rD rA d) 2 eaD none zero ∧ loads (.lhzx rD rA rB) 2 eaX none zero ∧
    loads (.lha rD rA d) 2 eaD none sign ∧ loads (.lhax rD rA rB) 2 eaX none sign ∧
    loads (.lwz rD rA d) 4 eaD none zero ∧ loads (.lwzx rD rA rB) 4 eaX none zero ∧
    loads (.lhbrx rD rA rB) 2 eaX none little ∧ loads (.lwbrx rD rA rB) 4 eaX none little ∧
    (rA ≠ 0 → rA ≠ rD →
      loads (.lbzu rD rA d) 1 eaDU (some rA) zero ∧ loads (.lbzux rD rA rB) 1 eaXU (some rA) zero ∧
      loads (.lhzu rD rA d) 2 eaDU (some rA) zero ∧ loads (.lhzux rD rA rB) 2 eaXU (some rA) zero ∧
      loads (.lhau rD rA d) 2 eaDU (some rA) sign ∧ loads (.lhaux rD rA rB) 2 eaXU (some rA) sign ∧
      loads (.lwzu rD rA d) 4 eaDU (some rA) zero ∧ loads (.lwzux rD rA rB) 4 eaXU (some rA) zero)

/-- Every integer store form: the bytes stored and where, the base of an update form, and nothing else; a store that stops (R142, R150, R156, R161, R220, R480, R481, R498, R502, R506, R512, R513). What stands where is log entry 21; the gaps between the parts are log entry 54, the cached copies log entry 53. -/
def Obligations.IntegerStores : Prop :=
  ∀ (s : State) (rS rA rB : Reg) (d : BitVec 16), s.gprsUsable [rS, rA, rB] = true → s.leView = false →
    s.mem.wf = true →
    let eaD : Word := (if rA = 0 then 0 else s.readGpr rA) + d.signExtend 32
    let eaX : Word := (if rA = 0 then 0 else s.readGpr rA) + s.readGpr rB
    let eaDU : Word := s.readGpr rA + d.signExtend 32
    let eaXU : Word := s.readGpr rA + s.readGpr rB
    let stores (i : Instr) (n : Nat) (ea : Word) (base : Option Reg) (order : List Byte → List Byte) : Prop :=
      let bytes := order (bigEndianBytes n (s.readGpr rS).toNat)
      (∀ places, Places s ea n true places →
        ∃ t, exec i s = .next t ∧ StoreEffect s (lastPart ea n) places bytes t ∧
          OnlyStore base ea (gaps s (lastPart ea n)) t) ∧
      ∀ k e places, k < n → (ea.toNat % n = 0 → k = 0) →
        List.Forall₂ (fun j pa => translateData s (ea + BitVec.ofNat 32 j) true = .ok pa) (List.range k) places →
        translateData s (ea + BitVec.ofNat 32 k) true = .error e →
        ∃ t, exec i s = e.outcome t ∧ StoreEffect s k places (bytes.take k) t ∧ StoppedStore (gaps s k) t ∧
          (k = 0 → t = s)
    stores (.stb rS rA d) 1 eaD none id ∧ stores (.stbx rS rA rB) 1 eaX none id ∧
    stores (.sth rS rA d) 2 eaD none id ∧ stores (.sthx rS rA rB) 2 eaX none id ∧
    stores (.stw rS rA d) 4 eaD none id ∧ stores (.stwx rS rA rB) 4 eaX none id ∧
    stores (.sthbrx rS rA rB) 2 eaX none List.reverse ∧ stores (.stwbrx rS rA rB) 4 eaX none List.reverse ∧
    (rA ≠ 0 →
      stores (.stbu rS rA d) 1 eaDU (some rA) id ∧ stores (.stbux rS rA rB) 1 eaXU (some rA) id ∧
      stores (.sthu rS rA d) 2 eaDU (some rA) id ∧ stores (.sthux rS rA rB) 2 eaXU (some rA) id ∧
      stores (.stwu rS rA d) 4 eaDU (some rA) id ∧ stores (.stwux rS rA rB) 4 eaXU (some rA) id)

/-- Floating-point loads copy a single, convert a double that is one, and trap on a double that is not (R536, R537, R538, R539, R540, R541, R542, R543, R544, R545, R401, R161). What a load sees is fixed but for log entries 21 (no RAM), 28 (TEA), 53 (cached copies) and 54 (gaps) -/
def Obligations.FloatLoads : Prop :=
  ∀ (s : State) (frD rA rB : Reg) (d : BitVec 16), s.msrBit msrFP = true → s.gprsUsable [rA, rB] = true →
    s.leView = false →
    let eaD : Word := (if rA = 0 then 0 else s.readGpr rA) + d.signExtend 32
    let eaX : Word := (if rA = 0 then 0 else s.readGpr rA) + s.readGpr rB
    let eaDU : Word := s.readGpr rA + d.signExtend 32
    let eaXU : Word := s.readGpr rA + s.readGpr rB
    let completes (i : Instr) (v : Word) (base : Option Reg) (ea : Word) (places : List Word) (m : Nat) : Prop :=
      ∃ t, exec i s = .next t ∧ t.fprData frD = v ∧ t.isSingle frD = true ∧ TeaLoaded m places s t ∧
        OnlyFloatLoad frD base ea (gaps s m) t
    let single (i : Instr) (ea : Word) (base : Option Reg) : Prop :=
      ea.toNat % 4 = 0 →
      (∀ e, translateData s ea false = .error e → exec i s = e.outcome s) ∧
      ∀ pa, translateData s ea false = .ok pa →
        ∃ bs, SeesAll s 0 (fun _ => 0) (placesFrom pa 4) bs ∧
          completes i (BitVec.ofNat 32 (bigEndian bs)) base ea (placesFrom pa 4) 0
    let double (i : Instr) (ea : Word) (base : Option Reg) : Prop :=
      ea.toNat % 4 = 0 →
      (∀ e, translateData s ea false = .error e → exec i s = e.outcome s) ∧
      ∀ pa0, translateData s ea false = .ok pa0 →
        (∀ e, translateData s (ea + 4) false = .error e → exec i s = e.outcome s) ∧
        ∀ pa1, translateData s (ea + 4) false = .ok pa1 →
          let places := placesFrom pa0 4 ++ placesFrom pa1 4
          ∃ bs, SeesAll s 1 (fun k => k / 4) places bs ∧
            let D : BitVec 64 := BitVec.ofNat 64 (bigEndian bs)
            (∀ v, toDouble v = D → completes i v base ea places 1) ∧
            ((∀ v, toDouble v ≠ D) → ∃ t, Raises (exec i s) .emulation 0 t ∧ TeaLoaded 1 places s t ∧
              t = { gaps s 1 with teaNext := t.teaNext, teaUnrecognised := t.teaUnrecognised })
    single (.lfs frD rA d) eaD none ∧ single (.lfsx frD rA rB) eaX none ∧
    double (.lfd frD rA d) eaD none ∧ double (.lfdx frD rA rB) eaX none ∧
    (rA ≠ 0 → single (.lfsu frD rA d) eaDU (some rA) ∧ single (.lfsux frD rA rB) eaXU (some rA) ∧
      double (.lfdu frD rA d) eaDU (some rA) ∧ double (.lfdux frD rA rB) eaXU (some rA))

/-- Floating-point stores: the single, its exact double image, or an integer word under a free high word (R546, R547, R548, R549, R550, R551, R552, R553, R161, R220, R481). That both words are translated before one is stored is log entry 48; the map is log entry 21, the gap log entry 54, the cached copies log entry 53. -/
def Obligations.FloatStores : Prop :=
  ∀ (s : State) (frS rA rB : Reg) (d : BitVec 16), s.msrBit msrFP = true → s.gprsUsable [rA, rB] = true →
    s.leView = false → s.mem.wf = true →
    let eaD : Word := (if rA = 0 then 0 else s.readGpr rA) + d.signExtend 32
    let eaX : Word := (if rA = 0 then 0 else s.readGpr rA) + s.readGpr rB
    let eaDU : Word := s.readGpr rA + d.signExtend 32
    let eaXU : Word := s.readGpr rA + s.readGpr rB
    let w := s.fprData frS
    let single (i : Instr) (ea : Word) (base : Option Reg) : Prop :=
      ea.toNat % 4 = 0 → s.isSingle frS = true →
      (∀ e, translateData s ea true = .error e → exec i s = e.outcome s) ∧
      ∀ pa, translateData s ea true = .ok pa →
        ∃ t, exec i s = .next t ∧ StoreEffect s 0 (placesFrom pa 4) (bigEndianBytes 4 w.toNat) t ∧ OnlyStore base ea s t
    let double (i : Instr) (ea : Word) (base : Option Reg) : Prop :=
      ea.toNat % 4 = 0 → s.isSingle frS = true ∨ s.isIntTagged frS = true →
      (∀ e, translateData s ea true = .error e → exec i s = e.outcome s) ∧
      ∀ pa0, translateData s ea true = .ok pa0 →
        (∀ e, translateData s (ea + 4) true = .error e → exec i s = e.outcome s) ∧
        ∀ pa1, translateData s (ea + 4) true = .ok pa1 → (∀ a ∈ placesFrom pa0 4, a ∉ placesFrom pa1 4) →
          ∃ (t : State) (D : BitVec 64), exec i s = .next t ∧ (s.isSingle frS = true → D = toDouble w) ∧
            (s.isIntTagged frS = true → D.extractLsb' 0 32 = w) ∧
            StoreEffect s 1 (placesFrom pa0 4 ++ placesFrom pa1 4) (bigEndianBytes 8 D.toNat) t ∧
            OnlyStore base ea (gaps s 1) t
    single (.stfs frS rA d) eaD none ∧ single (.stfsx frS rA rB) eaX none ∧
    double (.stfd frS rA d) eaD none ∧ double (.stfdx frS rA rB) eaX none ∧
    (rA ≠ 0 → single (.stfsu frS rA d) eaDU (some rA) ∧ single (.stfsux frS rA rB) eaXU (some rA) ∧
      double (.stfdu frS rA d) eaDU (some rA) ∧ double (.stfdux frS rA rB) eaXU (some rA))

/-- lmw and stmw move registers from the first named to GPR31 from or to successive words, or stop at one (R520, R521, R161, R481). How many words have moved before a stop is free, log entry 29; the map, TEA, the cached copies and the gaps are log entries 21, 28, 53 and 54. -/
def Obligations.LoadStoreMultiple : Prop :=
  ∀ (s : State) (r rA : Reg) (d : BitVec 16) (place : Nat → Word), s.gprsUsable [r, 31, rA] = true → s.leView = false →
    let ea : Word := (if rA = 0 then 0 else s.readGpr rA) + d.signExtend 32
    let n := 32 - r.toNat
    let places (k : Nat) : List Word := (List.range k).flatMap fun j => placesFrom (place j) 4
    let word (bs : List Byte) (k : Nat) : Nat := bigEndian ((bs.drop (4 * k)).take 4)
    let bytes (k : Nat) : List Byte :=
      (List.range k).flatMap fun j => bigEndianBytes 4 (s.readGpr (r + BitVec.ofNat 5 j)).toNat
    let mapped (store : Bool) (k : Nat) : Prop :=
      ∀ j, j < k → translateData s (ea + BitVec.ofNat 32 (4 * j)) store = .ok (place j)
    let apart (k : Nat) : Prop := ∀ i j, i < j → j < k → ∀ a ∈ placesFrom (place i) 4, a ∉ placesFrom (place j) 4
    ea.toNat % 4 = 0 →
    (rA < r →
      (mapped false n →
        ∃ bs t, exec (.lmw r rA d) s = .next t ∧ SeesAll s (n - 1) (fun k => k / 4) (places n) bs ∧
          (∀ k, k < n → (t.readGpr (r + BitVec.ofNat 5 k)).toNat = word bs k) ∧
          (∀ q, q < r → t.readGpr q = s.readGpr q) ∧ TeaLoaded (n - 1) (places n) s t ∧ SameBank s t ∧
          t = { gaps s (n - 1) with gpr := t.gpr, tgpr := t.tgpr, teaNext := t.teaNext
                                    teaUnrecognised := t.teaUnrecognised, cia := s.cia + 4 }) ∧
      ∀ k e, k < n → mapped false k → translateData s (ea + BitVec.ofNat 32 (4 * k)) false = .error e →
        ∃ bs j t, exec (.lmw r rA d) s = e.outcome t ∧ SeesAll s (k - 1) (fun k => k / 4) (places k) bs ∧ j ≤ k ∧
          (∀ i, i < j → (t.readGpr (r + BitVec.ofNat 5 i)).toNat = word bs i) ∧
          (∀ q, q < r ∨ r.toNat + j ≤ q.toNat → t.readGpr q = s.readGpr q) ∧ (0 < k → TeaLoaded (k - 1) (places k) s t) ∧
          SameBank s t ∧ (k = 0 → t = s) ∧
          t = { gaps s (k - 1) with gpr := t.gpr, tgpr := t.tgpr, teaNext := t.teaNext
                                    teaUnrecognised := t.teaUnrecognised }) ∧
    (s.mem.wf = true →
      (mapped true n → apart n →
        ∃ t, exec (.stmw r rA d) s = .next t ∧ StoreEffect s (n - 1) (places n) (bytes n) t ∧
          OnlyStore none ea (gaps s (n - 1)) t) ∧
      ∀ k e, k < n → mapped true k → apart k → translateData s (ea + BitVec.ofNat 32 (4 * k)) true = .error e →
        ∃ j t, exec (.stmw r rA d) s = e.outcome t ∧ j ≤ k ∧ StoreEffect s (j - 1) (places j) (bytes j) t ∧
          StoppedStore (gaps s (j - 1)) t ∧ (j = 0 → t = s))

/-- lwarx reserves the granule it loads from; stwcx. stores only under a reservation; what else ends one (R210, R211, R212, R530, R531, R165, R752, R803, R161, R220). The granule of 32 bytes is the model's choice, log entry 5, and that nap and sleep do not snoop is log entry 43; what lwarx sees and stwcx. stores is fixed but for log entries 21 (no RAM), 28 (TEA) and 53 (cached copies), each being one access by log entry 54. -/
def Obligations.Reservations : Prop :=
  (∀ (s : State) (a : Word) (v : Byte), ∀ e ∈ [BusEvent.write a v, .claim a],
    (applyBus s e).reserve =
      if (s.power = .full ∨ s.power = .doze) ∧ s.reserve = some (BitVec.ofNat 32 (a.toNat / 32 * 32)) then none
      else s.reserve) ∧
  (∀ s : State, (hardReset s).reserve = none) ∧
  ∀ (s : State) (r rA rB : Reg), s.gprsUsable [r, rA, rB] = true → s.leView = false →
    let ea : Word := (if rA = 0 then 0 else s.readGpr rA) + s.readGpr rB
    let granule (pa : Word) : Word := BitVec.ofNat 32 (pa.toNat / 32 * 32)
    ea.toNat % 4 = 0 →
    (∀ e, translateData s ea false = .error e → exec (.lwarx r rA rB) s = e.outcome s) ∧
    (∀ e, translateData s ea true = .error e → exec (.stwcxRc r rA rB true) s = e.outcome s) ∧
    (∀ pa, translateData s ea false = .ok pa →
      ∃ bs t, exec (.lwarx r rA rB) s = .next t ∧ t.reserve = some (granule pa) ∧
        SeesAll s 0 (fun _ => 0) (placesFrom pa 4) bs ∧ TeaLoaded 0 (placesFrom pa 4) s t ∧
        Loaded r (BitVec.ofNat 32 (bigEndian bs)) none ea s { t with reserve := s.reserve }) ∧
    ∀ pa, translateData s ea true = .ok pa → s.mem.wf = true →
      ∃ t ok, exec (.stwcxRc r rA rB true) s = .next t ∧ t.reserve = none ∧
        CrFieldIs 0 false false ok (ibmBit s.xer 0) s t ∧
        (s.reserve = none → ok = false) ∧ (s.reserve = some (granule pa) → ok = true) ∧
        (ok = true → StoreEffect s 0 (placesFrom pa 4) (bigEndianBytes 4 (s.readGpr r).toNat) t) ∧
        (ok = false → t = { s with reserve := none, cr := t.cr, cia := s.cia + 4 }) ∧
        OnlyStore none ea s { t with reserve := s.reserve, cr := s.cr }

/-- Misaligned operands take the alignment exception; with LE = 1 every fetch and every other data access stops by name (R151, R155, R157, R480, R755). That LE = 1 refuses what it does not trap is log entry 40 (R755 says the trap cannot arise; R157 names it); that an unusable source tag is refused before the alignment exception is log entry 58; the rest of the entry is ExceptionEntry's. -/
def Obligations.MisalignedOperands : Prop :=
  ∀ (s : State) (r rA rB : Reg) (d : BitVec 16),
    let eaD : Word := (if rA = 0 then 0 else s.readGpr rA) + d.signExtend 32
    let eaX : Word := (if rA = 0 then 0 else s.readGpr rA) + s.readGpr rB
    let eaDU : Word := s.readGpr rA + d.signExtend 32
    let eaXU : Word := s.readGpr rA + s.readGpr rB
    let opD (op : Nat) : Nat := op % 2 * 16 + op / 2 % 16
    let opX (xo : Nat) : Nat := xo % 4 * 32 + xo / 32 % 2 * 16 + xo / 64
    let traps (i : Instr) (ea : Word) (head : Nat) (knownA : Bool) : Prop :=
      ∃ dsisr : Word, dsisr.toNat / 2 ^ 10 = head ∧ dsisr.toNat / 32 % 32 = r.toNat ∧
        (knownA = true → dsisr.toNat % 32 = rA.toNat) ∧ Raises (exec i s) .alignment 0 { s with dsisr := dsisr, dar := ea }
    let stops (i : Instr) : Prop := s.leView = true → exec i s = .refused .littleEndianMode
    let access (m n : Nat) (i : Instr) (ea : Word) (head : Nat) (knownA : Bool) : Prop :=
      (ea.toNat % m ≠ 0 ∨ (s.leView = true ∧ ea.toNat % n ≠ 0) → traps i ea head knownA) ∧
      (ea.toNat % m = 0 → ea.toNat % n = 0 → stops i)
    let multiple (i : Instr) (op : Nat) : Prop := eaD.toNat % 4 ≠ 0 ∨ s.leView = true → traps i eaD (opD op) true
    let forms (m n : Nat) (i u x ux : Instr) (op opU xo xoU : Nat) (loads fp : Bool) : Prop :=
      (s.gprsUsable (if fp then [rA] else [r, rA]) = true →
        access m n i eaD (opD op) false ∧
        (rA ≠ 0 → loads = false ∨ rA ≠ r → access m n u eaDU (opD opU) true)) ∧
      (s.gprsUsable (if fp then [rA, rB] else [r, rA, rB]) = true →
        access m n x eaX (opX xo) false ∧
        (rA ≠ 0 → loads = false ∨ rA ≠ r → access m n ux eaXU (opX xoU) true))
    (s.leView = true → fetch s = .error (.refused .littleEndianMode)) ∧
    forms 1 1 (.lbz r rA d) (.lbzu r rA d) (.lbzx r rA rB) (.lbzux r rA rB) 34 35 87 119 true false ∧
    forms 1 2 (.lhz r rA d) (.lhzu r rA d) (.lhzx r rA rB) (.lhzux r rA rB) 40 41 279 311 true false ∧
    forms 1 2 (.lha r rA d) (.lhau r rA d) (.lhax r rA rB) (.lhaux r rA rB) 42 43 343 375 true false ∧
    forms 1 4 (.lwz r rA d) (.lwzu r rA d) (.lwzx r rA rB) (.lwzux r rA rB) 32 33 23 55 true false ∧
    forms 1 1 (.stb r rA d) (.stbu r rA d) (.stbx r rA rB) (.stbux r rA rB) 38 39 215 247 false false ∧
    forms 1 2 (.sth r rA d) (.sthu r rA d) (.sthx r rA rB) (.sthux r rA rB) 44 45 407 439 false false ∧
    forms 1 4 (.stw r rA d) (.stwu r rA d) (.stwx r rA rB) (.stwux r rA rB) 36 37 151 183 false false ∧
    (s.msrBit msrFP = true →
      forms 4 4 (.lfs r rA d) (.lfsu r rA d) (.lfsx r rA rB) (.lfsux r rA rB) 48 49 535 567 false true ∧
      forms 4 8 (.lfd r rA d) (.lfdu r rA d) (.lfdx r rA rB) (.lfdux r rA rB) 50 51 599 631 false true ∧
      (s.isSingle r = true →
        forms 4 4 (.stfs r rA d) (.stfsu r rA d) (.stfsx r rA rB) (.stfsux r rA rB) 52 53 663 695 false true) ∧
      (s.isSingle r = true ∨ s.isIntTagged r = true →
        forms 4 8 (.stfd r rA d) (.stfdu r rA d) (.stfdx r rA rB) (.stfdux r rA rB) 54 55 727 759 false true)) ∧
    (s.gprsUsable [r, 31, rA] = true → (rA < r → multiple (.lmw r rA d) 46) ∧ multiple (.stmw r rA d) 47) ∧
    (s.gprsUsable [r, rA, rB] = true →
      access 1 2 (.lhbrx r rA rB) eaX (opX 790) false ∧ access 1 4 (.lwbrx r rA rB) eaX (opX 534) false ∧
      access 1 2 (.sthbrx r rA rB) eaX (opX 918) false ∧ access 1 4 (.stwbrx r rA rB) eaX (opX 662) false ∧
      access 4 4 (.lwarx r rA rB) eaX (opX 20) false ∧ access 4 4 (.stwcxRc r rA rB true) eaX (opX 150) false) ∧
    (s.gprsUsable [rA, rB] = true →
      stops (.dcbst rA rB) ∧ stops (.dcbf rA rB) ∧ stops (.icbi rA rB) ∧ stops (.dcbz rA rB) ∧
      (s.prView = false → stops (.dcbi rA rB)))

/-- b, bc, bclr and bcctr: CTR, the condition, LR and the target (R570, R571, R572, R573, R575, R576) -/
def Obligations.Branches : Prop :=
  ∀ (s : State) (bo bi : BitVec 5) (bd : BitVec 14) (li : BitVec 24) (aa lk : Bool),
    let ctr : Word := if bo.getLsbD 2 then s.ctr else s.ctr - 1
    let cond : Bool := bo.getLsbD 4 || (ibmBit s.cr bi.toNat == bo.getLsbD 3)
    let taken : Bool := (bo.getLsbD 2 || (decide (ctr ≠ 0) != bo.getLsbD 1)) && cond
    let target (z : Int) : Word := (if aa then 0 else s.cia) + BitVec.ofInt 32 (4 * z)
    let aligned (w : Word) : Word := BitVec.ofNat 32 (w.toNat / 4 * 4)
    let goes (i : Instr) (newCtr : Word) (jumps : Bool) (dest : Word) : Prop :=
      exec i s = .next { s with
        ctr := newCtr
        lr := if lk then s.cia + 4 else s.lr
        cia := if jumps then aligned dest else s.cia + 4 }
    goes (.b li aa lk) s.ctr true (target li.toInt) ∧
    (boOk bo = true → goes (.bc bo bi bd aa lk) ctr taken (target bd.toInt) ∧ goes (.bclr bo bi lk) ctr taken s.lr) ∧
    (boOk bo = true → bo.getLsbD 2 = true → goes (.bcctr bo bi lk) s.ctr cond s.ctr)

/-- Targets taken from LR and CTR: the two low bits are ignored, the register keeps all 32 bits (R574) -/
def Obligations.BranchTargetRegisters : Prop :=
  ∀ (s : State) (bi : BitVec 5),
    exec (.bclr 20 bi false) s = .next { s with cia := s.lr.extractLsb' 2 30 ++ (0 : BitVec 2) } ∧
    exec (.bcctr 20 bi false) s = .next { s with cia := s.ctr.extractLsb' 2 30 ++ (0 : BitVec 2) } ∧
    exec (.bclr 20 bi true) s = .next { s with cia := s.lr.extractLsb' 2 30 ++ (0 : BitVec 2), lr := s.cia + 4 } ∧
    exec (.bcctr 20 bi true) s = .next { s with cia := s.ctr.extractLsb' 2 30 ++ (0 : BitVec 2), lr := s.cia + 4 }

/-- tw and twi take the trap exception exactly where a selected comparison holds (R590). What else an entry leaves is ExceptionEntry's, with log entries 2 and 3. -/
def Obligations.Traps : Prop :=
  ∀ (s : State) (trapOn : BitVec 5) (rA rB : Reg) (simm : BitVec 16),
    let traps (i : Instr) (a b : Word) : Prop :=
      let hit : Prop := (trapOn.getLsbD 4 = true ∧ a.toInt < b.toInt) ∨ (trapOn.getLsbD 3 = true ∧ b.toInt < a.toInt) ∨
        (trapOn.getLsbD 2 = true ∧ a = b) ∨ (trapOn.getLsbD 1 = true ∧ a.toNat < b.toNat) ∨
        (trapOn.getLsbD 0 = true ∧ b.toNat < a.toNat)
      (hit → ∃ t, exec i s = .next t ∧ t = takeException .program s.cia 0x00020000 s ∧ t.srr0 = s.cia ∧
        ibmBit t.srr1 14 = true ∧ t.cia.toNat % 2 ^ 16 = 0x0700) ∧
      (¬hit → exec i s = .next { s with cia := s.cia + 4 }) ∧ (trapOn = 31 → hit) ∧ (trapOn = 0 → ¬hit)
    (s.gprsUsable [rA, rB] = true → traps (.tw trapOn rA rB) (s.readGpr rA) (s.readGpr rB)) ∧
    (s.gprsUsable [rA] = true → traps (.twi trapOn rA simm) (s.readGpr rA) (simm.signExtend 32))

/-- The CR logical instructions write one CR bit, mcrf one field; mfcr, mtcrf and mcrxr move by fields (R600, R602, R606, R607, R609, R632, R633, R634, R257) -/
def Obligations.ConditionRegister : Prop :=
  ∀ (s : State) (d a b : BitVec 5) (fd fs : BitVec 3) (r : Reg) (crm : BitVec 8),
    let writes (i : Instr) (f : Bool → Bool → Bool) : Prop :=
      ∃ t, exec i s = .next t ∧ ibmBit t.cr d.toNat = f (ibmBit s.cr a.toNat) (ibmBit s.cr b.toNat) ∧
        (∀ k, k < 32 → k ≠ d.toNat → ibmBit t.cr k = ibmBit s.cr k) ∧ t = { s with cr := t.cr, cia := s.cia + 4 }
    writes (.crand d a b) (fun x y => x && y) ∧ writes (.cror d a b) (fun x y => x || y) ∧
    writes (.crxor d a b) (fun x y => x != y) ∧ writes (.crnand d a b) (fun x y => !(x && y)) ∧
    writes (.crnor d a b) (fun x y => !(x || y)) ∧ writes (.creqv d a b) (fun x y => x == y) ∧
    writes (.crandc d a b) (fun x y => x && !y) ∧ writes (.crorc d a b) (fun x y => x || !y) ∧
    (∃ t, exec (.mcrf fd fs) s = .next t ∧
      CrFieldIs fd (ibmBit s.cr (4 * fs.toNat)) (ibmBit s.cr (4 * fs.toNat + 1)) (ibmBit s.cr (4 * fs.toNat + 2))
        (ibmBit s.cr (4 * fs.toNat + 3)) s t ∧ t = { s with cr := t.cr, cia := s.cia + 4 }) ∧
    (∃ t, exec (.mcrxr fd) s = .next t ∧
      CrFieldIs fd (ibmBit s.xer 0) (ibmBit s.xer 1) (ibmBit s.xer 2) (ibmBit s.xer 3) s t ∧
      (∀ k, k < 32 → ibmBit t.xer k = (ibmBit s.xer k && decide (4 ≤ k))) ∧
      t = { s with cr := t.cr, xer := t.xer, cia := s.cia + 4 }) ∧
    (s.gprsUsable [r] = true → Computes (.mfcr r) s r s.cr false none none ∧
      ∃ t, exec (.mtcrf r crm) s = .next t ∧
        (∀ k, k < 32 → ibmBit t.cr k = if crm.getLsbD (7 - k / 4) then ibmBit (s.readGpr r) k else ibmBit s.cr k) ∧
        t = { s with cr := t.cr, cia := s.cia + 4 })

/-- sc enters the system call exception: saved state, new MSR and vector (R580, R763, R741, R743, R745). The mask 0xFFFF0000 of IBR is the model's choice, log entry 3. -/
def Obligations.SystemCall : Prop :=
  ∀ (s : State), ∃ t, exec .sc s = .next t ∧ t.srr0 = s.cia + 4 ∧ t.srr1 = s.msr &&& 0x87C0FFFF ∧
    t.cia = (if s.ipView then 0xFFF00C00 else (s.ibr &&& 0xFFFF0000) ||| 0x00000C00) ∧
    t.msr = (s.msr &&& 0x00011040) ||| (if ibmBit s.msr 15 then 1 else 0) ∧ SameBytes s t ∧
    t = { s with srr0 := t.srr0, srr1 := t.srr1, msr := t.msr, cia := t.cia, power := .full, powPending := none,
                 deferred := [], windows := [], taken := some .systemCall }

/-- rfi restores the MSR from SRR1, clears TGPR and goes to SRR0; in user mode it traps (R746, R757, R844). The mask holds the model's places of AP and SA, log entry 2; the exception at the target is log entry 47 (DEDUCED) -/
def Obligations.ReturnFromInterrupt : Prop :=
  ∀ (s : State),
    (s.prView = false →
      let msr : Word := ((s.srr1 &&& 0x00C0FF73) ||| (s.msr &&& ~~~0x00C0FF73)) &&& ~~~0x00020000
      let target : Word := BitVec.ofNat 32 (s.srr0.toNat / 4 * 4)
      let t : State := { s with msr := msr, cia := target, windows := [] }
      (msr &&& 0x00000900 = 0 ∨ ibmBit s.fpscr 1 = false → exec .rfi s = .next t) ∧
      (msr &&& 0x00000900 ≠ 0 → ibmBit s.fpscr 1 = true →
        exec .rfi s = .next (takeException .program target 0x00100000 t))) ∧
    (s.prView = true → Raises (exec .rfi s) .program 0x00040000 s)

/-- mtspr writes and mfspr reads the register its number names; the computed and constant registers (numbers: log entry 1) (R70, R620, R621, R622, R623, R48, R80, R83, R85, R86). The numbers are the model's choice, log entry 1; reserved fields read back as any value or as stored, log entry 42; HID0, PVR and HID1 hold open parameters, log entries 8 and 9. -/
def Obligations.SpecialRegisterMoves : Prop :=
  ∀ (s : State) (r : Reg), s.gprsUsable [r] = true →
    (∀ p ∈ specialRegisters, (p.num.getLsbD 4 = true → s.prView = false) →
      Reads (.mfspr r p.num) s r p.kept (p.value s) ∧
      (p.num ≠ 976 → p.num ≠ 980 →
        ∃ t, exec (.mtspr r p.num) s = .next t ∧ t.cia = s.cia + 4 ∧
          p.value t = (if p.num = 1 then s.readGpr r &&& 0xE000007F else s.readGpr r) ∧
          (∀ q ∈ specialRegisters, q.num ≠ p.num → q.value t = q.value s) ∧
          (∀ c ∈ t.windows, c ∈ s.windows ∨ c = s.ctx) ∧
          t = { s with
            xer := t.xer, lr := t.lr, ctr := t.ctr, dsisr := t.dsisr, dar := t.dar, dec := t.dec, sdr1 := t.sdr1
            srr0 := t.srr0, srr1 := t.srr1, sprg := t.sprg, ibat := t.ibat, dbat := t.dbat, rpa := t.rpa, ibr := t.ibr
            esasrr := t.esasrr, sebr := t.sebr, ser := t.ser, hid0 := t.hid0, iabr := t.iabr, sp := t.sp, lt := t.lt
            decPending := t.decPending, windows := t.windows, cia := s.cia + 4 })) ∧
    (s.prView = false →
      let reads (n : BitVec 10) (v : Word) : Prop := Computes (.mfspr r n) s r v false none none
      let vsid (ea : Word) : BitVec 24 :=
        (s.sr.get (if protectionOnly s then 0 else (ea.extractLsb' 28 4).toFin)).setWidth 24
      let missed := if s.missIsData then s.dmiss else s.imiss
      let hash : BitVec 19 := (vsid missed).setWidth 19 ^^^ (missed.extractLsb' 12 16).setWidth 19
      let group (h : BitVec 19) : Word :=
        s.sdr1.extractLsb' 25 7 ++ (s.sdr1.extractLsb' 16 9 ||| (h.extractLsb' 10 9 &&& s.sdr1.extractLsb' 0 9)) ++
          h.extractLsb' 0 10 ++ (0 : BitVec 6)
      let compared (ea : Word) : Word := (1 : BitVec 1) ++ vsid ea ++ (0 : BitVec 1) ++ ea.extractLsb' 22 6
      (s.windows = [] → reads 978 (group hash) ∧ reads 979 (group (~~~hash))) ∧
      reads 977 (compared s.dmiss) ∧ reads 981 (compared s.imiss) ∧
      reads 287 ((5 : BitVec 16) ++ Config.pvrRevision) ∧ reads 1009 Config.hid1Value ∧
      exec (.mtspr r 1009) s = .next { s with cia := s.cia + 4 })

/-- The time base by halves, DEC with its latch, TCR (numbers: the model's choice, log entry 1) (R79, R94, R625, R791, R792, R796). The numbers are the model's choice, log entry 1; the places of the TCR fields are open, log entry 11. -/
def Obligations.TimerRegisterMoves : Prop :=
  [tcrLayout.we, tcrLayout.wpHigh, tcrLayout.wpLow, tcrLayout.wrc, tcrLayout.ws].Nodup ∧
  ∀ (s : State) (r : Reg), s.gprsUsable [r] = true →
    let v := s.readGpr r
    Computes (.mftb r 268) s r (s.tb.extractLsb' 0 32) false none none ∧
    Computes (.mftb r 269) s r (s.tb.extractLsb' 32 32) false none none ∧
    (∀ n : BitVec 10, n ≠ 268 → n ≠ 269 → Raises (exec (.mftb r n) s) .program 0x00080000 s) ∧
    (s.prView = false →
      exec (.mtspr r 284) s = .next { s with tb := s.tb.extractLsb' 32 32 ++ v, cia := s.cia + 4 } ∧
      exec (.mtspr r 285) s = .next { s with tb := v ++ s.tb.extractLsb' 0 32, cia := s.cia + 4 } ∧
      exec (.mtspr r 22) s = .next { s with
        dec := v, decPending := s.decPending || (!s.dec.getLsbD 31 && v.getLsbD 31), cia := s.cia + 4 } ∧
      exec (.mtspr r 984) s = .next { s with
        tcr := { we := v.getLsbD tcrLayout.we.val
                 wp := BitVec.ofBool (v.getLsbD tcrLayout.wpHigh.val) ++ BitVec.ofBool (v.getLsbD tcrLayout.wpLow.val)
                 wrc := v.getLsbD tcrLayout.wrc.val, ws := v.getLsbD tcrLayout.ws.val }
        cia := s.cia + 4 } ∧
      Computes (.mfspr r 984) s r (tcrToWord s.tcr) false none none ∧
      ∀ k : Fin 32, (tcrToWord s.tcr).getLsbD k.val =
        if k = tcrLayout.we then s.tcr.we else if k = tcrLayout.wpHigh then s.tcr.wp.getLsbD 1
        else if k = tcrLayout.wpLow then s.tcr.wp.getLsbD 0 else if k = tcrLayout.wrc then s.tcr.wrc
        else if k = tcrLayout.ws then s.tcr.ws else false)

/-- mfmsr and mtmsr move the MSR in supervisor mode; reserved bits stay 0 (R630, R631, R61, R62, R757, R801). The implemented mask holds the model's places of AP and SA, log entry 2; that mtmsr replaces a mode not yet entered, by none with POW = 0 or none selected, is the model's choice, log entry 25; the places of DOZE, NAP and SLEEP are open, log entry 10. -/
def Obligations.MachineStateMoves : Prop :=
  ∀ (s : State) (r : Reg), s.gprsUsable [r] = true → s.prView = false →
    let v := s.readGpr r
    let enables : Prop := s.msr &&& 0x00000900 = 0 ∧ v &&& 0x00000900 ≠ 0 ∧ ibmBit s.fpscr 1 = true
    let selected (pos : Hid0Layout → Fin 32) : Bool := s.hid0.getLsbD (pos hid0Layout).val
    let moves (p : Option PowerState) : Prop :=
      ∃ t, t.msr = v &&& 0x00C7FF73 ∧ (∀ c ∈ t.windows, c ∈ s.windows ∨ c = s.ctx) ∧
        t = { s with msr := t.msr, powPending := p, windows := t.windows } ∧
        (¬enables → exec (.mtmsr r) s = .next { t with cia := s.cia + 4 }) ∧
        (enables → exec (.mtmsr r) s = .next (takeException .program (s.cia + 4) 0x00100000 t))
    Computes (.mfmsr r) s r s.msr false none none ∧
    (v &&& 0x00040000 = 0 → moves none) ∧
    (v &&& 0x00040000 ≠ 0 → s.windows = [] →
      match selected (·.doze), selected (·.nap), selected (·.sleep) with
      | false, false, false => moves none
      | true, false, false => moves (some .doze)
      | false, true, false => moves (some .nap)
      | false, false, true => moves (some .sleep)
      | true, true, _ => exec (.mtmsr r) s = .fault .powerModeSelect
      | true, _, true => exec (.mtmsr r) s = .fault .powerModeSelect
      | _, true, true => exec (.mtmsr r) s = .fault .powerModeSelect)

/-- sync, isync and eieio complete; isync ends every context window, none changes a register or memory (R640, R641, R642, R841) -/
def Obligations.Synchronisation : Prop :=
  ∀ (s : State),
    (∃ t, exec .sync s = .next t ∧ (∀ c ∈ t.windows, c.itlb = s.itlb ∧ c.dtlb = s.dtlb) ∧ SameBytes s t ∧
      t = { s with windows := t.windows, stale := t.stale, cia := s.cia + 4 }) ∧
    (∃ t, exec .isync s = .next t ∧ t.windows = [] ∧ SameBytes s t ∧
      t = { s with windows := t.windows, stale := t.stale, cia := s.cia + 4 }) ∧
    exec .eieio s = .next { s with cia := s.cia + 4 }

/-- esa enters supervisor mode where it is permitted and traps elsewhere; dsa restores what esa saved (R650, R651, R91, R185, R89, R90). The places of MSR[AP] and MSR[SA] are the model's choice, log entry 2, and so is what esa leaves in AP and EE, log entry 7; the place of SE in an IBAT is open, log entry 12. -/
def Obligations.SupervisorAccess : Prop :=
  ∀ (s : State),
    let four : Word := 0x00C0C000
    let mask (k : Fin 4) : Word := BitVec.ofNat 32 (s.ibat[2 * k.val].toNat / 4 % 2 ^ 11 * 2 ^ 17)
    let hits (k : Fin 4) : Prop :=
      (∀ j, j < 15 → ibmBit (mask k) j = false → ibmBit s.cia j = ibmBit s.ibat[2 * k.val] j) ∧
        ibmBit s.ibat[2 * k.val] (if ibmBit s.msr 17 then 31 else 30) = true
    (s.windows = [] → (esaPermitted s = true ↔ ibmBit s.msr 26 = true ∧
      ((∃ k, hits k ∧ (∀ j, j ≠ k → ¬hits j) ∧ s.ibat[2 * k.val + 1].getLsbD ibatSeBit = true) ∨
        ((∀ k, ¬hits k) ∧ protectionOnly s = true ∧ s.cia.toNat / 2 ^ 17 = s.sebr.toNat / 2 ^ 17 ∧
          ibmBit s.ser (s.cia.toNat / 2 ^ 12 % 32) = true)))) ∧
    (esaPermitted s = true → ∃ t, exec .esa s = .next t ∧ t.esasrr = s.msr &&& four ∧
      t.msr = (s.msr &&& ~~~0x00004000) ||| 0x00400000 ∧ t.prView = false ∧
      t = { s with esasrr := t.esasrr, msr := t.msr, windows := t.windows, cia := s.cia + 4 } ∧
      ∃ u, exec .dsa t = .next u ∧ u.msr &&& four = s.msr &&& four) ∧
    (esaPermitted s = false → Raises (exec .esa s) .program 0x00040000 s) ∧
    (s.prView = false → ∃ t, exec .dsa s = .next t ∧ t.msr = (s.esasrr &&& four) ||| (s.msr &&& ~~~four) ∧
      t = { s with msr := t.msr, windows := t.windows, cia := s.cia + 4 }) ∧
    (s.prView = true → Raises (exec .dsa s) .program 0x00040000 s)

/-- String and double-precision arithmetic take the emulation trap, the optional instructions the 602 lacks are illegal (R271, R272, R430, R434, R470, R524, R554, R560, R561, R698, R756, R771). That a string instruction traps whatever registers it names while TGPR = 1, where R41 and R844 refuse registers above GPR3, is the model's choice, log entry 55. -/
def Obligations.AbsentInstructions : Prop :=
  ∀ (s : State) (a b c d : Reg) (rc : Bool),
    (∀ i ∈ [Instr.lswi a b c, .lswx a b c, .stswi a b c, .stswx a b c], Raises (exec i s) .emulation 0 s) ∧
    (∀ i ∈ [Instr.fadd a b c rc, .fsub a b c rc, .fmul a b c rc, .fdiv a b c rc, .fmadd a b c d rc, .fmsub a b c d rc,
        .fnmadd a b c d rc, .fnmsub a b c d rc],
      if s.msrBit msrFP then Raises (exec i s) .emulation 0 s else Raises (exec i s) .fpUnavailable 0 s) ∧
    ∀ i ∈ [Instr.fsqrt a b rc, .fsqrts a b rc, .frsqrte a b rc, .stfiwx a b c, .eciwx a b c, .ecowx a b c, .tlbia],
      Raises (exec i s) .program 0x00080000 s

/-- Privileged instructions in user mode, and special-register numbers that name no such register, trap (R274, R624, R756, R786, R80). The numbers are the model's choice, log entry 1. That these exceptions come before the refusal of registers above GPR3 with TGPR = 1 (R41, R844) is the model's choice too, log entry 55. -/
def Obligations.PrivilegedInstructions : Prop :=
  ∀ (s : State) (a b : Reg) (srn : BitVec 4) (n : BitVec 10),
    let info : Word := if n.getLsbD 4 = true ∧ s.prView = true then 0x00040000 else 0x00080000
    (s.prView = true →
      (∀ i ∈ [Instr.rfi, .mtmsr a, .mfmsr a, .mtsr a srn, .mtsrin a b, .mfsr a srn, .mfsrin a b, .dcbi a b, .tlbie b,
          .tlbsync, .tlbld b, .tlbli b, .dsa], Raises (exec i s) .program 0x00040000 s) ∧
      (n.getLsbD 4 = true → Raises (exec (.mtspr a n) s) .program 0x00040000 s ∧
        Raises (exec (.mfspr a n) s) .program 0x00040000 s)) ∧
    let numbers : List (BitVec 10) := specialRegisters.map (·.num) ++
      [284, 285, 287, 977, 978, 979, 981, 984, 1009]
    (n ∉ numbers → Raises (exec (.mfspr a n) s) .program info s ∧ Raises (exec (.mtspr a n) s) .program info s) ∧
    (n = 284 ∨ n = 285 → Raises (exec (.mfspr a n) s) .program info s) ∧
    (n ∈ [(287 : BitVec 10), 976, 977, 978, 979, 980, 981] → Raises (exec (.mtspr a n) s) .program info s)

/-- Floating-point instructions with MSR[FP] = 0 take that exception first; with a source whose tags do not serve they stop (R400, R758, R44, R402, R546, R550). That an unusable tag is refused before an invalid address is the model's choice, log entry 58; that fsel does not look at the source it does not select is log entry 39. -/
def Obligations.FloatUnavailable : Prop :=
  ∀ (s : State) (a b c d : Reg) (x y : BitVec 3) (z : BitVec 4) (fm : BitVec 8) (disp : BitVec 16) (rc : Bool),
    let b0 : List Reg := if b = 0 then [] else [b]
    let unfit (srcs : List Reg) (is : List Instr) : Prop :=
      (∃ x ∈ srcs, s.isSingle x = false) → ∀ i ∈ is,
        ((∀ x ∈ srcs, s.isTagged x = true) → exec i s = .refused .fprIntegerOperand) ∧
        ((∀ x ∈ srcs, s.isIntTagged x = false) → exec i s = .fault .fprUntagged) ∧
        (exec i s = .refused .fprIntegerOperand ∨ exec i s = .fault .fprUntagged)
    let untagged (x : Reg) (is : List Instr) : Prop :=
      s.isTagged x = false → ∀ i ∈ is, exec i s = .fault .fprUntagged
    (s.msrBit msrFP = false →
    (∀ i ∈ [Instr.fadds a b c rc, .fsubs a b c rc, .fmuls a b c rc, .fdivs a b c rc, .fres a b rc, .fmadds a b c d rc,
        .fmsubs a b c d rc, .fnmadds a b c d rc, .fnmsubs a b c d rc, .frsp a b rc, .fctiw a b rc, .fctiwz a b rc,
        .fcmpu x a b, .fcmpo x a b, .fmr a b rc, .fneg a b rc, .fabs a b rc, .fnabs a b rc, .fsel a b c d rc, .mffs a rc,
        .mcrfs x y, .mtfsfi x z rc, .mtfsf fm a rc, .mtfsb0 a rc, .mtfsb1 a rc, .lfs a b disp, .lfsx a b c, .lfd a b disp,
        .lfdx a b c, .stfs a b disp, .stfsx a b c, .stfd a b disp, .stfdx a b c], Raises (exec i s) .fpUnavailable 0 s) ∧
    (b ≠ 0 → ∀ i ∈ [Instr.lfsu a b disp, .lfsux a b c, .lfdu a b disp, .lfdux a b c, .stfsu a b disp, .stfsux a b c,
        .stfdu a b disp, .stfdux a b c], Raises (exec i s) .fpUnavailable 0 s)) ∧
    (s.msrBit msrFP = true →
      unfit [b, c] [Instr.fadds a b c rc, .fsubs a b c rc, .fdivs a b c rc, .fmuls a b c rc] ∧
      unfit [b, c, d] [Instr.fmadds a b c d rc, .fmsubs a b c d rc, .fnmadds a b c d rc, .fnmsubs a b c d rc] ∧
      unfit [b] [Instr.fres a b rc, .frsp a b rc, .fctiw a b rc, .fctiwz a b rc, .fneg a b rc, .fabs a b rc,
        .fnabs a b rc, .fsel a b c d rc] ∧
      unfit [a, b] [Instr.fcmpu x a b, .fcmpo x a b] ∧
      untagged b [Instr.fmr a b rc, .mtfsf fm b rc] ∧
      (s.isSingle b = true →
        let v := s.fprData b
        untagged (if fpIsNan v = false ∧ (fpNeg v = false ∨ fpIsZero v = true) then d else c) [Instr.fsel a b c d rc]) ∧
      (s.gprsUsable b0 = true →
        unfit [a] [Instr.stfs a b disp] ∧ untagged a [Instr.stfd a b disp] ∧
        (b ≠ 0 → unfit [a] [Instr.stfsu a b disp] ∧ untagged a [Instr.stfdu a b disp])) ∧
      (s.gprsUsable (c :: b0) = true →
        unfit [a] [Instr.stfsx a b c] ∧ untagged a [Instr.stfdx a b c] ∧
        (b ≠ 0 → unfit [a] [Instr.stfsux a b c] ∧ untagged a [Instr.stfdux a b c])))

/-- Instructions of an invalid form stop by name, and so do registers GPR4 to GPR31 with TGPR = 1 (R270, R480, R520, R576, R258, R531, R41, R844). Where this refusal stands among the other checks is log entry 55; the numbers of the special registers are log entry 1, stwcx. without its record bit is log entry 34. -/
def Obligations.InvalidForms : Prop :=
  ∀ (s : State) (r rA rB : Reg) (d : BitVec 16) (bo bi : BitVec 5) (bd : BitVec 14) (aa lk : Bool) (crfD : BitVec 3),
    let stops (is : List Instr) : Prop := ∀ i ∈ is, exec i s = .fault .invalidForm
    (rA = 0 ∨ rA = r → stops [.lbzu r rA d, .lbzux r rA rB, .lhzu r rA d, .lhzux r rA rB, .lhau r rA d, .lhaux r rA rB,
      .lwzu r rA d, .lwzux r rA rB]) ∧
    (rA = 0 → stops [.stbu r rA d, .stbux r rA rB, .sthu r rA d, .sthux r rA rB, .stwu r rA d, .stwux r rA rB,
      .lfsu r rA d, .lfsux r rA rB, .lfdu r rA d, .lfdux r rA rB, .stfsu r rA d, .stfsux r rA rB, .stfdu r rA d,
      .stfdux r rA rB]) ∧
    (r ≤ rA → stops [.lmw r rA d]) ∧ (boOk bo = false → stops [.bc bo bi bd aa lk, .bclr bo bi lk]) ∧
    (boOk bo = false ∨ bo.getLsbD 2 = false → stops [.bcctr bo bi lk]) ∧ stops [.stwcxRc r rA rB false] ∧
    stops [.cmp crfD 1 rA rB, .cmpi crfD 1 rA d, .cmpl crfD 1 rA rB, .cmpli crfD 1 rA d] ∧
    (s.msr &&& 0x00020000 ≠ 0 → ∀ (a b c : Reg) (sh mb me : BitVec 5) (crm : BitVec 8) (srn : BitVec 4) (oe rc : Bool),
      let or0 (x : Reg) : List Reg := if x = 0 then [] else [x]
      let refuses (named : List Reg) (is : List Instr) : Prop :=
        (∃ x ∈ named, 4 ≤ x) → ∀ i ∈ is, exec i s = .fault .tgprHighRegister
      refuses ([a, b, c]) [
        Instr.add a b c oe rc, .addc a b c oe rc, .adde a b c oe rc, .subf a b c oe rc, .subfc a b c oe rc,
        .subfe a b c oe rc, .mullw a b c oe rc, .divw a b c oe rc, .divwu a b c oe rc, .and a b c rc, .or a b c rc,
        .xor a b c rc, .nand a b c rc, .nor a b c rc, .eqv a b c rc, .andc a b c rc, .orc a b c rc, .slw a b c rc,
        .srw a b c rc, .sraw a b c rc, .mulhw a b c rc, .mulhwu a b c rc, .rlwnm a b c mb me rc] ∧
      refuses ([a, b]) [
        Instr.neg a b oe rc, .addme a b oe rc, .addze a b oe rc, .subfme a b oe rc, .subfze a b oe rc, .cntlzw a b rc,
        .extsb a b rc, .extsh a b rc, .addic a b d, .addicRc a b d, .subfic a b d, .mulli a b d, .andiRc a b d,
        .andisRc a b d, .ori a b d, .oris a b d, .xori a b d, .xoris a b d, .rlwinm a b sh mb me rc,
        .rlwimi a b sh mb me rc, .srawi a b sh rc, .cmp crfD 0 a b, .cmpl crfD 0 a b, .tw sh a b] ∧
      refuses ([a]) [
        Instr.cmpi crfD 0 a d, .cmpli crfD 0 a d, .twi sh a d, .mfcr a, .mtcrf a crm, .mftb a 268, .mftb a 269] ∧
      refuses (a :: or0 b) [
        Instr.addi a b d, .addis a b d, .lbz a b d, .lhz a b d, .lha a b d, .lwz a b d, .stb a b d, .sth a b d,
        .stw a b d] ∧
      refuses (a :: or0 b ++ [c]) [
        Instr.lbzx a b c, .lhzx a b c, .lhax a b c, .lwzx a b c, .lhbrx a b c, .lwbrx a b c, .lwarx a b c,
        .stbx a b c, .sthx a b c, .stwx a b c, .sthbrx a b c, .stwbrx a b c, .stwcxRc a b c true] ∧
      refuses (or0 b ++ [c]) [
        Instr.dcbt b c, .dcbtst b c, .dcbst b c, .dcbf b c, .icbi b c, .dcbz b c] ∧
      refuses [31] [Instr.stmw a b d] ∧ (b < a → refuses [31] [Instr.lmw a b d]) ∧
      (b ≠ 0 → b ≠ a → refuses [a, b] [Instr.lbzu a b d, .lhzu a b d, .lhau a b d, .lwzu a b d] ∧
        refuses [a, b, c] [Instr.lbzux a b c, .lhzux a b c, .lhaux a b c, .lwzux a b c]) ∧
      (b ≠ 0 → refuses [a, b] [Instr.stbu a b d, .sthu a b d, .stwu a b d] ∧
        refuses [a, b, c] [Instr.stbux a b c, .sthux a b c, .stwux a b c]) ∧
      (s.msr &&& 0x00002000 ≠ 0 →
        refuses (or0 b) [Instr.lfs a b d, .lfd a b d, .stfs a b d, .stfd a b d] ∧
        refuses (or0 b ++ [c]) [Instr.lfsx a b c, .lfdx a b c, .stfsx a b c, .stfdx a b c] ∧
        (b ≠ 0 → refuses [b] [Instr.lfsu a b d, .lfdu a b d, .stfsu a b d, .stfdu a b d] ∧
          refuses [b, c] [Instr.lfsux a b c, .lfdux a b c, .stfsux a b c, .stfdux a b c])) ∧
      (∀ p ∈ specialRegisters, (p.num.getLsbD 4 = true → s.prView = false) →
        refuses [a] [Instr.mfspr a p.num] ∧ (p.num ≠ 976 → p.num ≠ 980 → refuses [a] [Instr.mtspr a p.num])) ∧
      (s.prView = false →
        refuses [a] [Instr.mfmsr a, .mtmsr a, .mtsr a srn, .mfsr a srn, .tlbie a, .tlbld a, .tlbli a, .mfspr a 287,
          .mfspr a 977, .mfspr a 978, .mfspr a 979, .mfspr a 981, .mfspr a 984, .mfspr a 1009, .mtspr a 284, .mtspr a 285,
          .mtspr a 984, .mtspr a 1009] ∧
        refuses [a, b] [Instr.mtsrin a b, .mfsrin a b] ∧ refuses (or0 b ++ [c]) [Instr.dcbi b c]))

/-- dcbz zeroes its 32-byte block, or takes the alignment exception on a write-through or caching-inhibited mapping (R670, R671, R755, R165, R220). What stands where is log entry 21. -/
def Obligations.CacheBlockZero : Prop :=
  ∀ (s : State) (rA rB : Reg), s.gprsUsable [rA, rB] = true → s.leView = false → s.mem.wf = true →
    let ea : Word := (if rA = 0 then 0 else s.readGpr rA) + s.readGpr rB
    (∀ e, dataMapping s ea true = .error e → exec (.dcbz rA rB) s = e.outcome s) ∧
    ∀ m, dataMapping s ea true = .ok m →
      (m.wi = true → ∃ dsisr : Word, dsisr.toNat / 2 ^ 10 = 0b1011111 ∧
        Raises (exec (.dcbz rA rB) s) .alignment 0 { s with dsisr := dsisr, dar := ea }) ∧
      (m.wi = false → ∀ e, checkMapping ea true m = .error e → exec (.dcbz rA rB) s = e.outcome s) ∧
      (m.wi = false → ∀ pa, checkMapping ea true m = .ok pa →
        ∃ t, exec (.dcbz rA rB) s = .next t ∧ OnlyStore none ea s t ∧
          StoreEffect s 0 (placesFrom (BitVec.ofNat 32 (pa.toNat / 32 * 32)) 32) (List.replicate 32 0) t)

/-- The cache instructions: hints do nothing, pushes and icbi keep every byte, dcbi may bring back older bytes (R225, R670, R672, R673, R674, R675, R676, R677, R803, R165). Which older byte dcbi brings back is a free value, log entry 27, and so is which copy dcbi and dcbf settle on, log entry 53. -/
def Obligations.CacheManagement : Prop :=
  ∀ (s : State) (rA rB : Reg), s.gprsUsable [rA, rB] = true →
    let ea : Word := (if rA = 0 then 0 else s.readGpr rA) + s.readGpr rB
    let words (l : List StaleWord) : List (Word × Word) := l.map fun e => (e.addr, e.old)
    let marks (l : List StaleWord) : List Bool := l.map (·.discarded)
    let block (pa : Word) : List Word := placesFrom (BitVec.ofNat 32 (pa.toNat / 32 * 32)) 32
    let copied (places : List Word) : Prop := ∃ e ∈ s.cached, BitVec.ofNat 32 e.1 ∈ places
    let flushed (pa : Word) (left : StaleWord → Prop) (t : State) : Prop :=
      SameBytesBut (block pa) s t ∧ words s.stale <:+ words t.stale ∧
      (∀ e ∈ t.stale, e.addr ∈ block pa → left e) ∧
      (∀ e : Host.Cell, e ∈ t.cached ↔ e ∈ s.cached ∧ (s.isRam pa = true → BitVec.ofNat 32 e.1 ∉ block pa)) ∧
      (t.teaUnrecognised = s.teaUnrecognised ∨ (t.teaUnrecognised = true ∧ s.kindAt pa = some .absent)) ∧
      t = { s with mem := t.mem, stale := t.stale, cached := t.cached, teaUnrecognised := t.teaUnrecognised
                   cia := s.cia + 4 }
    exec (.dcbt rA rB) s = .next { s with cia := s.cia + 4 } ∧
    exec (.dcbtst rA rB) s = .next { s with cia := s.cia + 4 } ∧
    (s.leView = false →
      (∀ i ∈ [Instr.dcbst rA rB, .dcbf rA rB, .icbi rA rB], ∀ e, translateData s ea false = .error e →
        exec i s = e.outcome s) ∧
      (∀ pa, translateData s ea false = .ok pa →
        (∀ i ∈ [Instr.dcbst rA rB, .icbi rA rB], ∃ t, exec i s = .next t ∧ words t.stale = words s.stale ∧
          marks t.stale = marks s.stale ∧ t = { s with stale := t.stale, cia := s.cia + 4 }) ∧
        (s.mem.wf = true → ∃ t, exec (.dcbf rA rB) s = .next t ∧ flushed pa (fun e => e.phase ≠ .stored) t ∧
          (∀ a ∈ block pa, readByte t a = readByte s a ∨ (a.toNat, readByte t a) ∈ s.cached) ∧
          (¬copied (block pa) → words t.stale = words s.stale ∧ t = { s with stale := t.stale, cia := s.cia + 4 }))) ∧
      (s.prView = false →
        (∀ e, translateData s ea true = .error e → exec (.dcbi rA rB) s = e.outcome s) ∧
        ∀ pa, translateData s ea true = .ok pa → s.mem.wf = true →
          let unpushed (e : StaleWord) : Prop := e.addr ∈ block pa ∧ e.discarded = false ∧ (e.phase = .stored ∨ e.phase = .pushed)
          ∃ t, exec (.dcbi rA rB) s = .next t ∧ flushed pa (fun e => e.discarded = true) t ∧
            (∀ a ∈ block pa, readByte t a = readByte s a ∨ (a.toNat, readByte t a) ∈ s.cached ∨
              ∃ e ∈ s.stale, unpushed e ∧ e.addr = BitVec.ofNat 32 (a.toNat / 4 * 4) ∧
                readByte t a = e.old.extractLsb' (8 * (3 - a.toNat % 4)) 8) ∧
            ((∀ e ∈ s.stale, ¬unpushed e) → ¬copied (block pa) → SameBytes s t)))

/-- After dcbst, sync, icbi, sync, isync every fetch from the block returns the word memory holds (R220, R221, R165). What a fetch sees before the sequence ends is a free value, log entry 27. -/
def Obligations.CodeModification : Prop :=
  ∀ (s : State) (rA rB : Reg) (pa : Word), s.gprsUsable [rA, rB] = true → s.leView = false → s.windows = [] →
    let ea : Word := (if rA = 0 then 0 else s.readGpr rA) + s.readGpr rB
    translateData s ea false = .ok pa →
    (∀ a, s.noMemory a = true ∨ fetchWord s a = readWordAt s a ∨
      ∃ e ∈ s.stale, e.addr = BitVec.ofNat 32 (a.toNat / 4 * 4) ∧ fetchWord s a = e.old) ∧
    ∃ s1 s2 s3 s4 t, exec (.dcbst rA rB) s = .next s1 ∧ exec .sync s1 = .next s2 ∧ exec (.icbi rA rB) s2 = .next s3 ∧
      exec .sync s3 = .next s4 ∧ exec .isync s4 = .next t ∧ SameBytes s t ∧
      ∀ a : Word, a.toNat / 32 = pa.toNat / 32 → s.noMemory a = false → fetchWord t a = readWordAt s a

/-- mtsr, mtsrin, mfsr and mfsrin write and read the segment register they name (R63, R690, R691, R692, R693, R841). That reserved bits read back as any value is ruling A17, log entry 42. -/
def Obligations.SegmentRegisterMoves : Prop :=
  ∀ (s : State) (r rB : Reg) (n : BitVec 4), s.gprsUsable [r, rB] = true → s.prView = false →
    let m : BitVec 4 := BitVec.ofNat 4 ((s.readGpr rB).toNat / 2 ^ 28)
    let writes (i : Instr) (n : BitVec 4) : Prop :=
      ∃ t, exec i s = .next t ∧ (∀ k : Fin 16, t.sr.get k = if k = n.toFin then s.readGpr r else s.sr.get k) ∧
        (t.windows = if t.sr = s.sr then s.windows else s.ctx :: s.windows) ∧
        t = { s with sr := t.sr, windows := t.windows, cia := s.cia + 4 }
    writes (.mtsr r n) n ∧ writes (.mtsrin r rB) m ∧
    Reads (.mfsr r n) s r 0xF0FFFFFF (s.sr.get n.toFin) ∧ Reads (.mfsrin r rB) s r 0xF0FFFFFF (s.sr.get m.toFin)

/-- tlbie invalidates both ways of a set in both TLBs, tlbld and tlbli load one entry, tlbsync only advances (R86, R694, R695, R696, R697). That an entry keeps the whole page number of EA is the model's choice, log entry 44; the protection-only format is open, log entry 16. -/
def Obligations.TlbInstructions : Prop :=
  ∀ (s : State) (rB : Reg), s.gprsUsable [rB] = true → s.prView = false →
    let set := (s.readGpr rB).toNat / 2 ^ 12 % 16
    let cleared (old new : Vector TlbEntry 32) : Prop :=
      ∀ k : Fin 32, new.get k = if k.val / 2 = set then { old.get k with valid := false } else old.get k
    let place := (if protectionOnly s then (Config.poFormat.setOf (s.readGpr rB)).toNat else set) * 2 +
      (if ibmBit s.srr1 14 then 1 else 0)
    let loaded (missed : Word) (old new : Vector TlbEntry 32) : Prop :=
      ∀ k : Fin 32, new.get k =
        if k.val = place then
          { valid := true,
            vsid := (s.sr.get (if protectionOnly s then 0 else (missed.extractLsb' 28 4).toFin)).setWidth 24,
            page := (s.readGpr rB).extractLsb' 12 20, pte1 := s.rpa }
        else old.get k
    let opened (t : State) : Prop := t.windows = if t.itlb = s.itlb ∧ t.dtlb = s.dtlb then s.windows else s.ctx :: s.windows
    exec .tlbsync s = .next { s with cia := s.cia + 4 } ∧
    (∃ t, exec (.tlbie rB) s = .next t ∧ cleared s.itlb t.itlb ∧ cleared s.dtlb t.dtlb ∧ opened t ∧
      t = { s with itlb := t.itlb, dtlb := t.dtlb, windows := t.windows, cia := s.cia + 4 }) ∧
    (∃ t, exec (.tlbld rB) s = .next t ∧ loaded s.dmiss s.dtlb t.dtlb ∧ opened t ∧
        t = { s with dtlb := t.dtlb, windows := t.windows, cia := s.cia + 4 }) ∧
    (∃ t, exec (.tlbli rB) s = .next t ∧ loaded s.imiss s.itlb t.itlb ∧ opened t ∧
        t = { s with itlb := t.itlb, windows := t.windows, cia := s.cia + 4 })

/-- Taking an exception: SRR0, SRR1, the new MSR, the vector, and nothing else (R205, R740, R741, R743, R744, R745, R766). The mask 0xFFFF0000 of IBR is the model's choice, log entry 3; SRR1 keeps the model's places of AP and SA, log entry 2. -/
def Obligations.ExceptionEntry : Prop :=
  ∀ (s : State) (srr0 info : Word),
    let table : List (Exception × Word) :=
      [(.softReset, 0x100), (.machineCheck, 0x200), (.dsi, 0x300), (.isi, 0x400), (.external, 0x500), (.alignment, 0x600),
       (.program, 0x700), (.fpUnavailable, 0x800), (.decrementer, 0x900), (.systemCall, 0xC00), (.trace, 0xD00),
       (.instrMiss, 0x1000), (.dataLoadMiss, 0x1100), (.dataStoreMiss, 0x1200), (.iabrMatch, 0x1300), (.smi, 0x1400),
       (.watchdog, 0x1500), (.emulation, 0x1600)]
    (∀ e : Exception, ∃ off, (e, off) ∈ table) ∧
    ∀ p ∈ table,
      let e := p.1
      let miss : Prop := e = .instrMiss ∨ e = .dataLoadMiss ∨ e = .dataStoreMiss
      let t := takeException e srr0 info s
      t.srr0 = srr0 ∧ (miss → t.srr1 = (s.msr &&& 0x07C0FFFF) ||| info) ∧ (¬miss → t.srr1 = (s.msr &&& 0x87C0FFFF) ||| info) ∧
      (∀ k, k < 32 → (ibmBit t.msr k = true ↔
        (k = 31 ∧ ibmBit s.msr 15 = true) ∨ (k = 14 ∧ miss) ∨ ((k = 15 ∨ k = 25) ∧ ibmBit s.msr k = true) ∨
          (k = 19 ∧ e ≠ .machineCheck ∧ ibmBit s.msr 19 = true))) ∧
      t.cia = (if s.ipView then 0xFFF00000 ||| p.2
        else if e = .softReset ∨ e = .machineCheck ∨ e = .iabrMatch then p.2 else (s.ibr &&& 0xFFFF0000) ||| p.2) ∧
      t.decPending = (s.decPending && decide (e ≠ .decrementer)) ∧
      t.wdtPending = (s.wdtPending && decide (e ≠ .watchdog)) ∧
      t = { s with srr0 := t.srr0, srr1 := t.srr1, msr := t.msr, cia := t.cia, decPending := t.decPending,
                   wdtPending := t.wdtPending, power := .full, powPending := none, deferred := [], windows := [],
                   taken := some e }

/-- What a stopped data access saves: DAR and DSISR, or DMISS and the miss information in SRR1 (R753, R754, R766, R767, R186) -/
def Obligations.StorageExceptions : Prop :=
  ∀ (s : State) (ea : Word) (prot direct store key : Bool),
    let one (b : Bool) (mask : Word) : Word := if b then mask else 0
    let miss (e : Exception) (store instr : Bool) (u t : State) : Prop :=
      ∃ way : Bool, t = takeException e s.cia ((s.cr &&& 0xF0000000) ||| one key 0x00080000 ||| one instr 0x00040000 |||
        one way 0x00020000 ||| one store 0x00010000) u
    (∃ t, (AccessStop.dsi prot direct store ea).outcome s = .next t ∧
      t = takeException .dsi s.cia 0 { s with dar := ea, dsisr := one prot 0x08000000 ||| one direct 0x04000000 ||| one store 0x02000000 }) ∧
    (∃ t, (AccessStop.miss store key ea).outcome s = .next t ∧
      miss (if store then .dataStoreMiss else .dataLoadMiss) store false { s with dmiss := ea, missIsData := true } t) ∧
    miss .instrMiss false true { s with imiss := s.cia, missIsData := false } (takeInstrMiss key s)

/-- Data translation: real mode, block translation with its protection, direct-store segments, pages with key and PP (R170, R172, R173, R174, R175, R176, R186, R767, R182, R183, R184, R671). The place of MSR[AP] is the model's choice, log entry 2; its rule, the key of a miss under it and the protection-only format are open, log entries 13 and 16. -/
def Obligations.DataTranslation : Prop :=
  ∀ (s : State) (ea : Word) (store : Bool), s.windows = [] →
    let user := ibmBit s.msr 17 || (ibmBit s.msr 8 && decide (Config.apRule = .asUser))
    let sr := s.sr.get (ea.extractLsb' 28 4).toFin
    let key := if user then ibmBit sr 2 else ibmBit sr 1
    let mask (k : Fin 4) : Word := BitVec.ofNat 32 (s.dbat[2 * k.val].toNat / 4 % 2 ^ 11 * 2 ^ 17)
    let hits (k : Fin 4) : Prop :=
      (∀ j, j < 15 → ibmBit (mask k) j = false → ibmBit ea j = ibmBit s.dbat[2 * k.val] j) ∧
        ibmBit s.dbat[2 * k.val] (if user then 31 else 30) = true
    let entry (w : Bool) : TlbEntry := s.dtlb.get (tlbIndex (ea.extractLsb' 12 4) w)
    let found (w : Bool) : Prop := (entry w).valid = true ∧ (entry w).vsid = sr.setWidth 24 ∧
      (entry w).page.extractLsb' 4 12 = ea.extractLsb' 16 12
    let area (w : Bool) : TlbEntry := s.dtlb.get (tlbIndex (Config.poFormat.setOf ea) w)
    let region (w : Bool) : Prop := (area w).valid = true ∧ (area w).vsid = (s.sr.get 0).setWidth 24 ∧
      (area w).page.extractLsb' 5 15 = ea.extractLsb' 17 15
    let wi (w : Word) : Bool := ibmBit w 25 || ibmBit w 26
    let maps (m : Mapping) : Prop := dataMapping s ea store = .ok m ∧
      translateData s ea store = if m.denied then .error (.dsi true false store ea)
        else if m.needsChange then .error (.miss true m.key ea) else .ok m.pa
    let stops (e : AccessStop) : Prop := dataMapping s ea store = .error e ∧ translateData s ea store = .error e
    let plain (pa : Word) (wi denied : Bool) : Mapping := { pa, wi, denied, needsChange := false, key := false }
    (ibmBit s.msr 27 = false → maps (plain ea false false)) ∧
    (ibmBit s.msr 27 = true →
      (∀ k, hits k → (∀ j, j ≠ k → ¬hits j) →
        let lower := s.dbat[2 * k.val + 1]
        maps (plain ((lower &&& ~~~mask k &&& 0xFFFE0000) ||| (ea &&& mask k) ||| (ea &&& 0x0001FFFF)) (wi lower)
          (decide (lower.toNat % 4 = 0) || (store && decide (lower.toNat % 4 ≠ 2))))) ∧
      (∀ j k, j ≠ k → hits j → hits k → stops (.fault .multipleBatMatch)) ∧
      ((∀ k, ¬hits k) → protectionOnly s = true →
        let key0 := if user then ibmBit (s.sr.get 0) 2 else ibmBit (s.sr.get 0) 1
        (¬region false → ¬region true → stops (.miss store key0 ea)) ∧
        ∀ w, region w → ¬region (!w) → maps
          { pa := ea, wi := s.hid0.getLsbD hid0Layout.w.val || s.hid0.getLsbD hid0Layout.i.val
            denied := store && Config.poFormat.storeForbidden (area w).pte1 (ea.extractLsb' 12 5)
            needsChange := false, key := key0 }) ∧
      ((∀ k, ¬hits k) → protectionOnly s = false →
        (ibmBit sr 0 = true → stops (.dsi false true store ea)) ∧
        (ibmBit sr 0 = false → ¬found false → ¬found true → stops (.miss store key ea)) ∧
        ∀ w, ibmBit sr 0 = false → found w → ¬found (!w) →
          let pte := (entry w).pte1
          let pp := pte.toNat % 4
          maps
            { pa := BitVec.ofNat 32 (pte.toNat / 2 ^ 12 * 2 ^ 12 + ea.toNat % 2 ^ 12), wi := wi pte
              denied := decide ((key = true ∧ pp = 0) ∨ (store = true ∧ ((key = true ∧ pp ≠ 2) ∨ pp = 3)))
              needsChange := store && !ibmBit pte 24, key }))

/-- Instruction fetch: real mode, IBAT protection, direct-store and no-execute segments, page misses and protection (R151, R170, R172, R173, R174, R175, R176, R182, R186, R753, R766, R781). The place of NE in an IBAT is open, log entry 12; the miss before the check of N is log entry 30, both ISI causes together log entry 31, the protection-only format log entry 16. -/
def Obligations.InstructionFetch : Prop :=
  ∀ (s : State), s.windows = [] → s.leView = false →
    let ea := s.cia
    let user := ibmBit s.msr 17
    let sr := s.sr.get (ea.extractLsb' 28 4).toFin
    let key := if user then ibmBit sr 2 else ibmBit sr 1
    let mask (k : Fin 4) : Word := BitVec.ofNat 32 (s.ibat[2 * k.val].toNat / 4 % 2 ^ 11 * 2 ^ 17)
    let hits (k : Fin 4) : Prop :=
      (∀ j, j < 15 → ibmBit (mask k) j = false → ibmBit ea j = ibmBit s.ibat[2 * k.val] j) ∧
        ibmBit s.ibat[2 * k.val] (if user then 31 else 30) = true
    let entry (w : Bool) : TlbEntry := s.itlb.get (tlbIndex (ea.extractLsb' 12 4) w)
    let found (w : Bool) : Prop := (entry w).valid = true ∧ (entry w).vsid = sr.setWidth 24 ∧
      (entry w).page.extractLsb' 4 12 = ea.extractLsb' 16 12
    let area (w : Bool) : TlbEntry := s.itlb.get (tlbIndex (Config.poFormat.setOf ea) w)
    let region (w : Bool) : Prop := (area w).valid = true ∧ (area w).vsid = (s.sr.get 0).setWidth 24 ∧
      (area w).page.extractLsb' 5 15 = ea.extractLsb' 17 15
    let guarded (noExecute denied : Bool) (pa : Word) : Prop :=
      (noExecute = false ∧ denied = false → fetch s = .ok (fetchWord s pa)) ∧
      (noExecute = true ∨ denied = true → ∃ o, fetch s = .error o ∧
        Raises o .isi ((if noExecute then 0x10000000 else 0) ||| (if denied then 0x08000000 else 0)) s)
    (ibmBit s.msr 26 = false → fetch s = .ok (fetchWord s ea)) ∧
    (ibmBit s.msr 26 = true →
      (∀ k, hits k → (∀ j, j ≠ k → ¬hits j) →
        let lower := s.ibat[2 * k.val + 1]
        guarded (lower.getLsbD ibatNeBit) (decide (lower.toNat % 4 = 0))
          ((lower &&& ~~~mask k &&& 0xFFFE0000) ||| (ea &&& mask k) ||| (ea &&& 0x0001FFFF))) ∧
      (∀ j k, j ≠ k → hits j → hits k → fetch s = .error (.fault .multipleBatMatch)) ∧
      ((∀ k, ¬hits k) → protectionOnly s = true →
        (¬region false → ¬region true → fetch s =
          .error (.next (takeInstrMiss (if user then ibmBit (s.sr.get 0) 2 else ibmBit (s.sr.get 0) 1) s))) ∧
        ∀ w, region w → ¬region (!w) →
          guarded (Config.poFormat.fetchForbidden (area w).pte1 (ea.extractLsb' 12 5)) false ea) ∧
      ((∀ k, ¬hits k) → protectionOnly s = false →
        (ibmBit sr 0 = true → guarded true false ea) ∧
        (ibmBit sr 0 = false → ¬found false → ¬found true → fetch s = .error (.next (takeInstrMiss key s))) ∧
        ∀ w, ibmBit sr 0 = false → found w → ¬found (!w) →
          let pte := (entry w).pte1
          guarded (ibmBit sr 3) (key && decide (pte.toNat % 4 = 0))
            (BitVec.ofNat 32 (pte.toNat / 2 ^ 12 * 2 ^ 12 + ea.toNat % 2 ^ 12))))

/-- What a step does between instructions: resets, machine check and interrupts in the order of recognition (R751, R752, R759, R764, R780, R782, R795, R801, R802, R820, R830). Putting an interrupt off and entering a power mode late are free choices, log entries 24 and 25; what a hard reset keeps is log entry 33, the power state of a checkstopped core log entry 46 (DESIGN CHOICE), two soft resets at one boundary log entry 56, a latch set before sleep log entry 57. -/
def Obligations.BoundaryOrder : Prop :=
  ∀ (s : State),
    let u := beginStep s
    let quiet : Prop := u.pins.hreset = false ∧ u.checkstop = false
    let calm : Prop := quiet ∧ u.mcheckPending = false ∧ u.sresetPending = false ∧ u.wdtResetPending = false
    let conditions : List (Exception × Bool) := [(.smi, u.pins.smi), (.external, u.pins.int),
      (.decrementer, u.decPending), (.watchdog, u.wdtPending)]
    let standing : List Exception := (conditions.filter fun p => ibmBit u.msr 16 && p.2).map (·.1)
    let mayWait (e : Exception) : Prop := u.power = .full ∧ e ∉ u.deferred
    (u.pins.hreset = true → ∃ t, step s = .next t ∧ t.cia = 0xFFF00100 ∧ t.msr = 0x00000040 ∧ t.power = .full ∧
      t.powPending = none ∧ t.checkstop = false ∧ t.reserve = none ∧ t.decPending = false ∧ t.wdtPending = false ∧
      t.wdtResetPending = false ∧ t.tcr.ws = false ∧ t.tcr.we = false ∧ protectionOnly t = false ∧
      t.mem = u.mem ∧ t.map = u.map) ∧
    (u.pins.hreset = false → u.checkstop = true → step s = .next u) ∧
    (quiet → u.mcheckPending = true →
      (ibmBit u.msr 19 = true → step s = .next (takeException .machineCheck u.cia 0 { u with mcheckPending := false })) ∧
      (ibmBit u.msr 19 = false → step s = .next { u with mcheckPending := false, checkstop := true })) ∧
    (quiet → u.mcheckPending = false → u.sresetPending = true →
      step s = .next (takeException .softReset u.cia 0 { u with sresetPending := false })) ∧
    (quiet → u.mcheckPending = false → u.sresetPending = false → u.wdtResetPending = true →
      step s = .next (takeException .softReset u.cia 0
        { u with wdtResetPending := false, wdtPending := false, tcr := { u.tcr with ws := false } })) ∧
    (calm → standing ≠ [] →
      (∃ waiting e rest, standing = waiting ++ e :: rest ∧ (∀ w ∈ waiting, mayWait w) ∧
        step s = .next (takeException e u.cia 0 u)) ∨
      ((∀ w ∈ standing, mayWait w) ∧ step s = runInstruction { u with deferred := standing })) ∧
    (calm → standing = [] →
      let v := { u with deferred := [] }
      (u.power ≠ .full → step s = .next v) ∧
      (u.power = .full → u.powPending = none → step s = runInstruction v) ∧
      (u.power = .full → ∀ p, u.powPending = some p →
        step s = runInstruction v ∨ step s = .next { v with power := p, powPending := none }))

/-- A tick counts the time base up and the decrementer down, latches its exception, and expires the watchdog (R790, R791, R792, R794, R800). That the decrementer counts in nap is the model's choice, log entry 6; the watchdog's bits are open, log entry 11. -/
def Obligations.Timers : Prop :=
  ∀ (s : State),
    let counts : Prop := s.pins.tben = true ∧ s.power ≠ .sleep
    let t := tick s
    let bit := (Config.wdtBit s.tcr.wp).val
    let expires : Prop := s.tcr.we = true ∧ s.tb.getLsbD bit = true ∧ (s.tb + 1).getLsbD bit = false
    (¬counts → t = s) ∧
    (counts → t.tb = s.tb + 1 ∧ t.dec = s.dec - 1 ∧
      (t.decPending = true ↔ s.decPending = true ∨ (ibmBit s.dec 0 = false ∧ ibmBit (s.dec - 1) 0 = true)) ∧
      (¬expires → t.wdtPending = s.wdtPending ∧ t.wdtResetPending = s.wdtResetPending ∧ t.tcr = s.tcr) ∧
      (expires → s.tcr.ws = false → t.wdtPending = true ∧ t.wdtResetPending = s.wdtResetPending ∧
        t.tcr = { s.tcr with ws := true }) ∧
      (expires → s.tcr.ws = true → t.tcr = s.tcr ∧
        (s.tcr.wrc = true → t.wdtPending = s.wdtPending ∧ t.wdtResetPending = true) ∧
        (s.tcr.wrc = false → t.wdtPending = true ∧ t.wdtResetPending = s.wdtResetPending)) ∧
      t = { s with tb := t.tb, dec := t.dec, decPending := t.decPending, wdtPending := t.wdtPending,
                   wdtResetPending := t.wdtResetPending, tcr := t.tcr })

/-- A step runs the instruction that the word at CIA decodes to, and adds the trace exception where it is enabled (R241, R765, R768, R781, R820) -/
def Obligations.StepRunsInstruction : Prop :=
  ∀ (s u : State) (w : Word), atBoundary (beginStep s) = .runs u → fetch u = .ok w →
    let branch (i : Instr) : Prop := (∃ a b c, i = .b a b c) ∨ (∃ a b c d e, i = .bc a b c d e) ∨
      (∃ a b c, i = .bclr a b c) ∨ ∃ a b c, i = .bcctr a b c
    (u.windows = [] → (iabrHit u = true ↔ ibmBit u.iabr 30 = true ∧ u.iabr.toNat / 4 = u.cia.toNat / 4)) ∧
    (iabrHit u = true → Raises (step s) .iabrMatch 0 u) ∧
    (iabrHit u = false →
      (decode w = .error .illegal → Raises (step s) .program 0x00080000 u) ∧
      (decode w = .error .invalidForm → step s = .fault .invalidForm) ∧
      ∀ i, decode w = .ok i →
        let traced (t : State) : Prop := t.taken = none ∧ i ≠ .rfi ∧ i ≠ .sc ∧
          (ibmBit u.msr 21 = true ∨ (ibmBit u.msr 22 = true ∧ branch i))
        (∀ f, exec i u = .fault f → step s = .fault f) ∧ (∀ r, exec i u = .refused r → step s = .refused r) ∧
        ∀ t, exec i u = .next t →
          (¬traced t → step s = .next t) ∧ (traced t → step s = .next (takeException .trace t.cia 0 t)))

/-- Decoding the encoding of a well-formed instruction gives it back (R240, R241, R242, R243, R265, R266, R267, R268, R269, R271, R275, R781). The extended opcodes of tlbld, tlbli, esa and dsa are the model's choice, log entry 4; that words of absent instructions are illegal whatever their reserved bits hold is log entry 35 (DEDUCED) -/
def Obligations.DecodeEncode : Prop :=
  (∀ i : Instr, i.wellFormed = true → decode (encode i) = .ok i) ∧
  (∀ i j : Instr, i.wellFormed = true → j.wellFormed = true → encode i = encode j → i = j) ∧
  ∀ (w : Word) (i : Instr), decode w = .ok i → encode i ≠ w → ∀ s, Raises (exec i s) .program 0x00080000 s

/-- Words written out from the encodings decode to the instructions they stand for (R240, R242, R243, R256, R258, R269). The extended opcode of esa is the model's choice, log entry 4. -/
def Obligations.DecodeWords : Prop :=
  decode 0b001110_00011_00100_1111111111111111 = .ok (.addi 3 4 0xFFFF) ∧
  decode 0b011111_00011_00100_00101_0_100001010_1 = .ok (.add 3 4 5 false true) ∧
  decode 0b010101_00100_00011_01000_10000_11111_0 = .ok (.rlwinm 4 3 8 16 31 false) ∧
  decode 0b100001_00011_00100_0000000000001000 = .ok (.lwzu 3 4 8) ∧
  decode 0b011111_00011_01000_00000_0111010011_0 = .ok (.mtspr 3 8) ∧
  decode 0b010000_01100_00010_00000000000010_0_1 = .ok (.bc 12 2 2 false true) ∧
  decode 0b010011_00001_00010_00011_0100000001_0 = .ok (.crand 1 2 3) ∧
  decode 0b111011_00001_00010_00011_00100_11101_0 = .ok (.fmadds 1 2 3 4 false) ∧
  decode 0b011111_010_0_0_00011_00100_0000000000_0 = .ok (.cmp 2 0 3 4) ∧
  decode 0b011111_00011_0_10000001_0_0010010000_0 = .ok (.mtcrf 3 0b10000001) ∧
  decode 0b011111_00100_00011_00101_0000000100_0 = .ok (.tw 4 3 5) ∧
  decode 0b011111_00000_00000_00000_1001010100_0 = .ok .esa

/-- The reset state has the values the hard-reset rule states, and satisfies the invariant (R830, R831). The invariant rests on the model's reset values of XER and FPSCR, log entry 18, and of memory, log entry 21; other values are log entry 19. -/
def Obligations.ResetState : Prop :=
  State.reset.cia = 0xFFF00100 ∧ State.reset.msr = 0x00000040 ∧ State.reset.power = .full ∧
  State.reset.powPending = none ∧ State.reset.checkstop = false ∧ State.reset.reserve = none ∧
  State.reset.decPending = false ∧ State.reset.wdtPending = false ∧ State.reset.tcr.ws = false ∧
  State.reset.tcr.we = false ∧ protectionOnly State.reset = false ∧ Inv State.reset

/-- Every step keeps the invariant: canonical memory, aligned CIA, reserved bits 0, computed FPSCR summaries (R42, R48, R51, R52, R61, R100, R631). The implemented MSR bits hold the model's places of AP and SA, log entry 2; the granule is log entry 5. -/
def Obligations.StepKeepsInvariant : Prop :=
  ∀ s t : State, Inv s → step s = .next t → Inv t

/-- An instruction run in user mode changes no supervisor register but by taking an exception or a permitted esa (R274, R624, R640, R641, R786, R787). The numbers of the supervisor registers are the model's choice, log entry 1, and so is the place of MSR[AP], log entry 2. -/
def Obligations.UserModeConfined : Prop :=
  ∀ (i : Instr) (s t : State), s.prView = true → s.taken = none → exec i s = .next t →
    (t.taken = none ∧
      ((i = .esa ∧ esaPermitted s = true) ∨
        (t = { s with cia := t.cia, gpr := t.gpr, tgpr := t.tgpr, fpr := t.fpr, sp := t.sp, lt := t.lt, cr := t.cr
                      xer := t.xer, lr := t.lr, ctr := t.ctr, fpscr := t.fpscr, reserve := t.reserve, mem := t.mem
                      stale := t.stale, cached := t.cached, amid := t.amid, teaNext := t.teaNext
                      teaUnrecognised := t.teaUnrecognised, windows := t.windows } ∧
          (t.windows = s.windows ∨ i = .isync ∨ i = .sync)))) ∨
    ((∃ e, t.taken = some e) ∧ t.msr &&& 0x0080C030 = 0 ∧
      t = { s with cia := t.cia, gpr := t.gpr, tgpr := t.tgpr, fpr := t.fpr, sp := t.sp, lt := t.lt, cr := t.cr
                   xer := t.xer, lr := t.lr, ctr := t.ctr, fpscr := t.fpscr, reserve := t.reserve, mem := t.mem
                   stale := t.stale, cached := t.cached, amid := t.amid, teaNext := t.teaNext
                   teaUnrecognised := t.teaUnrecognised, msr := t.msr, srr0 := t.srr0, srr1 := t.srr1
                   dsisr := t.dsisr, dar := t.dar, dmiss := t.dmiss, missIsData := t.missIsData, taken := t.taken, power := .full, powPending := none
                   deferred := [], windows := [] })
end

