-- ==== Sys2Proof/Laws/State.lean ====
section
/-!
SUPPORT. What each update of the state leaves in each field it does not touch: one lemma per field per update, so that no
proof unfolds an update to read an unrelated field.
-/
namespace Sys2Proof.Machine

/- Writing a general register. -/

@[simp] theorem writeGpr_cia (s : State) (r : Reg) (v : Word) : (s.writeGpr r v).cia = s.cia := by unfold State.writeGpr; split <;> rfl
@[simp] theorem writeGpr_fpr (s : State) (r : Reg) (v : Word) : (s.writeGpr r v).fpr = s.fpr := by unfold State.writeGpr; split <;> rfl
@[simp] theorem writeGpr_sp (s : State) (r : Reg) (v : Word) : (s.writeGpr r v).sp = s.sp := by unfold State.writeGpr; split <;> rfl
@[simp] theorem writeGpr_lt (s : State) (r : Reg) (v : Word) : (s.writeGpr r v).lt = s.lt := by unfold State.writeGpr; split <;> rfl
@[simp] theorem writeGpr_cr (s : State) (r : Reg) (v : Word) : (s.writeGpr r v).cr = s.cr := by unfold State.writeGpr; split <;> rfl
@[simp] theorem writeGpr_xer (s : State) (r : Reg) (v : Word) : (s.writeGpr r v).xer = s.xer := by unfold State.writeGpr; split <;> rfl
@[simp] theorem writeGpr_lr (s : State) (r : Reg) (v : Word) : (s.writeGpr r v).lr = s.lr := by unfold State.writeGpr; split <;> rfl
@[simp] theorem writeGpr_ctr (s : State) (r : Reg) (v : Word) : (s.writeGpr r v).ctr = s.ctr := by unfold State.writeGpr; split <;> rfl
@[simp] theorem writeGpr_fpscr (s : State) (r : Reg) (v : Word) : (s.writeGpr r v).fpscr = s.fpscr := by unfold State.writeGpr; split <;> rfl
@[simp] theorem writeGpr_msr (s : State) (r : Reg) (v : Word) : (s.writeGpr r v).msr = s.msr := by unfold State.writeGpr; split <;> rfl
@[simp] theorem writeGpr_sr (s : State) (r : Reg) (v : Word) : (s.writeGpr r v).sr = s.sr := by unfold State.writeGpr; split <;> rfl
@[simp] theorem writeGpr_dsisr (s : State) (r : Reg) (v : Word) : (s.writeGpr r v).dsisr = s.dsisr := by unfold State.writeGpr; split <;> rfl
@[simp] theorem writeGpr_dar (s : State) (r : Reg) (v : Word) : (s.writeGpr r v).dar = s.dar := by unfold State.writeGpr; split <;> rfl
@[simp] theorem writeGpr_dec (s : State) (r : Reg) (v : Word) : (s.writeGpr r v).dec = s.dec := by unfold State.writeGpr; split <;> rfl
@[simp] theorem writeGpr_sdr1 (s : State) (r : Reg) (v : Word) : (s.writeGpr r v).sdr1 = s.sdr1 := by unfold State.writeGpr; split <;> rfl
@[simp] theorem writeGpr_srr0 (s : State) (r : Reg) (v : Word) : (s.writeGpr r v).srr0 = s.srr0 := by unfold State.writeGpr; split <;> rfl
@[simp] theorem writeGpr_srr1 (s : State) (r : Reg) (v : Word) : (s.writeGpr r v).srr1 = s.srr1 := by unfold State.writeGpr; split <;> rfl
@[simp] theorem writeGpr_sprg (s : State) (r : Reg) (v : Word) : (s.writeGpr r v).sprg = s.sprg := by unfold State.writeGpr; split <;> rfl
@[simp] theorem writeGpr_tb (s : State) (r : Reg) (v : Word) : (s.writeGpr r v).tb = s.tb := by unfold State.writeGpr; split <;> rfl
@[simp] theorem writeGpr_ibat (s : State) (r : Reg) (v : Word) : (s.writeGpr r v).ibat = s.ibat := by unfold State.writeGpr; split <;> rfl
@[simp] theorem writeGpr_dbat (s : State) (r : Reg) (v : Word) : (s.writeGpr r v).dbat = s.dbat := by unfold State.writeGpr; split <;> rfl
@[simp] theorem writeGpr_dmiss (s : State) (r : Reg) (v : Word) : (s.writeGpr r v).dmiss = s.dmiss := by unfold State.writeGpr; split <;> rfl
@[simp] theorem writeGpr_imiss (s : State) (r : Reg) (v : Word) : (s.writeGpr r v).imiss = s.imiss := by unfold State.writeGpr; split <;> rfl
@[simp] theorem writeGpr_missIsData (s : State) (r : Reg) (v : Word) : (s.writeGpr r v).missIsData = s.missIsData := by unfold State.writeGpr; split <;> rfl
@[simp] theorem writeGpr_rpa (s : State) (r : Reg) (v : Word) : (s.writeGpr r v).rpa = s.rpa := by unfold State.writeGpr; split <;> rfl
@[simp] theorem writeGpr_tcr (s : State) (r : Reg) (v : Word) : (s.writeGpr r v).tcr = s.tcr := by unfold State.writeGpr; split <;> rfl
@[simp] theorem writeGpr_ibr (s : State) (r : Reg) (v : Word) : (s.writeGpr r v).ibr = s.ibr := by unfold State.writeGpr; split <;> rfl
@[simp] theorem writeGpr_esasrr (s : State) (r : Reg) (v : Word) : (s.writeGpr r v).esasrr = s.esasrr := by unfold State.writeGpr; split <;> rfl
@[simp] theorem writeGpr_sebr (s : State) (r : Reg) (v : Word) : (s.writeGpr r v).sebr = s.sebr := by unfold State.writeGpr; split <;> rfl
@[simp] theorem writeGpr_ser (s : State) (r : Reg) (v : Word) : (s.writeGpr r v).ser = s.ser := by unfold State.writeGpr; split <;> rfl
@[simp] theorem writeGpr_hid0 (s : State) (r : Reg) (v : Word) : (s.writeGpr r v).hid0 = s.hid0 := by unfold State.writeGpr; split <;> rfl
@[simp] theorem writeGpr_iabr (s : State) (r : Reg) (v : Word) : (s.writeGpr r v).iabr = s.iabr := by unfold State.writeGpr; split <;> rfl
@[simp] theorem writeGpr_reserve (s : State) (r : Reg) (v : Word) : (s.writeGpr r v).reserve = s.reserve := by unfold State.writeGpr; split <;> rfl
@[simp] theorem writeGpr_itlb (s : State) (r : Reg) (v : Word) : (s.writeGpr r v).itlb = s.itlb := by unfold State.writeGpr; split <;> rfl
@[simp] theorem writeGpr_dtlb (s : State) (r : Reg) (v : Word) : (s.writeGpr r v).dtlb = s.dtlb := by unfold State.writeGpr; split <;> rfl
@[simp] theorem writeGpr_mem (s : State) (r : Reg) (v : Word) : (s.writeGpr r v).mem = s.mem := by unfold State.writeGpr; split <;> rfl
@[simp] theorem writeGpr_stale (s : State) (r : Reg) (v : Word) : (s.writeGpr r v).stale = s.stale := by unfold State.writeGpr; split <;> rfl
@[simp] theorem writeGpr_power (s : State) (r : Reg) (v : Word) : (s.writeGpr r v).power = s.power := by unfold State.writeGpr; split <;> rfl
@[simp] theorem writeGpr_powPending (s : State) (r : Reg) (v : Word) : (s.writeGpr r v).powPending = s.powPending := by unfold State.writeGpr; split <;> rfl
@[simp] theorem writeGpr_checkstop (s : State) (r : Reg) (v : Word) : (s.writeGpr r v).checkstop = s.checkstop := by unfold State.writeGpr; split <;> rfl
@[simp] theorem writeGpr_pins (s : State) (r : Reg) (v : Word) : (s.writeGpr r v).pins = s.pins := by unfold State.writeGpr; split <;> rfl
@[simp] theorem writeGpr_sresetPending (s : State) (r : Reg) (v : Word) : (s.writeGpr r v).sresetPending = s.sresetPending := by unfold State.writeGpr; split <;> rfl
@[simp] theorem writeGpr_mcheckPending (s : State) (r : Reg) (v : Word) : (s.writeGpr r v).mcheckPending = s.mcheckPending := by unfold State.writeGpr; split <;> rfl
@[simp] theorem writeGpr_wdtResetPending (s : State) (r : Reg) (v : Word) : (s.writeGpr r v).wdtResetPending = s.wdtResetPending := by unfold State.writeGpr; split <;> rfl
@[simp] theorem writeGpr_decPending (s : State) (r : Reg) (v : Word) : (s.writeGpr r v).decPending = s.decPending := by unfold State.writeGpr; split <;> rfl
@[simp] theorem writeGpr_wdtPending (s : State) (r : Reg) (v : Word) : (s.writeGpr r v).wdtPending = s.wdtPending := by unfold State.writeGpr; split <;> rfl
@[simp] theorem writeGpr_env (s : State) (r : Reg) (v : Word) : (s.writeGpr r v).env = s.env := by unfold State.writeGpr; split <;> rfl
@[simp] theorem writeGpr_map (s : State) (r : Reg) (v : Word) : (s.writeGpr r v).map = s.map := by unfold State.writeGpr; split <;> rfl
@[simp] theorem writeGpr_cached (s : State) (r : Reg) (v : Word) : (s.writeGpr r v).cached = s.cached := by unfold State.writeGpr; split <;> rfl
@[simp] theorem writeGpr_amid (s : State) (r : Reg) (v : Word) : (s.writeGpr r v).amid = s.amid := by unfold State.writeGpr; split <;> rfl
@[simp] theorem writeGpr_teaNext (s : State) (r : Reg) (v : Word) : (s.writeGpr r v).teaNext = s.teaNext := by unfold State.writeGpr; split <;> rfl
@[simp] theorem writeGpr_teaUnrecognised (s : State) (r : Reg) (v : Word) : (s.writeGpr r v).teaUnrecognised = s.teaUnrecognised := by unfold State.writeGpr; split <;> rfl
@[simp] theorem writeGpr_draws (s : State) (r : Reg) (v : Word) : (s.writeGpr r v).draws = s.draws := by unfold State.writeGpr; split <;> rfl
@[simp] theorem writeGpr_deferred (s : State) (r : Reg) (v : Word) : (s.writeGpr r v).deferred = s.deferred := by unfold State.writeGpr; split <;> rfl
@[simp] theorem writeGpr_windows (s : State) (r : Reg) (v : Word) : (s.writeGpr r v).windows = s.windows := by unfold State.writeGpr; split <;> rfl
@[simp] theorem writeGpr_taken (s : State) (r : Reg) (v : Word) : (s.writeGpr r v).taken = s.taken := by unfold State.writeGpr; split <;> rfl

/- Writing a floating-point register. -/

@[simp] theorem writeFpr_cia (s : State) (r : Reg) (v : Word) (b : Bool) : (s.writeFpr r v b).cia = s.cia := rfl
@[simp] theorem writeFpr_gpr (s : State) (r : Reg) (v : Word) (b : Bool) : (s.writeFpr r v b).gpr = s.gpr := rfl
@[simp] theorem writeFpr_tgpr (s : State) (r : Reg) (v : Word) (b : Bool) : (s.writeFpr r v b).tgpr = s.tgpr := rfl
@[simp] theorem writeFpr_cr (s : State) (r : Reg) (v : Word) (b : Bool) : (s.writeFpr r v b).cr = s.cr := rfl
@[simp] theorem writeFpr_xer (s : State) (r : Reg) (v : Word) (b : Bool) : (s.writeFpr r v b).xer = s.xer := rfl
@[simp] theorem writeFpr_lr (s : State) (r : Reg) (v : Word) (b : Bool) : (s.writeFpr r v b).lr = s.lr := rfl
@[simp] theorem writeFpr_ctr (s : State) (r : Reg) (v : Word) (b : Bool) : (s.writeFpr r v b).ctr = s.ctr := rfl
@[simp] theorem writeFpr_fpscr (s : State) (r : Reg) (v : Word) (b : Bool) : (s.writeFpr r v b).fpscr = s.fpscr := rfl
@[simp] theorem writeFpr_msr (s : State) (r : Reg) (v : Word) (b : Bool) : (s.writeFpr r v b).msr = s.msr := rfl
@[simp] theorem writeFpr_sr (s : State) (r : Reg) (v : Word) (b : Bool) : (s.writeFpr r v b).sr = s.sr := rfl
@[simp] theorem writeFpr_dsisr (s : State) (r : Reg) (v : Word) (b : Bool) : (s.writeFpr r v b).dsisr = s.dsisr := rfl
@[simp] theorem writeFpr_dar (s : State) (r : Reg) (v : Word) (b : Bool) : (s.writeFpr r v b).dar = s.dar := rfl
@[simp] theorem writeFpr_dec (s : State) (r : Reg) (v : Word) (b : Bool) : (s.writeFpr r v b).dec = s.dec := rfl
@[simp] theorem writeFpr_sdr1 (s : State) (r : Reg) (v : Word) (b : Bool) : (s.writeFpr r v b).sdr1 = s.sdr1 := rfl
@[simp] theorem writeFpr_srr0 (s : State) (r : Reg) (v : Word) (b : Bool) : (s.writeFpr r v b).srr0 = s.srr0 := rfl
@[simp] theorem writeFpr_srr1 (s : State) (r : Reg) (v : Word) (b : Bool) : (s.writeFpr r v b).srr1 = s.srr1 := rfl
@[simp] theorem writeFpr_sprg (s : State) (r : Reg) (v : Word) (b : Bool) : (s.writeFpr r v b).sprg = s.sprg := rfl
@[simp] theorem writeFpr_tb (s : State) (r : Reg) (v : Word) (b : Bool) : (s.writeFpr r v b).tb = s.tb := rfl
@[simp] theorem writeFpr_ibat (s : State) (r : Reg) (v : Word) (b : Bool) : (s.writeFpr r v b).ibat = s.ibat := rfl
@[simp] theorem writeFpr_dbat (s : State) (r : Reg) (v : Word) (b : Bool) : (s.writeFpr r v b).dbat = s.dbat := rfl
@[simp] theorem writeFpr_dmiss (s : State) (r : Reg) (v : Word) (b : Bool) : (s.writeFpr r v b).dmiss = s.dmiss := rfl
@[simp] theorem writeFpr_imiss (s : State) (r : Reg) (v : Word) (b : Bool) : (s.writeFpr r v b).imiss = s.imiss := rfl
@[simp] theorem writeFpr_missIsData (s : State) (r : Reg) (v : Word) (b : Bool) : (s.writeFpr r v b).missIsData = s.missIsData := rfl
@[simp] theorem writeFpr_rpa (s : State) (r : Reg) (v : Word) (b : Bool) : (s.writeFpr r v b).rpa = s.rpa := rfl
@[simp] theorem writeFpr_tcr (s : State) (r : Reg) (v : Word) (b : Bool) : (s.writeFpr r v b).tcr = s.tcr := rfl
@[simp] theorem writeFpr_ibr (s : State) (r : Reg) (v : Word) (b : Bool) : (s.writeFpr r v b).ibr = s.ibr := rfl
@[simp] theorem writeFpr_esasrr (s : State) (r : Reg) (v : Word) (b : Bool) : (s.writeFpr r v b).esasrr = s.esasrr := rfl
@[simp] theorem writeFpr_sebr (s : State) (r : Reg) (v : Word) (b : Bool) : (s.writeFpr r v b).sebr = s.sebr := rfl
@[simp] theorem writeFpr_ser (s : State) (r : Reg) (v : Word) (b : Bool) : (s.writeFpr r v b).ser = s.ser := rfl
@[simp] theorem writeFpr_hid0 (s : State) (r : Reg) (v : Word) (b : Bool) : (s.writeFpr r v b).hid0 = s.hid0 := rfl
@[simp] theorem writeFpr_iabr (s : State) (r : Reg) (v : Word) (b : Bool) : (s.writeFpr r v b).iabr = s.iabr := rfl
@[simp] theorem writeFpr_reserve (s : State) (r : Reg) (v : Word) (b : Bool) : (s.writeFpr r v b).reserve = s.reserve := rfl
@[simp] theorem writeFpr_itlb (s : State) (r : Reg) (v : Word) (b : Bool) : (s.writeFpr r v b).itlb = s.itlb := rfl
@[simp] theorem writeFpr_dtlb (s : State) (r : Reg) (v : Word) (b : Bool) : (s.writeFpr r v b).dtlb = s.dtlb := rfl
@[simp] theorem writeFpr_mem (s : State) (r : Reg) (v : Word) (b : Bool) : (s.writeFpr r v b).mem = s.mem := rfl
@[simp] theorem writeFpr_stale (s : State) (r : Reg) (v : Word) (b : Bool) : (s.writeFpr r v b).stale = s.stale := rfl
@[simp] theorem writeFpr_power (s : State) (r : Reg) (v : Word) (b : Bool) : (s.writeFpr r v b).power = s.power := rfl
@[simp] theorem writeFpr_powPending (s : State) (r : Reg) (v : Word) (b : Bool) : (s.writeFpr r v b).powPending = s.powPending := rfl
@[simp] theorem writeFpr_checkstop (s : State) (r : Reg) (v : Word) (b : Bool) : (s.writeFpr r v b).checkstop = s.checkstop := rfl
@[simp] theorem writeFpr_pins (s : State) (r : Reg) (v : Word) (b : Bool) : (s.writeFpr r v b).pins = s.pins := rfl
@[simp] theorem writeFpr_sresetPending (s : State) (r : Reg) (v : Word) (b : Bool) : (s.writeFpr r v b).sresetPending = s.sresetPending := rfl
@[simp] theorem writeFpr_mcheckPending (s : State) (r : Reg) (v : Word) (b : Bool) : (s.writeFpr r v b).mcheckPending = s.mcheckPending := rfl
@[simp] theorem writeFpr_wdtResetPending (s : State) (r : Reg) (v : Word) (b : Bool) : (s.writeFpr r v b).wdtResetPending = s.wdtResetPending := rfl
@[simp] theorem writeFpr_decPending (s : State) (r : Reg) (v : Word) (b : Bool) : (s.writeFpr r v b).decPending = s.decPending := rfl
@[simp] theorem writeFpr_wdtPending (s : State) (r : Reg) (v : Word) (b : Bool) : (s.writeFpr r v b).wdtPending = s.wdtPending := rfl
@[simp] theorem writeFpr_env (s : State) (r : Reg) (v : Word) (b : Bool) : (s.writeFpr r v b).env = s.env := rfl
@[simp] theorem writeFpr_map (s : State) (r : Reg) (v : Word) (b : Bool) : (s.writeFpr r v b).map = s.map := rfl
@[simp] theorem writeFpr_cached (s : State) (r : Reg) (v : Word) (b : Bool) : (s.writeFpr r v b).cached = s.cached := rfl
@[simp] theorem writeFpr_amid (s : State) (r : Reg) (v : Word) (b : Bool) : (s.writeFpr r v b).amid = s.amid := rfl
@[simp] theorem writeFpr_teaNext (s : State) (r : Reg) (v : Word) (b : Bool) : (s.writeFpr r v b).teaNext = s.teaNext := rfl
@[simp] theorem writeFpr_teaUnrecognised (s : State) (r : Reg) (v : Word) (b : Bool) : (s.writeFpr r v b).teaUnrecognised = s.teaUnrecognised := rfl
@[simp] theorem writeFpr_draws (s : State) (r : Reg) (v : Word) (b : Bool) : (s.writeFpr r v b).draws = s.draws := rfl
@[simp] theorem writeFpr_deferred (s : State) (r : Reg) (v : Word) (b : Bool) : (s.writeFpr r v b).deferred = s.deferred := rfl
@[simp] theorem writeFpr_windows (s : State) (r : Reg) (v : Word) (b : Bool) : (s.writeFpr r v b).windows = s.windows := rfl
@[simp] theorem writeFpr_taken (s : State) (r : Reg) (v : Word) (b : Bool) : (s.writeFpr r v b).taken = s.taken := rfl

/- Writing a CR field. -/

@[simp] theorem setCrField_cia (s : State) (n : BitVec 3) (v : BitVec 4) : (setCrField s n v).cia = s.cia := rfl
@[simp] theorem setCrField_gpr (s : State) (n : BitVec 3) (v : BitVec 4) : (setCrField s n v).gpr = s.gpr := rfl
@[simp] theorem setCrField_tgpr (s : State) (n : BitVec 3) (v : BitVec 4) : (setCrField s n v).tgpr = s.tgpr := rfl
@[simp] theorem setCrField_fpr (s : State) (n : BitVec 3) (v : BitVec 4) : (setCrField s n v).fpr = s.fpr := rfl
@[simp] theorem setCrField_sp (s : State) (n : BitVec 3) (v : BitVec 4) : (setCrField s n v).sp = s.sp := rfl
@[simp] theorem setCrField_lt (s : State) (n : BitVec 3) (v : BitVec 4) : (setCrField s n v).lt = s.lt := rfl
@[simp] theorem setCrField_xer (s : State) (n : BitVec 3) (v : BitVec 4) : (setCrField s n v).xer = s.xer := rfl
@[simp] theorem setCrField_lr (s : State) (n : BitVec 3) (v : BitVec 4) : (setCrField s n v).lr = s.lr := rfl
@[simp] theorem setCrField_ctr (s : State) (n : BitVec 3) (v : BitVec 4) : (setCrField s n v).ctr = s.ctr := rfl
@[simp] theorem setCrField_fpscr (s : State) (n : BitVec 3) (v : BitVec 4) : (setCrField s n v).fpscr = s.fpscr := rfl
@[simp] theorem setCrField_msr (s : State) (n : BitVec 3) (v : BitVec 4) : (setCrField s n v).msr = s.msr := rfl
@[simp] theorem setCrField_sr (s : State) (n : BitVec 3) (v : BitVec 4) : (setCrField s n v).sr = s.sr := rfl
@[simp] theorem setCrField_dsisr (s : State) (n : BitVec 3) (v : BitVec 4) : (setCrField s n v).dsisr = s.dsisr := rfl
@[simp] theorem setCrField_dar (s : State) (n : BitVec 3) (v : BitVec 4) : (setCrField s n v).dar = s.dar := rfl
@[simp] theorem setCrField_dec (s : State) (n : BitVec 3) (v : BitVec 4) : (setCrField s n v).dec = s.dec := rfl
@[simp] theorem setCrField_sdr1 (s : State) (n : BitVec 3) (v : BitVec 4) : (setCrField s n v).sdr1 = s.sdr1 := rfl
@[simp] theorem setCrField_srr0 (s : State) (n : BitVec 3) (v : BitVec 4) : (setCrField s n v).srr0 = s.srr0 := rfl
@[simp] theorem setCrField_srr1 (s : State) (n : BitVec 3) (v : BitVec 4) : (setCrField s n v).srr1 = s.srr1 := rfl
@[simp] theorem setCrField_sprg (s : State) (n : BitVec 3) (v : BitVec 4) : (setCrField s n v).sprg = s.sprg := rfl
@[simp] theorem setCrField_tb (s : State) (n : BitVec 3) (v : BitVec 4) : (setCrField s n v).tb = s.tb := rfl
@[simp] theorem setCrField_ibat (s : State) (n : BitVec 3) (v : BitVec 4) : (setCrField s n v).ibat = s.ibat := rfl
@[simp] theorem setCrField_dbat (s : State) (n : BitVec 3) (v : BitVec 4) : (setCrField s n v).dbat = s.dbat := rfl
@[simp] theorem setCrField_dmiss (s : State) (n : BitVec 3) (v : BitVec 4) : (setCrField s n v).dmiss = s.dmiss := rfl
@[simp] theorem setCrField_imiss (s : State) (n : BitVec 3) (v : BitVec 4) : (setCrField s n v).imiss = s.imiss := rfl
@[simp] theorem setCrField_missIsData (s : State) (n : BitVec 3) (v : BitVec 4) : (setCrField s n v).missIsData = s.missIsData := rfl
@[simp] theorem setCrField_rpa (s : State) (n : BitVec 3) (v : BitVec 4) : (setCrField s n v).rpa = s.rpa := rfl
@[simp] theorem setCrField_tcr (s : State) (n : BitVec 3) (v : BitVec 4) : (setCrField s n v).tcr = s.tcr := rfl
@[simp] theorem setCrField_ibr (s : State) (n : BitVec 3) (v : BitVec 4) : (setCrField s n v).ibr = s.ibr := rfl
@[simp] theorem setCrField_esasrr (s : State) (n : BitVec 3) (v : BitVec 4) : (setCrField s n v).esasrr = s.esasrr := rfl
@[simp] theorem setCrField_sebr (s : State) (n : BitVec 3) (v : BitVec 4) : (setCrField s n v).sebr = s.sebr := rfl
@[simp] theorem setCrField_ser (s : State) (n : BitVec 3) (v : BitVec 4) : (setCrField s n v).ser = s.ser := rfl
@[simp] theorem setCrField_hid0 (s : State) (n : BitVec 3) (v : BitVec 4) : (setCrField s n v).hid0 = s.hid0 := rfl
@[simp] theorem setCrField_iabr (s : State) (n : BitVec 3) (v : BitVec 4) : (setCrField s n v).iabr = s.iabr := rfl
@[simp] theorem setCrField_reserve (s : State) (n : BitVec 3) (v : BitVec 4) : (setCrField s n v).reserve = s.reserve := rfl
@[simp] theorem setCrField_itlb (s : State) (n : BitVec 3) (v : BitVec 4) : (setCrField s n v).itlb = s.itlb := rfl
@[simp] theorem setCrField_dtlb (s : State) (n : BitVec 3) (v : BitVec 4) : (setCrField s n v).dtlb = s.dtlb := rfl
@[simp] theorem setCrField_mem (s : State) (n : BitVec 3) (v : BitVec 4) : (setCrField s n v).mem = s.mem := rfl
@[simp] theorem setCrField_stale (s : State) (n : BitVec 3) (v : BitVec 4) : (setCrField s n v).stale = s.stale := rfl
@[simp] theorem setCrField_power (s : State) (n : BitVec 3) (v : BitVec 4) : (setCrField s n v).power = s.power := rfl
@[simp] theorem setCrField_powPending (s : State) (n : BitVec 3) (v : BitVec 4) : (setCrField s n v).powPending = s.powPending := rfl
@[simp] theorem setCrField_checkstop (s : State) (n : BitVec 3) (v : BitVec 4) : (setCrField s n v).checkstop = s.checkstop := rfl
@[simp] theorem setCrField_pins (s : State) (n : BitVec 3) (v : BitVec 4) : (setCrField s n v).pins = s.pins := rfl
@[simp] theorem setCrField_sresetPending (s : State) (n : BitVec 3) (v : BitVec 4) : (setCrField s n v).sresetPending = s.sresetPending := rfl
@[simp] theorem setCrField_mcheckPending (s : State) (n : BitVec 3) (v : BitVec 4) : (setCrField s n v).mcheckPending = s.mcheckPending := rfl
@[simp] theorem setCrField_wdtResetPending (s : State) (n : BitVec 3) (v : BitVec 4) : (setCrField s n v).wdtResetPending = s.wdtResetPending := rfl
@[simp] theorem setCrField_decPending (s : State) (n : BitVec 3) (v : BitVec 4) : (setCrField s n v).decPending = s.decPending := rfl
@[simp] theorem setCrField_wdtPending (s : State) (n : BitVec 3) (v : BitVec 4) : (setCrField s n v).wdtPending = s.wdtPending := rfl
@[simp] theorem setCrField_env (s : State) (n : BitVec 3) (v : BitVec 4) : (setCrField s n v).env = s.env := rfl
@[simp] theorem setCrField_map (s : State) (n : BitVec 3) (v : BitVec 4) : (setCrField s n v).map = s.map := rfl
@[simp] theorem setCrField_cached (s : State) (n : BitVec 3) (v : BitVec 4) : (setCrField s n v).cached = s.cached := rfl
@[simp] theorem setCrField_amid (s : State) (n : BitVec 3) (v : BitVec 4) : (setCrField s n v).amid = s.amid := rfl
@[simp] theorem setCrField_teaNext (s : State) (n : BitVec 3) (v : BitVec 4) : (setCrField s n v).teaNext = s.teaNext := rfl
@[simp] theorem setCrField_teaUnrecognised (s : State) (n : BitVec 3) (v : BitVec 4) : (setCrField s n v).teaUnrecognised = s.teaUnrecognised := rfl
@[simp] theorem setCrField_draws (s : State) (n : BitVec 3) (v : BitVec 4) : (setCrField s n v).draws = s.draws := rfl
@[simp] theorem setCrField_deferred (s : State) (n : BitVec 3) (v : BitVec 4) : (setCrField s n v).deferred = s.deferred := rfl
@[simp] theorem setCrField_windows (s : State) (n : BitVec 3) (v : BitVec 4) : (setCrField s n v).windows = s.windows := rfl
@[simp] theorem setCrField_taken (s : State) (n : BitVec 3) (v : BitVec 4) : (setCrField s n v).taken = s.taken := rfl

/- Writing a CR bit. -/

@[simp] theorem setCrBit_cia (s : State) (k : BitVec 5) (b : Bool) : (setCrBit s k b).cia = s.cia := rfl
@[simp] theorem setCrBit_gpr (s : State) (k : BitVec 5) (b : Bool) : (setCrBit s k b).gpr = s.gpr := rfl
@[simp] theorem setCrBit_tgpr (s : State) (k : BitVec 5) (b : Bool) : (setCrBit s k b).tgpr = s.tgpr := rfl
@[simp] theorem setCrBit_fpr (s : State) (k : BitVec 5) (b : Bool) : (setCrBit s k b).fpr = s.fpr := rfl
@[simp] theorem setCrBit_sp (s : State) (k : BitVec 5) (b : Bool) : (setCrBit s k b).sp = s.sp := rfl
@[simp] theorem setCrBit_lt (s : State) (k : BitVec 5) (b : Bool) : (setCrBit s k b).lt = s.lt := rfl
@[simp] theorem setCrBit_xer (s : State) (k : BitVec 5) (b : Bool) : (setCrBit s k b).xer = s.xer := rfl
@[simp] theorem setCrBit_lr (s : State) (k : BitVec 5) (b : Bool) : (setCrBit s k b).lr = s.lr := rfl
@[simp] theorem setCrBit_ctr (s : State) (k : BitVec 5) (b : Bool) : (setCrBit s k b).ctr = s.ctr := rfl
@[simp] theorem setCrBit_fpscr (s : State) (k : BitVec 5) (b : Bool) : (setCrBit s k b).fpscr = s.fpscr := rfl
@[simp] theorem setCrBit_msr (s : State) (k : BitVec 5) (b : Bool) : (setCrBit s k b).msr = s.msr := rfl
@[simp] theorem setCrBit_sr (s : State) (k : BitVec 5) (b : Bool) : (setCrBit s k b).sr = s.sr := rfl
@[simp] theorem setCrBit_dsisr (s : State) (k : BitVec 5) (b : Bool) : (setCrBit s k b).dsisr = s.dsisr := rfl
@[simp] theorem setCrBit_dar (s : State) (k : BitVec 5) (b : Bool) : (setCrBit s k b).dar = s.dar := rfl
@[simp] theorem setCrBit_dec (s : State) (k : BitVec 5) (b : Bool) : (setCrBit s k b).dec = s.dec := rfl
@[simp] theorem setCrBit_sdr1 (s : State) (k : BitVec 5) (b : Bool) : (setCrBit s k b).sdr1 = s.sdr1 := rfl
@[simp] theorem setCrBit_srr0 (s : State) (k : BitVec 5) (b : Bool) : (setCrBit s k b).srr0 = s.srr0 := rfl
@[simp] theorem setCrBit_srr1 (s : State) (k : BitVec 5) (b : Bool) : (setCrBit s k b).srr1 = s.srr1 := rfl
@[simp] theorem setCrBit_sprg (s : State) (k : BitVec 5) (b : Bool) : (setCrBit s k b).sprg = s.sprg := rfl
@[simp] theorem setCrBit_tb (s : State) (k : BitVec 5) (b : Bool) : (setCrBit s k b).tb = s.tb := rfl
@[simp] theorem setCrBit_ibat (s : State) (k : BitVec 5) (b : Bool) : (setCrBit s k b).ibat = s.ibat := rfl
@[simp] theorem setCrBit_dbat (s : State) (k : BitVec 5) (b : Bool) : (setCrBit s k b).dbat = s.dbat := rfl
@[simp] theorem setCrBit_dmiss (s : State) (k : BitVec 5) (b : Bool) : (setCrBit s k b).dmiss = s.dmiss := rfl
@[simp] theorem setCrBit_imiss (s : State) (k : BitVec 5) (b : Bool) : (setCrBit s k b).imiss = s.imiss := rfl
@[simp] theorem setCrBit_missIsData (s : State) (k : BitVec 5) (b : Bool) : (setCrBit s k b).missIsData = s.missIsData := rfl
@[simp] theorem setCrBit_rpa (s : State) (k : BitVec 5) (b : Bool) : (setCrBit s k b).rpa = s.rpa := rfl
@[simp] theorem setCrBit_tcr (s : State) (k : BitVec 5) (b : Bool) : (setCrBit s k b).tcr = s.tcr := rfl
@[simp] theorem setCrBit_ibr (s : State) (k : BitVec 5) (b : Bool) : (setCrBit s k b).ibr = s.ibr := rfl
@[simp] theorem setCrBit_esasrr (s : State) (k : BitVec 5) (b : Bool) : (setCrBit s k b).esasrr = s.esasrr := rfl
@[simp] theorem setCrBit_sebr (s : State) (k : BitVec 5) (b : Bool) : (setCrBit s k b).sebr = s.sebr := rfl
@[simp] theorem setCrBit_ser (s : State) (k : BitVec 5) (b : Bool) : (setCrBit s k b).ser = s.ser := rfl
@[simp] theorem setCrBit_hid0 (s : State) (k : BitVec 5) (b : Bool) : (setCrBit s k b).hid0 = s.hid0 := rfl
@[simp] theorem setCrBit_iabr (s : State) (k : BitVec 5) (b : Bool) : (setCrBit s k b).iabr = s.iabr := rfl
@[simp] theorem setCrBit_reserve (s : State) (k : BitVec 5) (b : Bool) : (setCrBit s k b).reserve = s.reserve := rfl
@[simp] theorem setCrBit_itlb (s : State) (k : BitVec 5) (b : Bool) : (setCrBit s k b).itlb = s.itlb := rfl
@[simp] theorem setCrBit_dtlb (s : State) (k : BitVec 5) (b : Bool) : (setCrBit s k b).dtlb = s.dtlb := rfl
@[simp] theorem setCrBit_mem (s : State) (k : BitVec 5) (b : Bool) : (setCrBit s k b).mem = s.mem := rfl
@[simp] theorem setCrBit_stale (s : State) (k : BitVec 5) (b : Bool) : (setCrBit s k b).stale = s.stale := rfl
@[simp] theorem setCrBit_power (s : State) (k : BitVec 5) (b : Bool) : (setCrBit s k b).power = s.power := rfl
@[simp] theorem setCrBit_powPending (s : State) (k : BitVec 5) (b : Bool) : (setCrBit s k b).powPending = s.powPending := rfl
@[simp] theorem setCrBit_checkstop (s : State) (k : BitVec 5) (b : Bool) : (setCrBit s k b).checkstop = s.checkstop := rfl
@[simp] theorem setCrBit_pins (s : State) (k : BitVec 5) (b : Bool) : (setCrBit s k b).pins = s.pins := rfl
@[simp] theorem setCrBit_sresetPending (s : State) (k : BitVec 5) (b : Bool) : (setCrBit s k b).sresetPending = s.sresetPending := rfl
@[simp] theorem setCrBit_mcheckPending (s : State) (k : BitVec 5) (b : Bool) : (setCrBit s k b).mcheckPending = s.mcheckPending := rfl
@[simp] theorem setCrBit_wdtResetPending (s : State) (k : BitVec 5) (b : Bool) : (setCrBit s k b).wdtResetPending = s.wdtResetPending := rfl
@[simp] theorem setCrBit_decPending (s : State) (k : BitVec 5) (b : Bool) : (setCrBit s k b).decPending = s.decPending := rfl
@[simp] theorem setCrBit_wdtPending (s : State) (k : BitVec 5) (b : Bool) : (setCrBit s k b).wdtPending = s.wdtPending := rfl
@[simp] theorem setCrBit_env (s : State) (k : BitVec 5) (b : Bool) : (setCrBit s k b).env = s.env := rfl
@[simp] theorem setCrBit_map (s : State) (k : BitVec 5) (b : Bool) : (setCrBit s k b).map = s.map := rfl
@[simp] theorem setCrBit_cached (s : State) (k : BitVec 5) (b : Bool) : (setCrBit s k b).cached = s.cached := rfl
@[simp] theorem setCrBit_amid (s : State) (k : BitVec 5) (b : Bool) : (setCrBit s k b).amid = s.amid := rfl
@[simp] theorem setCrBit_teaNext (s : State) (k : BitVec 5) (b : Bool) : (setCrBit s k b).teaNext = s.teaNext := rfl
@[simp] theorem setCrBit_teaUnrecognised (s : State) (k : BitVec 5) (b : Bool) : (setCrBit s k b).teaUnrecognised = s.teaUnrecognised := rfl
@[simp] theorem setCrBit_draws (s : State) (k : BitVec 5) (b : Bool) : (setCrBit s k b).draws = s.draws := rfl
@[simp] theorem setCrBit_deferred (s : State) (k : BitVec 5) (b : Bool) : (setCrBit s k b).deferred = s.deferred := rfl
@[simp] theorem setCrBit_windows (s : State) (k : BitVec 5) (b : Bool) : (setCrBit s k b).windows = s.windows := rfl
@[simp] theorem setCrBit_taken (s : State) (k : BitVec 5) (b : Bool) : (setCrBit s k b).taken = s.taken := rfl

/- XER[CA]. -/

@[simp] theorem withCarry_cia (s : State) (b : Bool) : (withCarry s b).cia = s.cia := rfl
@[simp] theorem withCarry_gpr (s : State) (b : Bool) : (withCarry s b).gpr = s.gpr := rfl
@[simp] theorem withCarry_tgpr (s : State) (b : Bool) : (withCarry s b).tgpr = s.tgpr := rfl
@[simp] theorem withCarry_fpr (s : State) (b : Bool) : (withCarry s b).fpr = s.fpr := rfl
@[simp] theorem withCarry_sp (s : State) (b : Bool) : (withCarry s b).sp = s.sp := rfl
@[simp] theorem withCarry_lt (s : State) (b : Bool) : (withCarry s b).lt = s.lt := rfl
@[simp] theorem withCarry_cr (s : State) (b : Bool) : (withCarry s b).cr = s.cr := rfl
@[simp] theorem withCarry_lr (s : State) (b : Bool) : (withCarry s b).lr = s.lr := rfl
@[simp] theorem withCarry_ctr (s : State) (b : Bool) : (withCarry s b).ctr = s.ctr := rfl
@[simp] theorem withCarry_fpscr (s : State) (b : Bool) : (withCarry s b).fpscr = s.fpscr := rfl
@[simp] theorem withCarry_msr (s : State) (b : Bool) : (withCarry s b).msr = s.msr := rfl
@[simp] theorem withCarry_sr (s : State) (b : Bool) : (withCarry s b).sr = s.sr := rfl
@[simp] theorem withCarry_dsisr (s : State) (b : Bool) : (withCarry s b).dsisr = s.dsisr := rfl
@[simp] theorem withCarry_dar (s : State) (b : Bool) : (withCarry s b).dar = s.dar := rfl
@[simp] theorem withCarry_dec (s : State) (b : Bool) : (withCarry s b).dec = s.dec := rfl
@[simp] theorem withCarry_sdr1 (s : State) (b : Bool) : (withCarry s b).sdr1 = s.sdr1 := rfl
@[simp] theorem withCarry_srr0 (s : State) (b : Bool) : (withCarry s b).srr0 = s.srr0 := rfl
@[simp] theorem withCarry_srr1 (s : State) (b : Bool) : (withCarry s b).srr1 = s.srr1 := rfl
@[simp] theorem withCarry_sprg (s : State) (b : Bool) : (withCarry s b).sprg = s.sprg := rfl
@[simp] theorem withCarry_tb (s : State) (b : Bool) : (withCarry s b).tb = s.tb := rfl
@[simp] theorem withCarry_ibat (s : State) (b : Bool) : (withCarry s b).ibat = s.ibat := rfl
@[simp] theorem withCarry_dbat (s : State) (b : Bool) : (withCarry s b).dbat = s.dbat := rfl
@[simp] theorem withCarry_dmiss (s : State) (b : Bool) : (withCarry s b).dmiss = s.dmiss := rfl
@[simp] theorem withCarry_imiss (s : State) (b : Bool) : (withCarry s b).imiss = s.imiss := rfl
@[simp] theorem withCarry_missIsData (s : State) (b : Bool) : (withCarry s b).missIsData = s.missIsData := rfl
@[simp] theorem withCarry_rpa (s : State) (b : Bool) : (withCarry s b).rpa = s.rpa := rfl
@[simp] theorem withCarry_tcr (s : State) (b : Bool) : (withCarry s b).tcr = s.tcr := rfl
@[simp] theorem withCarry_ibr (s : State) (b : Bool) : (withCarry s b).ibr = s.ibr := rfl
@[simp] theorem withCarry_esasrr (s : State) (b : Bool) : (withCarry s b).esasrr = s.esasrr := rfl
@[simp] theorem withCarry_sebr (s : State) (b : Bool) : (withCarry s b).sebr = s.sebr := rfl
@[simp] theorem withCarry_ser (s : State) (b : Bool) : (withCarry s b).ser = s.ser := rfl
@[simp] theorem withCarry_hid0 (s : State) (b : Bool) : (withCarry s b).hid0 = s.hid0 := rfl
@[simp] theorem withCarry_iabr (s : State) (b : Bool) : (withCarry s b).iabr = s.iabr := rfl
@[simp] theorem withCarry_reserve (s : State) (b : Bool) : (withCarry s b).reserve = s.reserve := rfl
@[simp] theorem withCarry_itlb (s : State) (b : Bool) : (withCarry s b).itlb = s.itlb := rfl
@[simp] theorem withCarry_dtlb (s : State) (b : Bool) : (withCarry s b).dtlb = s.dtlb := rfl
@[simp] theorem withCarry_mem (s : State) (b : Bool) : (withCarry s b).mem = s.mem := rfl
@[simp] theorem withCarry_stale (s : State) (b : Bool) : (withCarry s b).stale = s.stale := rfl
@[simp] theorem withCarry_power (s : State) (b : Bool) : (withCarry s b).power = s.power := rfl
@[simp] theorem withCarry_powPending (s : State) (b : Bool) : (withCarry s b).powPending = s.powPending := rfl
@[simp] theorem withCarry_checkstop (s : State) (b : Bool) : (withCarry s b).checkstop = s.checkstop := rfl
@[simp] theorem withCarry_pins (s : State) (b : Bool) : (withCarry s b).pins = s.pins := rfl
@[simp] theorem withCarry_sresetPending (s : State) (b : Bool) : (withCarry s b).sresetPending = s.sresetPending := rfl
@[simp] theorem withCarry_mcheckPending (s : State) (b : Bool) : (withCarry s b).mcheckPending = s.mcheckPending := rfl
@[simp] theorem withCarry_wdtResetPending (s : State) (b : Bool) : (withCarry s b).wdtResetPending = s.wdtResetPending := rfl
@[simp] theorem withCarry_decPending (s : State) (b : Bool) : (withCarry s b).decPending = s.decPending := rfl
@[simp] theorem withCarry_wdtPending (s : State) (b : Bool) : (withCarry s b).wdtPending = s.wdtPending := rfl
@[simp] theorem withCarry_env (s : State) (b : Bool) : (withCarry s b).env = s.env := rfl
@[simp] theorem withCarry_map (s : State) (b : Bool) : (withCarry s b).map = s.map := rfl
@[simp] theorem withCarry_cached (s : State) (b : Bool) : (withCarry s b).cached = s.cached := rfl
@[simp] theorem withCarry_amid (s : State) (b : Bool) : (withCarry s b).amid = s.amid := rfl
@[simp] theorem withCarry_teaNext (s : State) (b : Bool) : (withCarry s b).teaNext = s.teaNext := rfl
@[simp] theorem withCarry_teaUnrecognised (s : State) (b : Bool) : (withCarry s b).teaUnrecognised = s.teaUnrecognised := rfl
@[simp] theorem withCarry_draws (s : State) (b : Bool) : (withCarry s b).draws = s.draws := rfl
@[simp] theorem withCarry_deferred (s : State) (b : Bool) : (withCarry s b).deferred = s.deferred := rfl
@[simp] theorem withCarry_windows (s : State) (b : Bool) : (withCarry s b).windows = s.windows := rfl
@[simp] theorem withCarry_taken (s : State) (b : Bool) : (withCarry s b).taken = s.taken := rfl

/- XER[OV] and XER[SO]. -/

@[simp] theorem withOverflow_cia (s : State) (oe ov : Bool) : (withOverflow oe ov s).cia = s.cia := by unfold withOverflow; split <;> rfl
@[simp] theorem withOverflow_gpr (s : State) (oe ov : Bool) : (withOverflow oe ov s).gpr = s.gpr := by unfold withOverflow; split <;> rfl
@[simp] theorem withOverflow_tgpr (s : State) (oe ov : Bool) : (withOverflow oe ov s).tgpr = s.tgpr := by unfold withOverflow; split <;> rfl
@[simp] theorem withOverflow_fpr (s : State) (oe ov : Bool) : (withOverflow oe ov s).fpr = s.fpr := by unfold withOverflow; split <;> rfl
@[simp] theorem withOverflow_sp (s : State) (oe ov : Bool) : (withOverflow oe ov s).sp = s.sp := by unfold withOverflow; split <;> rfl
@[simp] theorem withOverflow_lt (s : State) (oe ov : Bool) : (withOverflow oe ov s).lt = s.lt := by unfold withOverflow; split <;> rfl
@[simp] theorem withOverflow_cr (s : State) (oe ov : Bool) : (withOverflow oe ov s).cr = s.cr := by unfold withOverflow; split <;> rfl
@[simp] theorem withOverflow_lr (s : State) (oe ov : Bool) : (withOverflow oe ov s).lr = s.lr := by unfold withOverflow; split <;> rfl
@[simp] theorem withOverflow_ctr (s : State) (oe ov : Bool) : (withOverflow oe ov s).ctr = s.ctr := by unfold withOverflow; split <;> rfl
@[simp] theorem withOverflow_fpscr (s : State) (oe ov : Bool) : (withOverflow oe ov s).fpscr = s.fpscr := by unfold withOverflow; split <;> rfl
@[simp] theorem withOverflow_msr (s : State) (oe ov : Bool) : (withOverflow oe ov s).msr = s.msr := by unfold withOverflow; split <;> rfl
@[simp] theorem withOverflow_sr (s : State) (oe ov : Bool) : (withOverflow oe ov s).sr = s.sr := by unfold withOverflow; split <;> rfl
@[simp] theorem withOverflow_dsisr (s : State) (oe ov : Bool) : (withOverflow oe ov s).dsisr = s.dsisr := by unfold withOverflow; split <;> rfl
@[simp] theorem withOverflow_dar (s : State) (oe ov : Bool) : (withOverflow oe ov s).dar = s.dar := by unfold withOverflow; split <;> rfl
@[simp] theorem withOverflow_dec (s : State) (oe ov : Bool) : (withOverflow oe ov s).dec = s.dec := by unfold withOverflow; split <;> rfl
@[simp] theorem withOverflow_sdr1 (s : State) (oe ov : Bool) : (withOverflow oe ov s).sdr1 = s.sdr1 := by unfold withOverflow; split <;> rfl
@[simp] theorem withOverflow_srr0 (s : State) (oe ov : Bool) : (withOverflow oe ov s).srr0 = s.srr0 := by unfold withOverflow; split <;> rfl
@[simp] theorem withOverflow_srr1 (s : State) (oe ov : Bool) : (withOverflow oe ov s).srr1 = s.srr1 := by unfold withOverflow; split <;> rfl
@[simp] theorem withOverflow_sprg (s : State) (oe ov : Bool) : (withOverflow oe ov s).sprg = s.sprg := by unfold withOverflow; split <;> rfl
@[simp] theorem withOverflow_tb (s : State) (oe ov : Bool) : (withOverflow oe ov s).tb = s.tb := by unfold withOverflow; split <;> rfl
@[simp] theorem withOverflow_ibat (s : State) (oe ov : Bool) : (withOverflow oe ov s).ibat = s.ibat := by unfold withOverflow; split <;> rfl
@[simp] theorem withOverflow_dbat (s : State) (oe ov : Bool) : (withOverflow oe ov s).dbat = s.dbat := by unfold withOverflow; split <;> rfl
@[simp] theorem withOverflow_dmiss (s : State) (oe ov : Bool) : (withOverflow oe ov s).dmiss = s.dmiss := by unfold withOverflow; split <;> rfl
@[simp] theorem withOverflow_imiss (s : State) (oe ov : Bool) : (withOverflow oe ov s).imiss = s.imiss := by unfold withOverflow; split <;> rfl
@[simp] theorem withOverflow_missIsData (s : State) (oe ov : Bool) : (withOverflow oe ov s).missIsData = s.missIsData := by unfold withOverflow; split <;> rfl
@[simp] theorem withOverflow_rpa (s : State) (oe ov : Bool) : (withOverflow oe ov s).rpa = s.rpa := by unfold withOverflow; split <;> rfl
@[simp] theorem withOverflow_tcr (s : State) (oe ov : Bool) : (withOverflow oe ov s).tcr = s.tcr := by unfold withOverflow; split <;> rfl
@[simp] theorem withOverflow_ibr (s : State) (oe ov : Bool) : (withOverflow oe ov s).ibr = s.ibr := by unfold withOverflow; split <;> rfl
@[simp] theorem withOverflow_esasrr (s : State) (oe ov : Bool) : (withOverflow oe ov s).esasrr = s.esasrr := by unfold withOverflow; split <;> rfl
@[simp] theorem withOverflow_sebr (s : State) (oe ov : Bool) : (withOverflow oe ov s).sebr = s.sebr := by unfold withOverflow; split <;> rfl
@[simp] theorem withOverflow_ser (s : State) (oe ov : Bool) : (withOverflow oe ov s).ser = s.ser := by unfold withOverflow; split <;> rfl
@[simp] theorem withOverflow_hid0 (s : State) (oe ov : Bool) : (withOverflow oe ov s).hid0 = s.hid0 := by unfold withOverflow; split <;> rfl
@[simp] theorem withOverflow_iabr (s : State) (oe ov : Bool) : (withOverflow oe ov s).iabr = s.iabr := by unfold withOverflow; split <;> rfl
@[simp] theorem withOverflow_reserve (s : State) (oe ov : Bool) : (withOverflow oe ov s).reserve = s.reserve := by unfold withOverflow; split <;> rfl
@[simp] theorem withOverflow_itlb (s : State) (oe ov : Bool) : (withOverflow oe ov s).itlb = s.itlb := by unfold withOverflow; split <;> rfl
@[simp] theorem withOverflow_dtlb (s : State) (oe ov : Bool) : (withOverflow oe ov s).dtlb = s.dtlb := by unfold withOverflow; split <;> rfl
@[simp] theorem withOverflow_mem (s : State) (oe ov : Bool) : (withOverflow oe ov s).mem = s.mem := by unfold withOverflow; split <;> rfl
@[simp] theorem withOverflow_stale (s : State) (oe ov : Bool) : (withOverflow oe ov s).stale = s.stale := by unfold withOverflow; split <;> rfl
@[simp] theorem withOverflow_power (s : State) (oe ov : Bool) : (withOverflow oe ov s).power = s.power := by unfold withOverflow; split <;> rfl
@[simp] theorem withOverflow_powPending (s : State) (oe ov : Bool) : (withOverflow oe ov s).powPending = s.powPending := by unfold withOverflow; split <;> rfl
@[simp] theorem withOverflow_checkstop (s : State) (oe ov : Bool) : (withOverflow oe ov s).checkstop = s.checkstop := by unfold withOverflow; split <;> rfl
@[simp] theorem withOverflow_pins (s : State) (oe ov : Bool) : (withOverflow oe ov s).pins = s.pins := by unfold withOverflow; split <;> rfl
@[simp] theorem withOverflow_sresetPending (s : State) (oe ov : Bool) : (withOverflow oe ov s).sresetPending = s.sresetPending := by unfold withOverflow; split <;> rfl
@[simp] theorem withOverflow_mcheckPending (s : State) (oe ov : Bool) : (withOverflow oe ov s).mcheckPending = s.mcheckPending := by unfold withOverflow; split <;> rfl
@[simp] theorem withOverflow_wdtResetPending (s : State) (oe ov : Bool) : (withOverflow oe ov s).wdtResetPending = s.wdtResetPending := by unfold withOverflow; split <;> rfl
@[simp] theorem withOverflow_decPending (s : State) (oe ov : Bool) : (withOverflow oe ov s).decPending = s.decPending := by unfold withOverflow; split <;> rfl
@[simp] theorem withOverflow_wdtPending (s : State) (oe ov : Bool) : (withOverflow oe ov s).wdtPending = s.wdtPending := by unfold withOverflow; split <;> rfl
@[simp] theorem withOverflow_env (s : State) (oe ov : Bool) : (withOverflow oe ov s).env = s.env := by unfold withOverflow; split <;> rfl
@[simp] theorem withOverflow_map (s : State) (oe ov : Bool) : (withOverflow oe ov s).map = s.map := by unfold withOverflow; split <;> rfl
@[simp] theorem withOverflow_cached (s : State) (oe ov : Bool) : (withOverflow oe ov s).cached = s.cached := by unfold withOverflow; split <;> rfl
@[simp] theorem withOverflow_amid (s : State) (oe ov : Bool) : (withOverflow oe ov s).amid = s.amid := by unfold withOverflow; split <;> rfl
@[simp] theorem withOverflow_teaNext (s : State) (oe ov : Bool) : (withOverflow oe ov s).teaNext = s.teaNext := by unfold withOverflow; split <;> rfl
@[simp] theorem withOverflow_teaUnrecognised (s : State) (oe ov : Bool) : (withOverflow oe ov s).teaUnrecognised = s.teaUnrecognised := by unfold withOverflow; split <;> rfl
@[simp] theorem withOverflow_draws (s : State) (oe ov : Bool) : (withOverflow oe ov s).draws = s.draws := by unfold withOverflow; split <;> rfl
@[simp] theorem withOverflow_deferred (s : State) (oe ov : Bool) : (withOverflow oe ov s).deferred = s.deferred := by unfold withOverflow; split <;> rfl
@[simp] theorem withOverflow_windows (s : State) (oe ov : Bool) : (withOverflow oe ov s).windows = s.windows := by unfold withOverflow; split <;> rfl
@[simp] theorem withOverflow_taken (s : State) (oe ov : Bool) : (withOverflow oe ov s).taken = s.taken := by unfold withOverflow; split <;> rfl

/- CR0 of a record form. -/

@[simp] theorem recordCr0_cia (s : State) (rc : Bool) (r : Word) : (recordCr0 rc r s).cia = s.cia := by unfold recordCr0; split <;> rfl
@[simp] theorem recordCr0_gpr (s : State) (rc : Bool) (r : Word) : (recordCr0 rc r s).gpr = s.gpr := by unfold recordCr0; split <;> rfl
@[simp] theorem recordCr0_tgpr (s : State) (rc : Bool) (r : Word) : (recordCr0 rc r s).tgpr = s.tgpr := by unfold recordCr0; split <;> rfl
@[simp] theorem recordCr0_fpr (s : State) (rc : Bool) (r : Word) : (recordCr0 rc r s).fpr = s.fpr := by unfold recordCr0; split <;> rfl
@[simp] theorem recordCr0_sp (s : State) (rc : Bool) (r : Word) : (recordCr0 rc r s).sp = s.sp := by unfold recordCr0; split <;> rfl
@[simp] theorem recordCr0_lt (s : State) (rc : Bool) (r : Word) : (recordCr0 rc r s).lt = s.lt := by unfold recordCr0; split <;> rfl
@[simp] theorem recordCr0_xer (s : State) (rc : Bool) (r : Word) : (recordCr0 rc r s).xer = s.xer := by unfold recordCr0; split <;> rfl
@[simp] theorem recordCr0_lr (s : State) (rc : Bool) (r : Word) : (recordCr0 rc r s).lr = s.lr := by unfold recordCr0; split <;> rfl
@[simp] theorem recordCr0_ctr (s : State) (rc : Bool) (r : Word) : (recordCr0 rc r s).ctr = s.ctr := by unfold recordCr0; split <;> rfl
@[simp] theorem recordCr0_fpscr (s : State) (rc : Bool) (r : Word) : (recordCr0 rc r s).fpscr = s.fpscr := by unfold recordCr0; split <;> rfl
@[simp] theorem recordCr0_msr (s : State) (rc : Bool) (r : Word) : (recordCr0 rc r s).msr = s.msr := by unfold recordCr0; split <;> rfl
@[simp] theorem recordCr0_sr (s : State) (rc : Bool) (r : Word) : (recordCr0 rc r s).sr = s.sr := by unfold recordCr0; split <;> rfl
@[simp] theorem recordCr0_dsisr (s : State) (rc : Bool) (r : Word) : (recordCr0 rc r s).dsisr = s.dsisr := by unfold recordCr0; split <;> rfl
@[simp] theorem recordCr0_dar (s : State) (rc : Bool) (r : Word) : (recordCr0 rc r s).dar = s.dar := by unfold recordCr0; split <;> rfl
@[simp] theorem recordCr0_dec (s : State) (rc : Bool) (r : Word) : (recordCr0 rc r s).dec = s.dec := by unfold recordCr0; split <;> rfl
@[simp] theorem recordCr0_sdr1 (s : State) (rc : Bool) (r : Word) : (recordCr0 rc r s).sdr1 = s.sdr1 := by unfold recordCr0; split <;> rfl
@[simp] theorem recordCr0_srr0 (s : State) (rc : Bool) (r : Word) : (recordCr0 rc r s).srr0 = s.srr0 := by unfold recordCr0; split <;> rfl
@[simp] theorem recordCr0_srr1 (s : State) (rc : Bool) (r : Word) : (recordCr0 rc r s).srr1 = s.srr1 := by unfold recordCr0; split <;> rfl
@[simp] theorem recordCr0_sprg (s : State) (rc : Bool) (r : Word) : (recordCr0 rc r s).sprg = s.sprg := by unfold recordCr0; split <;> rfl
@[simp] theorem recordCr0_tb (s : State) (rc : Bool) (r : Word) : (recordCr0 rc r s).tb = s.tb := by unfold recordCr0; split <;> rfl
@[simp] theorem recordCr0_ibat (s : State) (rc : Bool) (r : Word) : (recordCr0 rc r s).ibat = s.ibat := by unfold recordCr0; split <;> rfl
@[simp] theorem recordCr0_dbat (s : State) (rc : Bool) (r : Word) : (recordCr0 rc r s).dbat = s.dbat := by unfold recordCr0; split <;> rfl
@[simp] theorem recordCr0_dmiss (s : State) (rc : Bool) (r : Word) : (recordCr0 rc r s).dmiss = s.dmiss := by unfold recordCr0; split <;> rfl
@[simp] theorem recordCr0_imiss (s : State) (rc : Bool) (r : Word) : (recordCr0 rc r s).imiss = s.imiss := by unfold recordCr0; split <;> rfl
@[simp] theorem recordCr0_missIsData (s : State) (rc : Bool) (r : Word) : (recordCr0 rc r s).missIsData = s.missIsData := by unfold recordCr0; split <;> rfl
@[simp] theorem recordCr0_rpa (s : State) (rc : Bool) (r : Word) : (recordCr0 rc r s).rpa = s.rpa := by unfold recordCr0; split <;> rfl
@[simp] theorem recordCr0_tcr (s : State) (rc : Bool) (r : Word) : (recordCr0 rc r s).tcr = s.tcr := by unfold recordCr0; split <;> rfl
@[simp] theorem recordCr0_ibr (s : State) (rc : Bool) (r : Word) : (recordCr0 rc r s).ibr = s.ibr := by unfold recordCr0; split <;> rfl
@[simp] theorem recordCr0_esasrr (s : State) (rc : Bool) (r : Word) : (recordCr0 rc r s).esasrr = s.esasrr := by unfold recordCr0; split <;> rfl
@[simp] theorem recordCr0_sebr (s : State) (rc : Bool) (r : Word) : (recordCr0 rc r s).sebr = s.sebr := by unfold recordCr0; split <;> rfl
@[simp] theorem recordCr0_ser (s : State) (rc : Bool) (r : Word) : (recordCr0 rc r s).ser = s.ser := by unfold recordCr0; split <;> rfl
@[simp] theorem recordCr0_hid0 (s : State) (rc : Bool) (r : Word) : (recordCr0 rc r s).hid0 = s.hid0 := by unfold recordCr0; split <;> rfl
@[simp] theorem recordCr0_iabr (s : State) (rc : Bool) (r : Word) : (recordCr0 rc r s).iabr = s.iabr := by unfold recordCr0; split <;> rfl
@[simp] theorem recordCr0_reserve (s : State) (rc : Bool) (r : Word) : (recordCr0 rc r s).reserve = s.reserve := by unfold recordCr0; split <;> rfl
@[simp] theorem recordCr0_itlb (s : State) (rc : Bool) (r : Word) : (recordCr0 rc r s).itlb = s.itlb := by unfold recordCr0; split <;> rfl
@[simp] theorem recordCr0_dtlb (s : State) (rc : Bool) (r : Word) : (recordCr0 rc r s).dtlb = s.dtlb := by unfold recordCr0; split <;> rfl
@[simp] theorem recordCr0_mem (s : State) (rc : Bool) (r : Word) : (recordCr0 rc r s).mem = s.mem := by unfold recordCr0; split <;> rfl
@[simp] theorem recordCr0_stale (s : State) (rc : Bool) (r : Word) : (recordCr0 rc r s).stale = s.stale := by unfold recordCr0; split <;> rfl
@[simp] theorem recordCr0_power (s : State) (rc : Bool) (r : Word) : (recordCr0 rc r s).power = s.power := by unfold recordCr0; split <;> rfl
@[simp] theorem recordCr0_powPending (s : State) (rc : Bool) (r : Word) : (recordCr0 rc r s).powPending = s.powPending := by unfold recordCr0; split <;> rfl
@[simp] theorem recordCr0_checkstop (s : State) (rc : Bool) (r : Word) : (recordCr0 rc r s).checkstop = s.checkstop := by unfold recordCr0; split <;> rfl
@[simp] theorem recordCr0_pins (s : State) (rc : Bool) (r : Word) : (recordCr0 rc r s).pins = s.pins := by unfold recordCr0; split <;> rfl
@[simp] theorem recordCr0_sresetPending (s : State) (rc : Bool) (r : Word) : (recordCr0 rc r s).sresetPending = s.sresetPending := by unfold recordCr0; split <;> rfl
@[simp] theorem recordCr0_mcheckPending (s : State) (rc : Bool) (r : Word) : (recordCr0 rc r s).mcheckPending = s.mcheckPending := by unfold recordCr0; split <;> rfl
@[simp] theorem recordCr0_wdtResetPending (s : State) (rc : Bool) (r : Word) : (recordCr0 rc r s).wdtResetPending = s.wdtResetPending := by unfold recordCr0; split <;> rfl
@[simp] theorem recordCr0_decPending (s : State) (rc : Bool) (r : Word) : (recordCr0 rc r s).decPending = s.decPending := by unfold recordCr0; split <;> rfl
@[simp] theorem recordCr0_wdtPending (s : State) (rc : Bool) (r : Word) : (recordCr0 rc r s).wdtPending = s.wdtPending := by unfold recordCr0; split <;> rfl
@[simp] theorem recordCr0_env (s : State) (rc : Bool) (r : Word) : (recordCr0 rc r s).env = s.env := by unfold recordCr0; split <;> rfl
@[simp] theorem recordCr0_map (s : State) (rc : Bool) (r : Word) : (recordCr0 rc r s).map = s.map := by unfold recordCr0; split <;> rfl
@[simp] theorem recordCr0_cached (s : State) (rc : Bool) (r : Word) : (recordCr0 rc r s).cached = s.cached := by unfold recordCr0; split <;> rfl
@[simp] theorem recordCr0_amid (s : State) (rc : Bool) (r : Word) : (recordCr0 rc r s).amid = s.amid := by unfold recordCr0; split <;> rfl
@[simp] theorem recordCr0_teaNext (s : State) (rc : Bool) (r : Word) : (recordCr0 rc r s).teaNext = s.teaNext := by unfold recordCr0; split <;> rfl
@[simp] theorem recordCr0_teaUnrecognised (s : State) (rc : Bool) (r : Word) : (recordCr0 rc r s).teaUnrecognised = s.teaUnrecognised := by unfold recordCr0; split <;> rfl
@[simp] theorem recordCr0_draws (s : State) (rc : Bool) (r : Word) : (recordCr0 rc r s).draws = s.draws := by unfold recordCr0; split <;> rfl
@[simp] theorem recordCr0_deferred (s : State) (rc : Bool) (r : Word) : (recordCr0 rc r s).deferred = s.deferred := by unfold recordCr0; split <;> rfl
@[simp] theorem recordCr0_windows (s : State) (rc : Bool) (r : Word) : (recordCr0 rc r s).windows = s.windows := by unfold recordCr0; split <;> rfl
@[simp] theorem recordCr0_taken (s : State) (rc : Bool) (r : Word) : (recordCr0 rc r s).taken = s.taken := by unfold recordCr0; split <;> rfl

/- CR1 of a record form. -/

@[simp] theorem recordCr1_cia (s : State) (rc : Bool) : (recordCr1 rc s).cia = s.cia := by unfold recordCr1; split <;> rfl
@[simp] theorem recordCr1_gpr (s : State) (rc : Bool) : (recordCr1 rc s).gpr = s.gpr := by unfold recordCr1; split <;> rfl
@[simp] theorem recordCr1_tgpr (s : State) (rc : Bool) : (recordCr1 rc s).tgpr = s.tgpr := by unfold recordCr1; split <;> rfl
@[simp] theorem recordCr1_fpr (s : State) (rc : Bool) : (recordCr1 rc s).fpr = s.fpr := by unfold recordCr1; split <;> rfl
@[simp] theorem recordCr1_sp (s : State) (rc : Bool) : (recordCr1 rc s).sp = s.sp := by unfold recordCr1; split <;> rfl
@[simp] theorem recordCr1_lt (s : State) (rc : Bool) : (recordCr1 rc s).lt = s.lt := by unfold recordCr1; split <;> rfl
@[simp] theorem recordCr1_xer (s : State) (rc : Bool) : (recordCr1 rc s).xer = s.xer := by unfold recordCr1; split <;> rfl
@[simp] theorem recordCr1_lr (s : State) (rc : Bool) : (recordCr1 rc s).lr = s.lr := by unfold recordCr1; split <;> rfl
@[simp] theorem recordCr1_ctr (s : State) (rc : Bool) : (recordCr1 rc s).ctr = s.ctr := by unfold recordCr1; split <;> rfl
@[simp] theorem recordCr1_fpscr (s : State) (rc : Bool) : (recordCr1 rc s).fpscr = s.fpscr := by unfold recordCr1; split <;> rfl
@[simp] theorem recordCr1_msr (s : State) (rc : Bool) : (recordCr1 rc s).msr = s.msr := by unfold recordCr1; split <;> rfl
@[simp] theorem recordCr1_sr (s : State) (rc : Bool) : (recordCr1 rc s).sr = s.sr := by unfold recordCr1; split <;> rfl
@[simp] theorem recordCr1_dsisr (s : State) (rc : Bool) : (recordCr1 rc s).dsisr = s.dsisr := by unfold recordCr1; split <;> rfl
@[simp] theorem recordCr1_dar (s : State) (rc : Bool) : (recordCr1 rc s).dar = s.dar := by unfold recordCr1; split <;> rfl
@[simp] theorem recordCr1_dec (s : State) (rc : Bool) : (recordCr1 rc s).dec = s.dec := by unfold recordCr1; split <;> rfl
@[simp] theorem recordCr1_sdr1 (s : State) (rc : Bool) : (recordCr1 rc s).sdr1 = s.sdr1 := by unfold recordCr1; split <;> rfl
@[simp] theorem recordCr1_srr0 (s : State) (rc : Bool) : (recordCr1 rc s).srr0 = s.srr0 := by unfold recordCr1; split <;> rfl
@[simp] theorem recordCr1_srr1 (s : State) (rc : Bool) : (recordCr1 rc s).srr1 = s.srr1 := by unfold recordCr1; split <;> rfl
@[simp] theorem recordCr1_sprg (s : State) (rc : Bool) : (recordCr1 rc s).sprg = s.sprg := by unfold recordCr1; split <;> rfl
@[simp] theorem recordCr1_tb (s : State) (rc : Bool) : (recordCr1 rc s).tb = s.tb := by unfold recordCr1; split <;> rfl
@[simp] theorem recordCr1_ibat (s : State) (rc : Bool) : (recordCr1 rc s).ibat = s.ibat := by unfold recordCr1; split <;> rfl
@[simp] theorem recordCr1_dbat (s : State) (rc : Bool) : (recordCr1 rc s).dbat = s.dbat := by unfold recordCr1; split <;> rfl
@[simp] theorem recordCr1_dmiss (s : State) (rc : Bool) : (recordCr1 rc s).dmiss = s.dmiss := by unfold recordCr1; split <;> rfl
@[simp] theorem recordCr1_imiss (s : State) (rc : Bool) : (recordCr1 rc s).imiss = s.imiss := by unfold recordCr1; split <;> rfl
@[simp] theorem recordCr1_missIsData (s : State) (rc : Bool) : (recordCr1 rc s).missIsData = s.missIsData := by unfold recordCr1; split <;> rfl
@[simp] theorem recordCr1_rpa (s : State) (rc : Bool) : (recordCr1 rc s).rpa = s.rpa := by unfold recordCr1; split <;> rfl
@[simp] theorem recordCr1_tcr (s : State) (rc : Bool) : (recordCr1 rc s).tcr = s.tcr := by unfold recordCr1; split <;> rfl
@[simp] theorem recordCr1_ibr (s : State) (rc : Bool) : (recordCr1 rc s).ibr = s.ibr := by unfold recordCr1; split <;> rfl
@[simp] theorem recordCr1_esasrr (s : State) (rc : Bool) : (recordCr1 rc s).esasrr = s.esasrr := by unfold recordCr1; split <;> rfl
@[simp] theorem recordCr1_sebr (s : State) (rc : Bool) : (recordCr1 rc s).sebr = s.sebr := by unfold recordCr1; split <;> rfl
@[simp] theorem recordCr1_ser (s : State) (rc : Bool) : (recordCr1 rc s).ser = s.ser := by unfold recordCr1; split <;> rfl
@[simp] theorem recordCr1_hid0 (s : State) (rc : Bool) : (recordCr1 rc s).hid0 = s.hid0 := by unfold recordCr1; split <;> rfl
@[simp] theorem recordCr1_iabr (s : State) (rc : Bool) : (recordCr1 rc s).iabr = s.iabr := by unfold recordCr1; split <;> rfl
@[simp] theorem recordCr1_reserve (s : State) (rc : Bool) : (recordCr1 rc s).reserve = s.reserve := by unfold recordCr1; split <;> rfl
@[simp] theorem recordCr1_itlb (s : State) (rc : Bool) : (recordCr1 rc s).itlb = s.itlb := by unfold recordCr1; split <;> rfl
@[simp] theorem recordCr1_dtlb (s : State) (rc : Bool) : (recordCr1 rc s).dtlb = s.dtlb := by unfold recordCr1; split <;> rfl
@[simp] theorem recordCr1_mem (s : State) (rc : Bool) : (recordCr1 rc s).mem = s.mem := by unfold recordCr1; split <;> rfl
@[simp] theorem recordCr1_stale (s : State) (rc : Bool) : (recordCr1 rc s).stale = s.stale := by unfold recordCr1; split <;> rfl
@[simp] theorem recordCr1_power (s : State) (rc : Bool) : (recordCr1 rc s).power = s.power := by unfold recordCr1; split <;> rfl
@[simp] theorem recordCr1_powPending (s : State) (rc : Bool) : (recordCr1 rc s).powPending = s.powPending := by unfold recordCr1; split <;> rfl
@[simp] theorem recordCr1_checkstop (s : State) (rc : Bool) : (recordCr1 rc s).checkstop = s.checkstop := by unfold recordCr1; split <;> rfl
@[simp] theorem recordCr1_pins (s : State) (rc : Bool) : (recordCr1 rc s).pins = s.pins := by unfold recordCr1; split <;> rfl
@[simp] theorem recordCr1_sresetPending (s : State) (rc : Bool) : (recordCr1 rc s).sresetPending = s.sresetPending := by unfold recordCr1; split <;> rfl
@[simp] theorem recordCr1_mcheckPending (s : State) (rc : Bool) : (recordCr1 rc s).mcheckPending = s.mcheckPending := by unfold recordCr1; split <;> rfl
@[simp] theorem recordCr1_wdtResetPending (s : State) (rc : Bool) : (recordCr1 rc s).wdtResetPending = s.wdtResetPending := by unfold recordCr1; split <;> rfl
@[simp] theorem recordCr1_decPending (s : State) (rc : Bool) : (recordCr1 rc s).decPending = s.decPending := by unfold recordCr1; split <;> rfl
@[simp] theorem recordCr1_wdtPending (s : State) (rc : Bool) : (recordCr1 rc s).wdtPending = s.wdtPending := by unfold recordCr1; split <;> rfl
@[simp] theorem recordCr1_env (s : State) (rc : Bool) : (recordCr1 rc s).env = s.env := by unfold recordCr1; split <;> rfl
@[simp] theorem recordCr1_map (s : State) (rc : Bool) : (recordCr1 rc s).map = s.map := by unfold recordCr1; split <;> rfl
@[simp] theorem recordCr1_cached (s : State) (rc : Bool) : (recordCr1 rc s).cached = s.cached := by unfold recordCr1; split <;> rfl
@[simp] theorem recordCr1_amid (s : State) (rc : Bool) : (recordCr1 rc s).amid = s.amid := by unfold recordCr1; split <;> rfl
@[simp] theorem recordCr1_teaNext (s : State) (rc : Bool) : (recordCr1 rc s).teaNext = s.teaNext := by unfold recordCr1; split <;> rfl
@[simp] theorem recordCr1_teaUnrecognised (s : State) (rc : Bool) : (recordCr1 rc s).teaUnrecognised = s.teaUnrecognised := by unfold recordCr1; split <;> rfl
@[simp] theorem recordCr1_draws (s : State) (rc : Bool) : (recordCr1 rc s).draws = s.draws := by unfold recordCr1; split <;> rfl
@[simp] theorem recordCr1_deferred (s : State) (rc : Bool) : (recordCr1 rc s).deferred = s.deferred := by unfold recordCr1; split <;> rfl
@[simp] theorem recordCr1_windows (s : State) (rc : Bool) : (recordCr1 rc s).windows = s.windows := by unfold recordCr1; split <;> rfl
@[simp] theorem recordCr1_taken (s : State) (rc : Bool) : (recordCr1 rc s).taken = s.taken := by unfold recordCr1; split <;> rfl

/- A store. -/

@[simp] theorem writePhys_cia (s : State) (pa : Word) (n : Nat) (v : Word) : (writePhys s pa n v).cia = s.cia := by
  unfold writePhys; split <;> rfl
@[simp] theorem writePhys_gpr (s : State) (pa : Word) (n : Nat) (v : Word) : (writePhys s pa n v).gpr = s.gpr := by
  unfold writePhys; split <;> rfl
@[simp] theorem writePhys_tgpr (s : State) (pa : Word) (n : Nat) (v : Word) : (writePhys s pa n v).tgpr = s.tgpr := by
  unfold writePhys; split <;> rfl
@[simp] theorem writePhys_fpr (s : State) (pa : Word) (n : Nat) (v : Word) : (writePhys s pa n v).fpr = s.fpr := by
  unfold writePhys; split <;> rfl
@[simp] theorem writePhys_sp (s : State) (pa : Word) (n : Nat) (v : Word) : (writePhys s pa n v).sp = s.sp := by
  unfold writePhys; split <;> rfl
@[simp] theorem writePhys_lt (s : State) (pa : Word) (n : Nat) (v : Word) : (writePhys s pa n v).lt = s.lt := by
  unfold writePhys; split <;> rfl
@[simp] theorem writePhys_cr (s : State) (pa : Word) (n : Nat) (v : Word) : (writePhys s pa n v).cr = s.cr := by
  unfold writePhys; split <;> rfl
@[simp] theorem writePhys_xer (s : State) (pa : Word) (n : Nat) (v : Word) : (writePhys s pa n v).xer = s.xer := by
  unfold writePhys; split <;> rfl
@[simp] theorem writePhys_lr (s : State) (pa : Word) (n : Nat) (v : Word) : (writePhys s pa n v).lr = s.lr := by
  unfold writePhys; split <;> rfl
@[simp] theorem writePhys_ctr (s : State) (pa : Word) (n : Nat) (v : Word) : (writePhys s pa n v).ctr = s.ctr := by
  unfold writePhys; split <;> rfl
@[simp] theorem writePhys_fpscr (s : State) (pa : Word) (n : Nat) (v : Word) : (writePhys s pa n v).fpscr = s.fpscr := by
  unfold writePhys; split <;> rfl
@[simp] theorem writePhys_msr (s : State) (pa : Word) (n : Nat) (v : Word) : (writePhys s pa n v).msr = s.msr := by
  unfold writePhys; split <;> rfl
@[simp] theorem writePhys_sr (s : State) (pa : Word) (n : Nat) (v : Word) : (writePhys s pa n v).sr = s.sr := by
  unfold writePhys; split <;> rfl
@[simp] theorem writePhys_dsisr (s : State) (pa : Word) (n : Nat) (v : Word) : (writePhys s pa n v).dsisr = s.dsisr := by
  unfold writePhys; split <;> rfl
@[simp] theorem writePhys_dar (s : State) (pa : Word) (n : Nat) (v : Word) : (writePhys s pa n v).dar = s.dar := by
  unfold writePhys; split <;> rfl
@[simp] theorem writePhys_dec (s : State) (pa : Word) (n : Nat) (v : Word) : (writePhys s pa n v).dec = s.dec := by
  unfold writePhys; split <;> rfl
@[simp] theorem writePhys_sdr1 (s : State) (pa : Word) (n : Nat) (v : Word) : (writePhys s pa n v).sdr1 = s.sdr1 := by
  unfold writePhys; split <;> rfl
@[simp] theorem writePhys_srr0 (s : State) (pa : Word) (n : Nat) (v : Word) : (writePhys s pa n v).srr0 = s.srr0 := by
  unfold writePhys; split <;> rfl
@[simp] theorem writePhys_srr1 (s : State) (pa : Word) (n : Nat) (v : Word) : (writePhys s pa n v).srr1 = s.srr1 := by
  unfold writePhys; split <;> rfl
@[simp] theorem writePhys_sprg (s : State) (pa : Word) (n : Nat) (v : Word) : (writePhys s pa n v).sprg = s.sprg := by
  unfold writePhys; split <;> rfl
@[simp] theorem writePhys_tb (s : State) (pa : Word) (n : Nat) (v : Word) : (writePhys s pa n v).tb = s.tb := by
  unfold writePhys; split <;> rfl
@[simp] theorem writePhys_ibat (s : State) (pa : Word) (n : Nat) (v : Word) : (writePhys s pa n v).ibat = s.ibat := by
  unfold writePhys; split <;> rfl
@[simp] theorem writePhys_dbat (s : State) (pa : Word) (n : Nat) (v : Word) : (writePhys s pa n v).dbat = s.dbat := by
  unfold writePhys; split <;> rfl
@[simp] theorem writePhys_dmiss (s : State) (pa : Word) (n : Nat) (v : Word) : (writePhys s pa n v).dmiss = s.dmiss := by
  unfold writePhys; split <;> rfl
@[simp] theorem writePhys_imiss (s : State) (pa : Word) (n : Nat) (v : Word) : (writePhys s pa n v).imiss = s.imiss := by
  unfold writePhys; split <;> rfl
@[simp] theorem writePhys_missIsData (s : State) (pa : Word) (n : Nat) (v : Word) : (writePhys s pa n v).missIsData = s.missIsData := by
  unfold writePhys; split <;> rfl
@[simp] theorem writePhys_rpa (s : State) (pa : Word) (n : Nat) (v : Word) : (writePhys s pa n v).rpa = s.rpa := by
  unfold writePhys; split <;> rfl
@[simp] theorem writePhys_tcr (s : State) (pa : Word) (n : Nat) (v : Word) : (writePhys s pa n v).tcr = s.tcr := by
  unfold writePhys; split <;> rfl
@[simp] theorem writePhys_ibr (s : State) (pa : Word) (n : Nat) (v : Word) : (writePhys s pa n v).ibr = s.ibr := by
  unfold writePhys; split <;> rfl
@[simp] theorem writePhys_esasrr (s : State) (pa : Word) (n : Nat) (v : Word) : (writePhys s pa n v).esasrr = s.esasrr := by
  unfold writePhys; split <;> rfl
@[simp] theorem writePhys_sebr (s : State) (pa : Word) (n : Nat) (v : Word) : (writePhys s pa n v).sebr = s.sebr := by
  unfold writePhys; split <;> rfl
@[simp] theorem writePhys_ser (s : State) (pa : Word) (n : Nat) (v : Word) : (writePhys s pa n v).ser = s.ser := by
  unfold writePhys; split <;> rfl
@[simp] theorem writePhys_hid0 (s : State) (pa : Word) (n : Nat) (v : Word) : (writePhys s pa n v).hid0 = s.hid0 := by
  unfold writePhys; split <;> rfl
@[simp] theorem writePhys_iabr (s : State) (pa : Word) (n : Nat) (v : Word) : (writePhys s pa n v).iabr = s.iabr := by
  unfold writePhys; split <;> rfl
@[simp] theorem writePhys_reserve (s : State) (pa : Word) (n : Nat) (v : Word) : (writePhys s pa n v).reserve = s.reserve := by
  unfold writePhys; split <;> rfl
@[simp] theorem writePhys_itlb (s : State) (pa : Word) (n : Nat) (v : Word) : (writePhys s pa n v).itlb = s.itlb := by
  unfold writePhys; split <;> rfl
@[simp] theorem writePhys_dtlb (s : State) (pa : Word) (n : Nat) (v : Word) : (writePhys s pa n v).dtlb = s.dtlb := by
  unfold writePhys; split <;> rfl
@[simp] theorem writePhys_power (s : State) (pa : Word) (n : Nat) (v : Word) : (writePhys s pa n v).power = s.power := by
  unfold writePhys; split <;> rfl
@[simp] theorem writePhys_powPending (s : State) (pa : Word) (n : Nat) (v : Word) : (writePhys s pa n v).powPending = s.powPending := by
  unfold writePhys; split <;> rfl
@[simp] theorem writePhys_checkstop (s : State) (pa : Word) (n : Nat) (v : Word) : (writePhys s pa n v).checkstop = s.checkstop := by
  unfold writePhys; split <;> rfl
@[simp] theorem writePhys_pins (s : State) (pa : Word) (n : Nat) (v : Word) : (writePhys s pa n v).pins = s.pins := by
  unfold writePhys; split <;> rfl
@[simp] theorem writePhys_sresetPending (s : State) (pa : Word) (n : Nat) (v : Word) : (writePhys s pa n v).sresetPending = s.sresetPending := by
  unfold writePhys; split <;> rfl
@[simp] theorem writePhys_mcheckPending (s : State) (pa : Word) (n : Nat) (v : Word) : (writePhys s pa n v).mcheckPending = s.mcheckPending := by
  unfold writePhys; split <;> rfl
@[simp] theorem writePhys_wdtResetPending (s : State) (pa : Word) (n : Nat) (v : Word) : (writePhys s pa n v).wdtResetPending = s.wdtResetPending := by
  unfold writePhys; split <;> rfl
@[simp] theorem writePhys_decPending (s : State) (pa : Word) (n : Nat) (v : Word) : (writePhys s pa n v).decPending = s.decPending := by
  unfold writePhys; split <;> rfl
@[simp] theorem writePhys_wdtPending (s : State) (pa : Word) (n : Nat) (v : Word) : (writePhys s pa n v).wdtPending = s.wdtPending := by
  unfold writePhys; split <;> rfl
@[simp] theorem writePhys_env (s : State) (pa : Word) (n : Nat) (v : Word) : (writePhys s pa n v).env = s.env := by
  unfold writePhys; split <;> rfl
@[simp] theorem writePhys_map (s : State) (pa : Word) (n : Nat) (v : Word) : (writePhys s pa n v).map = s.map := by
  unfold writePhys; split <;> rfl
@[simp] theorem writePhys_amid (s : State) (pa : Word) (n : Nat) (v : Word) : (writePhys s pa n v).amid = s.amid := by
  unfold writePhys; split <;> rfl
@[simp] theorem writePhys_teaNext (s : State) (pa : Word) (n : Nat) (v : Word) : (writePhys s pa n v).teaNext = s.teaNext := by
  unfold writePhys; split <;> rfl
@[simp] theorem writePhys_draws (s : State) (pa : Word) (n : Nat) (v : Word) : (writePhys s pa n v).draws = s.draws := by
  unfold writePhys; split <;> rfl
@[simp] theorem writePhys_deferred (s : State) (pa : Word) (n : Nat) (v : Word) : (writePhys s pa n v).deferred = s.deferred := by
  unfold writePhys; split <;> rfl
@[simp] theorem writePhys_windows (s : State) (pa : Word) (n : Nat) (v : Word) : (writePhys s pa n v).windows = s.windows := by
  unfold writePhys; split <;> rfl
@[simp] theorem writePhys_taken (s : State) (pa : Word) (n : Nat) (v : Word) : (writePhys s pa n v).taken = s.taken := by
  unfold writePhys; split <;> rfl

/- One access of a load. -/

@[simp] theorem loadedAt_cia (s : State) (pa : Word) : (loadedAt s pa).cia = s.cia := rfl
@[simp] theorem loadedAt_gpr (s : State) (pa : Word) : (loadedAt s pa).gpr = s.gpr := rfl
@[simp] theorem loadedAt_tgpr (s : State) (pa : Word) : (loadedAt s pa).tgpr = s.tgpr := rfl
@[simp] theorem loadedAt_fpr (s : State) (pa : Word) : (loadedAt s pa).fpr = s.fpr := rfl
@[simp] theorem loadedAt_sp (s : State) (pa : Word) : (loadedAt s pa).sp = s.sp := rfl
@[simp] theorem loadedAt_lt (s : State) (pa : Word) : (loadedAt s pa).lt = s.lt := rfl
@[simp] theorem loadedAt_cr (s : State) (pa : Word) : (loadedAt s pa).cr = s.cr := rfl
@[simp] theorem loadedAt_xer (s : State) (pa : Word) : (loadedAt s pa).xer = s.xer := rfl
@[simp] theorem loadedAt_lr (s : State) (pa : Word) : (loadedAt s pa).lr = s.lr := rfl
@[simp] theorem loadedAt_ctr (s : State) (pa : Word) : (loadedAt s pa).ctr = s.ctr := rfl
@[simp] theorem loadedAt_fpscr (s : State) (pa : Word) : (loadedAt s pa).fpscr = s.fpscr := rfl
@[simp] theorem loadedAt_msr (s : State) (pa : Word) : (loadedAt s pa).msr = s.msr := rfl
@[simp] theorem loadedAt_sr (s : State) (pa : Word) : (loadedAt s pa).sr = s.sr := rfl
@[simp] theorem loadedAt_dsisr (s : State) (pa : Word) : (loadedAt s pa).dsisr = s.dsisr := rfl
@[simp] theorem loadedAt_dar (s : State) (pa : Word) : (loadedAt s pa).dar = s.dar := rfl
@[simp] theorem loadedAt_dec (s : State) (pa : Word) : (loadedAt s pa).dec = s.dec := rfl
@[simp] theorem loadedAt_sdr1 (s : State) (pa : Word) : (loadedAt s pa).sdr1 = s.sdr1 := rfl
@[simp] theorem loadedAt_srr0 (s : State) (pa : Word) : (loadedAt s pa).srr0 = s.srr0 := rfl
@[simp] theorem loadedAt_srr1 (s : State) (pa : Word) : (loadedAt s pa).srr1 = s.srr1 := rfl
@[simp] theorem loadedAt_sprg (s : State) (pa : Word) : (loadedAt s pa).sprg = s.sprg := rfl
@[simp] theorem loadedAt_tb (s : State) (pa : Word) : (loadedAt s pa).tb = s.tb := rfl
@[simp] theorem loadedAt_ibat (s : State) (pa : Word) : (loadedAt s pa).ibat = s.ibat := rfl
@[simp] theorem loadedAt_dbat (s : State) (pa : Word) : (loadedAt s pa).dbat = s.dbat := rfl
@[simp] theorem loadedAt_dmiss (s : State) (pa : Word) : (loadedAt s pa).dmiss = s.dmiss := rfl
@[simp] theorem loadedAt_imiss (s : State) (pa : Word) : (loadedAt s pa).imiss = s.imiss := rfl
@[simp] theorem loadedAt_missIsData (s : State) (pa : Word) : (loadedAt s pa).missIsData = s.missIsData := rfl
@[simp] theorem loadedAt_rpa (s : State) (pa : Word) : (loadedAt s pa).rpa = s.rpa := rfl
@[simp] theorem loadedAt_tcr (s : State) (pa : Word) : (loadedAt s pa).tcr = s.tcr := rfl
@[simp] theorem loadedAt_ibr (s : State) (pa : Word) : (loadedAt s pa).ibr = s.ibr := rfl
@[simp] theorem loadedAt_esasrr (s : State) (pa : Word) : (loadedAt s pa).esasrr = s.esasrr := rfl
@[simp] theorem loadedAt_sebr (s : State) (pa : Word) : (loadedAt s pa).sebr = s.sebr := rfl
@[simp] theorem loadedAt_ser (s : State) (pa : Word) : (loadedAt s pa).ser = s.ser := rfl
@[simp] theorem loadedAt_hid0 (s : State) (pa : Word) : (loadedAt s pa).hid0 = s.hid0 := rfl
@[simp] theorem loadedAt_iabr (s : State) (pa : Word) : (loadedAt s pa).iabr = s.iabr := rfl
@[simp] theorem loadedAt_reserve (s : State) (pa : Word) : (loadedAt s pa).reserve = s.reserve := rfl
@[simp] theorem loadedAt_itlb (s : State) (pa : Word) : (loadedAt s pa).itlb = s.itlb := rfl
@[simp] theorem loadedAt_dtlb (s : State) (pa : Word) : (loadedAt s pa).dtlb = s.dtlb := rfl
@[simp] theorem loadedAt_mem (s : State) (pa : Word) : (loadedAt s pa).mem = s.mem := rfl
@[simp] theorem loadedAt_map (s : State) (pa : Word) : (loadedAt s pa).map = s.map := rfl
@[simp] theorem loadedAt_cached (s : State) (pa : Word) : (loadedAt s pa).cached = s.cached := rfl
@[simp] theorem loadedAt_stale (s : State) (pa : Word) : (loadedAt s pa).stale = s.stale := rfl
@[simp] theorem loadedAt_power (s : State) (pa : Word) : (loadedAt s pa).power = s.power := rfl
@[simp] theorem loadedAt_powPending (s : State) (pa : Word) : (loadedAt s pa).powPending = s.powPending := rfl
@[simp] theorem loadedAt_checkstop (s : State) (pa : Word) : (loadedAt s pa).checkstop = s.checkstop := rfl
@[simp] theorem loadedAt_pins (s : State) (pa : Word) : (loadedAt s pa).pins = s.pins := rfl
@[simp] theorem loadedAt_sresetPending (s : State) (pa : Word) : (loadedAt s pa).sresetPending = s.sresetPending := rfl
@[simp] theorem loadedAt_mcheckPending (s : State) (pa : Word) : (loadedAt s pa).mcheckPending = s.mcheckPending := rfl
@[simp] theorem loadedAt_wdtResetPending (s : State) (pa : Word) : (loadedAt s pa).wdtResetPending = s.wdtResetPending := rfl
@[simp] theorem loadedAt_decPending (s : State) (pa : Word) : (loadedAt s pa).decPending = s.decPending := rfl
@[simp] theorem loadedAt_wdtPending (s : State) (pa : Word) : (loadedAt s pa).wdtPending = s.wdtPending := rfl
@[simp] theorem loadedAt_env (s : State) (pa : Word) : (loadedAt s pa).env = s.env := rfl
@[simp] theorem loadedAt_amid (s : State) (pa : Word) : (loadedAt s pa).amid = s.amid := rfl
@[simp] theorem loadedAt_draws (s : State) (pa : Word) : (loadedAt s pa).draws = s.draws := rfl
@[simp] theorem loadedAt_deferred (s : State) (pa : Word) : (loadedAt s pa).deferred = s.deferred := rfl
@[simp] theorem loadedAt_windows (s : State) (pa : Word) : (loadedAt s pa).windows = s.windows := rfl
@[simp] theorem loadedAt_taken (s : State) (pa : Word) : (loadedAt s pa).taken = s.taken := rfl
@[simp] theorem loadedAt_teaNext (s : State) (pa : Word) : (loadedAt s pa).teaNext = false := rfl

/- What happens on the bus in the gaps of an access: memory, the record of replaced words, the copies, the reservation and a
TEA to come. -/

theorem applyBus_frame (s : State) (e : BusEvent) :
    ∃ m l c r n, applyBus s e = { s with mem := m, stale := l, cached := c, reserve := r, teaNext := n } := by
  cases e <;> simp only [applyBus, snoopReservation, busWrite] <;> (try split_ifs) <;> exact ⟨_, _, _, _, _, rfl⟩

theorem foldl_applyBus_frame (s : State) (es : List BusEvent) :
    ∃ m l c r n, es.foldl applyBus s = { s with mem := m, stale := l, cached := c, reserve := r, teaNext := n } := by
  induction es generalizing s with
  | nil => exact ⟨_, _, _, _, _, rfl⟩
  | cons e rest ih =>
    obtain ⟨m, l, c, r, n, h⟩ := applyBus_frame s e
    obtain ⟨m', l', c', r', n', h'⟩ := ih (applyBus s e)
    exact ⟨m', l', c', r', n', by rw [List.foldl_cons, h', h]⟩

theorem between_frame (s : State) :
    ∃ m l c r n, between s =
      { s with mem := m, stale := l, cached := c, reserve := r, teaNext := n, amid := s.amid.tail } := by
  obtain ⟨m, l, c, r, n, h⟩ := foldl_applyBus_frame { s with amid := s.amid.tail } (s.amid.headD [])
  exact ⟨m, l, c, r, n, h⟩

theorem gaps_frame (s : State) (k : Nat) :
    ∃ m l c r n, gaps s k =
      { s with mem := m, stale := l, cached := c, reserve := r, teaNext := n, amid := s.amid.drop k } := by
  induction k generalizing s with
  | zero => exact ⟨_, _, _, _, _, rfl⟩
  | succ k ih =>
    obtain ⟨m, l, c, r, n, h⟩ := between_frame s
    obtain ⟨m', l', c', r', n', h'⟩ := ih (between s)
    exact ⟨m', l', c', r', n', by rw [gaps, h', h, List.drop_tail]⟩

/-- A TEA is to come after an event where it was or where the event brings it. -/
theorem applyBus_teaNext (s : State) (e : BusEvent) :
    (applyBus s e).teaNext = (s.teaNext || decide (e = .teaLoad)) := by
  cases e <;> simp only [applyBus, snoopReservation, busWrite] <;> (try split_ifs) <;>
    simp [writeBus, writeAs, forgetCached]

theorem between_teaNext (s : State) :
    (between s).teaNext = (s.teaNext || decide (BusEvent.teaLoad ∈ s.amid.headD [])) := by
  have h : ∀ (es : List BusEvent) (t : State),
      (es.foldl applyBus t).teaNext = (t.teaNext || decide (BusEvent.teaLoad ∈ es)) := by
    intro es
    induction es with
    | nil => simp
    | cons e rest ih =>
      intro t
      rw [List.foldl_cons, ih, applyBus_teaNext]
      simp only [Bool.or_assoc, List.mem_cons, Bool.decide_or, eq_comm (a := BusEvent.teaLoad)]
  exact h _ _

@[simp] theorem gaps_cia (s : State) (n : Nat) : (gaps s n).cia = s.cia := by
  obtain ⟨_, _, _, _, _, h⟩ := gaps_frame s n; rw [h]
@[simp] theorem gaps_gpr (s : State) (n : Nat) : (gaps s n).gpr = s.gpr := by
  obtain ⟨_, _, _, _, _, h⟩ := gaps_frame s n; rw [h]
@[simp] theorem gaps_tgpr (s : State) (n : Nat) : (gaps s n).tgpr = s.tgpr := by
  obtain ⟨_, _, _, _, _, h⟩ := gaps_frame s n; rw [h]
@[simp] theorem gaps_fpr (s : State) (n : Nat) : (gaps s n).fpr = s.fpr := by
  obtain ⟨_, _, _, _, _, h⟩ := gaps_frame s n; rw [h]
@[simp] theorem gaps_sp (s : State) (n : Nat) : (gaps s n).sp = s.sp := by
  obtain ⟨_, _, _, _, _, h⟩ := gaps_frame s n; rw [h]
@[simp] theorem gaps_lt (s : State) (n : Nat) : (gaps s n).lt = s.lt := by
  obtain ⟨_, _, _, _, _, h⟩ := gaps_frame s n; rw [h]
@[simp] theorem gaps_cr (s : State) (n : Nat) : (gaps s n).cr = s.cr := by
  obtain ⟨_, _, _, _, _, h⟩ := gaps_frame s n; rw [h]
@[simp] theorem gaps_xer (s : State) (n : Nat) : (gaps s n).xer = s.xer := by
  obtain ⟨_, _, _, _, _, h⟩ := gaps_frame s n; rw [h]
@[simp] theorem gaps_lr (s : State) (n : Nat) : (gaps s n).lr = s.lr := by
  obtain ⟨_, _, _, _, _, h⟩ := gaps_frame s n; rw [h]
@[simp] theorem gaps_ctr (s : State) (n : Nat) : (gaps s n).ctr = s.ctr := by
  obtain ⟨_, _, _, _, _, h⟩ := gaps_frame s n; rw [h]
@[simp] theorem gaps_fpscr (s : State) (n : Nat) : (gaps s n).fpscr = s.fpscr := by
  obtain ⟨_, _, _, _, _, h⟩ := gaps_frame s n; rw [h]
@[simp] theorem gaps_msr (s : State) (n : Nat) : (gaps s n).msr = s.msr := by
  obtain ⟨_, _, _, _, _, h⟩ := gaps_frame s n; rw [h]
@[simp] theorem gaps_sr (s : State) (n : Nat) : (gaps s n).sr = s.sr := by
  obtain ⟨_, _, _, _, _, h⟩ := gaps_frame s n; rw [h]
@[simp] theorem gaps_dsisr (s : State) (n : Nat) : (gaps s n).dsisr = s.dsisr := by
  obtain ⟨_, _, _, _, _, h⟩ := gaps_frame s n; rw [h]
@[simp] theorem gaps_dar (s : State) (n : Nat) : (gaps s n).dar = s.dar := by
  obtain ⟨_, _, _, _, _, h⟩ := gaps_frame s n; rw [h]
@[simp] theorem gaps_dec (s : State) (n : Nat) : (gaps s n).dec = s.dec := by
  obtain ⟨_, _, _, _, _, h⟩ := gaps_frame s n; rw [h]
@[simp] theorem gaps_sdr1 (s : State) (n : Nat) : (gaps s n).sdr1 = s.sdr1 := by
  obtain ⟨_, _, _, _, _, h⟩ := gaps_frame s n; rw [h]
@[simp] theorem gaps_srr0 (s : State) (n : Nat) : (gaps s n).srr0 = s.srr0 := by
  obtain ⟨_, _, _, _, _, h⟩ := gaps_frame s n; rw [h]
@[simp] theorem gaps_srr1 (s : State) (n : Nat) : (gaps s n).srr1 = s.srr1 := by
  obtain ⟨_, _, _, _, _, h⟩ := gaps_frame s n; rw [h]
@[simp] theorem gaps_sprg (s : State) (n : Nat) : (gaps s n).sprg = s.sprg := by
  obtain ⟨_, _, _, _, _, h⟩ := gaps_frame s n; rw [h]
@[simp] theorem gaps_tb (s : State) (n : Nat) : (gaps s n).tb = s.tb := by
  obtain ⟨_, _, _, _, _, h⟩ := gaps_frame s n; rw [h]
@[simp] theorem gaps_ibat (s : State) (n : Nat) : (gaps s n).ibat = s.ibat := by
  obtain ⟨_, _, _, _, _, h⟩ := gaps_frame s n; rw [h]
@[simp] theorem gaps_dbat (s : State) (n : Nat) : (gaps s n).dbat = s.dbat := by
  obtain ⟨_, _, _, _, _, h⟩ := gaps_frame s n; rw [h]
@[simp] theorem gaps_dmiss (s : State) (n : Nat) : (gaps s n).dmiss = s.dmiss := by
  obtain ⟨_, _, _, _, _, h⟩ := gaps_frame s n; rw [h]
@[simp] theorem gaps_imiss (s : State) (n : Nat) : (gaps s n).imiss = s.imiss := by
  obtain ⟨_, _, _, _, _, h⟩ := gaps_frame s n; rw [h]
@[simp] theorem gaps_missIsData (s : State) (n : Nat) : (gaps s n).missIsData = s.missIsData := by
  obtain ⟨_, _, _, _, _, h⟩ := gaps_frame s n; rw [h]
@[simp] theorem gaps_rpa (s : State) (n : Nat) : (gaps s n).rpa = s.rpa := by
  obtain ⟨_, _, _, _, _, h⟩ := gaps_frame s n; rw [h]
@[simp] theorem gaps_tcr (s : State) (n : Nat) : (gaps s n).tcr = s.tcr := by
  obtain ⟨_, _, _, _, _, h⟩ := gaps_frame s n; rw [h]
@[simp] theorem gaps_ibr (s : State) (n : Nat) : (gaps s n).ibr = s.ibr := by
  obtain ⟨_, _, _, _, _, h⟩ := gaps_frame s n; rw [h]
@[simp] theorem gaps_esasrr (s : State) (n : Nat) : (gaps s n).esasrr = s.esasrr := by
  obtain ⟨_, _, _, _, _, h⟩ := gaps_frame s n; rw [h]
@[simp] theorem gaps_sebr (s : State) (n : Nat) : (gaps s n).sebr = s.sebr := by
  obtain ⟨_, _, _, _, _, h⟩ := gaps_frame s n; rw [h]
@[simp] theorem gaps_ser (s : State) (n : Nat) : (gaps s n).ser = s.ser := by
  obtain ⟨_, _, _, _, _, h⟩ := gaps_frame s n; rw [h]
@[simp] theorem gaps_hid0 (s : State) (n : Nat) : (gaps s n).hid0 = s.hid0 := by
  obtain ⟨_, _, _, _, _, h⟩ := gaps_frame s n; rw [h]
@[simp] theorem gaps_iabr (s : State) (n : Nat) : (gaps s n).iabr = s.iabr := by
  obtain ⟨_, _, _, _, _, h⟩ := gaps_frame s n; rw [h]
@[simp] theorem gaps_itlb (s : State) (n : Nat) : (gaps s n).itlb = s.itlb := by
  obtain ⟨_, _, _, _, _, h⟩ := gaps_frame s n; rw [h]
@[simp] theorem gaps_dtlb (s : State) (n : Nat) : (gaps s n).dtlb = s.dtlb := by
  obtain ⟨_, _, _, _, _, h⟩ := gaps_frame s n; rw [h]
@[simp] theorem gaps_map (s : State) (n : Nat) : (gaps s n).map = s.map := by
  obtain ⟨_, _, _, _, _, h⟩ := gaps_frame s n; rw [h]
@[simp] theorem gaps_power (s : State) (n : Nat) : (gaps s n).power = s.power := by
  obtain ⟨_, _, _, _, _, h⟩ := gaps_frame s n; rw [h]
@[simp] theorem gaps_powPending (s : State) (n : Nat) : (gaps s n).powPending = s.powPending := by
  obtain ⟨_, _, _, _, _, h⟩ := gaps_frame s n; rw [h]
@[simp] theorem gaps_checkstop (s : State) (n : Nat) : (gaps s n).checkstop = s.checkstop := by
  obtain ⟨_, _, _, _, _, h⟩ := gaps_frame s n; rw [h]
@[simp] theorem gaps_pins (s : State) (n : Nat) : (gaps s n).pins = s.pins := by
  obtain ⟨_, _, _, _, _, h⟩ := gaps_frame s n; rw [h]
@[simp] theorem gaps_sresetPending (s : State) (n : Nat) : (gaps s n).sresetPending = s.sresetPending := by
  obtain ⟨_, _, _, _, _, h⟩ := gaps_frame s n; rw [h]
@[simp] theorem gaps_mcheckPending (s : State) (n : Nat) : (gaps s n).mcheckPending = s.mcheckPending := by
  obtain ⟨_, _, _, _, _, h⟩ := gaps_frame s n; rw [h]
@[simp] theorem gaps_teaUnrecognised (s : State) (n : Nat) : (gaps s n).teaUnrecognised = s.teaUnrecognised := by
  obtain ⟨_, _, _, _, _, h⟩ := gaps_frame s n; rw [h]
@[simp] theorem gaps_wdtResetPending (s : State) (n : Nat) : (gaps s n).wdtResetPending = s.wdtResetPending := by
  obtain ⟨_, _, _, _, _, h⟩ := gaps_frame s n; rw [h]
@[simp] theorem gaps_decPending (s : State) (n : Nat) : (gaps s n).decPending = s.decPending := by
  obtain ⟨_, _, _, _, _, h⟩ := gaps_frame s n; rw [h]
@[simp] theorem gaps_wdtPending (s : State) (n : Nat) : (gaps s n).wdtPending = s.wdtPending := by
  obtain ⟨_, _, _, _, _, h⟩ := gaps_frame s n; rw [h]
@[simp] theorem gaps_env (s : State) (n : Nat) : (gaps s n).env = s.env := by
  obtain ⟨_, _, _, _, _, h⟩ := gaps_frame s n; rw [h]
@[simp] theorem gaps_draws (s : State) (n : Nat) : (gaps s n).draws = s.draws := by
  obtain ⟨_, _, _, _, _, h⟩ := gaps_frame s n; rw [h]
@[simp] theorem gaps_deferred (s : State) (n : Nat) : (gaps s n).deferred = s.deferred := by
  obtain ⟨_, _, _, _, _, h⟩ := gaps_frame s n; rw [h]
@[simp] theorem gaps_windows (s : State) (n : Nat) : (gaps s n).windows = s.windows := by
  obtain ⟨_, _, _, _, _, h⟩ := gaps_frame s n; rw [h]
@[simp] theorem gaps_taken (s : State) (n : Nat) : (gaps s n).taken = s.taken := by
  obtain ⟨_, _, _, _, _, h⟩ := gaps_frame s n; rw [h]
@[simp] theorem between_cia (s : State) : (between s).cia = s.cia := by
  obtain ⟨_, _, _, _, _, h⟩ := between_frame s; rw [h]
@[simp] theorem between_gpr (s : State) : (between s).gpr = s.gpr := by
  obtain ⟨_, _, _, _, _, h⟩ := between_frame s; rw [h]
@[simp] theorem between_tgpr (s : State) : (between s).tgpr = s.tgpr := by
  obtain ⟨_, _, _, _, _, h⟩ := between_frame s; rw [h]
@[simp] theorem between_fpr (s : State) : (between s).fpr = s.fpr := by
  obtain ⟨_, _, _, _, _, h⟩ := between_frame s; rw [h]
@[simp] theorem between_sp (s : State) : (between s).sp = s.sp := by
  obtain ⟨_, _, _, _, _, h⟩ := between_frame s; rw [h]
@[simp] theorem between_lt (s : State) : (between s).lt = s.lt := by
  obtain ⟨_, _, _, _, _, h⟩ := between_frame s; rw [h]
@[simp] theorem between_cr (s : State) : (between s).cr = s.cr := by
  obtain ⟨_, _, _, _, _, h⟩ := between_frame s; rw [h]
@[simp] theorem between_xer (s : State) : (between s).xer = s.xer := by
  obtain ⟨_, _, _, _, _, h⟩ := between_frame s; rw [h]
@[simp] theorem between_lr (s : State) : (between s).lr = s.lr := by
  obtain ⟨_, _, _, _, _, h⟩ := between_frame s; rw [h]
@[simp] theorem between_ctr (s : State) : (between s).ctr = s.ctr := by
  obtain ⟨_, _, _, _, _, h⟩ := between_frame s; rw [h]
@[simp] theorem between_fpscr (s : State) : (between s).fpscr = s.fpscr := by
  obtain ⟨_, _, _, _, _, h⟩ := between_frame s; rw [h]
@[simp] theorem between_msr (s : State) : (between s).msr = s.msr := by
  obtain ⟨_, _, _, _, _, h⟩ := between_frame s; rw [h]
@[simp] theorem between_sr (s : State) : (between s).sr = s.sr := by
  obtain ⟨_, _, _, _, _, h⟩ := between_frame s; rw [h]
@[simp] theorem between_dsisr (s : State) : (between s).dsisr = s.dsisr := by
  obtain ⟨_, _, _, _, _, h⟩ := between_frame s; rw [h]
@[simp] theorem between_dar (s : State) : (between s).dar = s.dar := by
  obtain ⟨_, _, _, _, _, h⟩ := between_frame s; rw [h]
@[simp] theorem between_dec (s : State) : (between s).dec = s.dec := by
  obtain ⟨_, _, _, _, _, h⟩ := between_frame s; rw [h]
@[simp] theorem between_sdr1 (s : State) : (between s).sdr1 = s.sdr1 := by
  obtain ⟨_, _, _, _, _, h⟩ := between_frame s; rw [h]
@[simp] theorem between_srr0 (s : State) : (between s).srr0 = s.srr0 := by
  obtain ⟨_, _, _, _, _, h⟩ := between_frame s; rw [h]
@[simp] theorem between_srr1 (s : State) : (between s).srr1 = s.srr1 := by
  obtain ⟨_, _, _, _, _, h⟩ := between_frame s; rw [h]
@[simp] theorem between_sprg (s : State) : (between s).sprg = s.sprg := by
  obtain ⟨_, _, _, _, _, h⟩ := between_frame s; rw [h]
@[simp] theorem between_tb (s : State) : (between s).tb = s.tb := by
  obtain ⟨_, _, _, _, _, h⟩ := between_frame s; rw [h]
@[simp] theorem between_ibat (s : State) : (between s).ibat = s.ibat := by
  obtain ⟨_, _, _, _, _, h⟩ := between_frame s; rw [h]
@[simp] theorem between_dbat (s : State) : (between s).dbat = s.dbat := by
  obtain ⟨_, _, _, _, _, h⟩ := between_frame s; rw [h]
@[simp] theorem between_dmiss (s : State) : (between s).dmiss = s.dmiss := by
  obtain ⟨_, _, _, _, _, h⟩ := between_frame s; rw [h]
@[simp] theorem between_imiss (s : State) : (between s).imiss = s.imiss := by
  obtain ⟨_, _, _, _, _, h⟩ := between_frame s; rw [h]
@[simp] theorem between_missIsData (s : State) : (between s).missIsData = s.missIsData := by
  obtain ⟨_, _, _, _, _, h⟩ := between_frame s; rw [h]
@[simp] theorem between_rpa (s : State) : (between s).rpa = s.rpa := by
  obtain ⟨_, _, _, _, _, h⟩ := between_frame s; rw [h]
@[simp] theorem between_tcr (s : State) : (between s).tcr = s.tcr := by
  obtain ⟨_, _, _, _, _, h⟩ := between_frame s; rw [h]
@[simp] theorem between_ibr (s : State) : (between s).ibr = s.ibr := by
  obtain ⟨_, _, _, _, _, h⟩ := between_frame s; rw [h]
@[simp] theorem between_esasrr (s : State) : (between s).esasrr = s.esasrr := by
  obtain ⟨_, _, _, _, _, h⟩ := between_frame s; rw [h]
@[simp] theorem between_sebr (s : State) : (between s).sebr = s.sebr := by
  obtain ⟨_, _, _, _, _, h⟩ := between_frame s; rw [h]
@[simp] theorem between_ser (s : State) : (between s).ser = s.ser := by
  obtain ⟨_, _, _, _, _, h⟩ := between_frame s; rw [h]
@[simp] theorem between_hid0 (s : State) : (between s).hid0 = s.hid0 := by
  obtain ⟨_, _, _, _, _, h⟩ := between_frame s; rw [h]
@[simp] theorem between_iabr (s : State) : (between s).iabr = s.iabr := by
  obtain ⟨_, _, _, _, _, h⟩ := between_frame s; rw [h]
@[simp] theorem between_itlb (s : State) : (between s).itlb = s.itlb := by
  obtain ⟨_, _, _, _, _, h⟩ := between_frame s; rw [h]
@[simp] theorem between_dtlb (s : State) : (between s).dtlb = s.dtlb := by
  obtain ⟨_, _, _, _, _, h⟩ := between_frame s; rw [h]
@[simp] theorem between_map (s : State) : (between s).map = s.map := by
  obtain ⟨_, _, _, _, _, h⟩ := between_frame s; rw [h]
@[simp] theorem between_power (s : State) : (between s).power = s.power := by
  obtain ⟨_, _, _, _, _, h⟩ := between_frame s; rw [h]
@[simp] theorem between_powPending (s : State) : (between s).powPending = s.powPending := by
  obtain ⟨_, _, _, _, _, h⟩ := between_frame s; rw [h]
@[simp] theorem between_checkstop (s : State) : (between s).checkstop = s.checkstop := by
  obtain ⟨_, _, _, _, _, h⟩ := between_frame s; rw [h]
@[simp] theorem between_pins (s : State) : (between s).pins = s.pins := by
  obtain ⟨_, _, _, _, _, h⟩ := between_frame s; rw [h]
@[simp] theorem between_sresetPending (s : State) : (between s).sresetPending = s.sresetPending := by
  obtain ⟨_, _, _, _, _, h⟩ := between_frame s; rw [h]
@[simp] theorem between_mcheckPending (s : State) : (between s).mcheckPending = s.mcheckPending := by
  obtain ⟨_, _, _, _, _, h⟩ := between_frame s; rw [h]
@[simp] theorem between_teaUnrecognised (s : State) : (between s).teaUnrecognised = s.teaUnrecognised := by
  obtain ⟨_, _, _, _, _, h⟩ := between_frame s; rw [h]
@[simp] theorem between_wdtResetPending (s : State) : (between s).wdtResetPending = s.wdtResetPending := by
  obtain ⟨_, _, _, _, _, h⟩ := between_frame s; rw [h]
@[simp] theorem between_decPending (s : State) : (between s).decPending = s.decPending := by
  obtain ⟨_, _, _, _, _, h⟩ := between_frame s; rw [h]
@[simp] theorem between_wdtPending (s : State) : (between s).wdtPending = s.wdtPending := by
  obtain ⟨_, _, _, _, _, h⟩ := between_frame s; rw [h]
@[simp] theorem between_env (s : State) : (between s).env = s.env := by
  obtain ⟨_, _, _, _, _, h⟩ := between_frame s; rw [h]
@[simp] theorem between_draws (s : State) : (between s).draws = s.draws := by
  obtain ⟨_, _, _, _, _, h⟩ := between_frame s; rw [h]
@[simp] theorem between_deferred (s : State) : (between s).deferred = s.deferred := by
  obtain ⟨_, _, _, _, _, h⟩ := between_frame s; rw [h]
@[simp] theorem between_windows (s : State) : (between s).windows = s.windows := by
  obtain ⟨_, _, _, _, _, h⟩ := between_frame s; rw [h]
@[simp] theorem between_taken (s : State) : (between s).taken = s.taken := by
  obtain ⟨_, _, _, _, _, h⟩ := between_frame s; rw [h]

/- A window opened. -/

@[simp] theorem openWindow_cia (o s : State) : (openWindow o s).cia = s.cia := by unfold openWindow; split <;> rfl
@[simp] theorem openWindow_gpr (o s : State) : (openWindow o s).gpr = s.gpr := by unfold openWindow; split <;> rfl
@[simp] theorem openWindow_tgpr (o s : State) : (openWindow o s).tgpr = s.tgpr := by unfold openWindow; split <;> rfl
@[simp] theorem openWindow_fpr (o s : State) : (openWindow o s).fpr = s.fpr := by unfold openWindow; split <;> rfl
@[simp] theorem openWindow_sp (o s : State) : (openWindow o s).sp = s.sp := by unfold openWindow; split <;> rfl
@[simp] theorem openWindow_lt (o s : State) : (openWindow o s).lt = s.lt := by unfold openWindow; split <;> rfl
@[simp] theorem openWindow_cr (o s : State) : (openWindow o s).cr = s.cr := by unfold openWindow; split <;> rfl
@[simp] theorem openWindow_xer (o s : State) : (openWindow o s).xer = s.xer := by unfold openWindow; split <;> rfl
@[simp] theorem openWindow_lr (o s : State) : (openWindow o s).lr = s.lr := by unfold openWindow; split <;> rfl
@[simp] theorem openWindow_ctr (o s : State) : (openWindow o s).ctr = s.ctr := by unfold openWindow; split <;> rfl
@[simp] theorem openWindow_fpscr (o s : State) : (openWindow o s).fpscr = s.fpscr := by unfold openWindow; split <;> rfl
@[simp] theorem openWindow_msr (o s : State) : (openWindow o s).msr = s.msr := by unfold openWindow; split <;> rfl
@[simp] theorem openWindow_sr (o s : State) : (openWindow o s).sr = s.sr := by unfold openWindow; split <;> rfl
@[simp] theorem openWindow_dsisr (o s : State) : (openWindow o s).dsisr = s.dsisr := by unfold openWindow; split <;> rfl
@[simp] theorem openWindow_dar (o s : State) : (openWindow o s).dar = s.dar := by unfold openWindow; split <;> rfl
@[simp] theorem openWindow_dec (o s : State) : (openWindow o s).dec = s.dec := by unfold openWindow; split <;> rfl
@[simp] theorem openWindow_sdr1 (o s : State) : (openWindow o s).sdr1 = s.sdr1 := by unfold openWindow; split <;> rfl
@[simp] theorem openWindow_srr0 (o s : State) : (openWindow o s).srr0 = s.srr0 := by unfold openWindow; split <;> rfl
@[simp] theorem openWindow_srr1 (o s : State) : (openWindow o s).srr1 = s.srr1 := by unfold openWindow; split <;> rfl
@[simp] theorem openWindow_sprg (o s : State) : (openWindow o s).sprg = s.sprg := by unfold openWindow; split <;> rfl
@[simp] theorem openWindow_tb (o s : State) : (openWindow o s).tb = s.tb := by unfold openWindow; split <;> rfl
@[simp] theorem openWindow_ibat (o s : State) : (openWindow o s).ibat = s.ibat := by unfold openWindow; split <;> rfl
@[simp] theorem openWindow_dbat (o s : State) : (openWindow o s).dbat = s.dbat := by unfold openWindow; split <;> rfl
@[simp] theorem openWindow_dmiss (o s : State) : (openWindow o s).dmiss = s.dmiss := by unfold openWindow; split <;> rfl
@[simp] theorem openWindow_imiss (o s : State) : (openWindow o s).imiss = s.imiss := by unfold openWindow; split <;> rfl
@[simp] theorem openWindow_missIsData (o s : State) : (openWindow o s).missIsData = s.missIsData := by unfold openWindow; split <;> rfl
@[simp] theorem openWindow_rpa (o s : State) : (openWindow o s).rpa = s.rpa := by unfold openWindow; split <;> rfl
@[simp] theorem openWindow_tcr (o s : State) : (openWindow o s).tcr = s.tcr := by unfold openWindow; split <;> rfl
@[simp] theorem openWindow_ibr (o s : State) : (openWindow o s).ibr = s.ibr := by unfold openWindow; split <;> rfl
@[simp] theorem openWindow_esasrr (o s : State) : (openWindow o s).esasrr = s.esasrr := by unfold openWindow; split <;> rfl
@[simp] theorem openWindow_sebr (o s : State) : (openWindow o s).sebr = s.sebr := by unfold openWindow; split <;> rfl
@[simp] theorem openWindow_ser (o s : State) : (openWindow o s).ser = s.ser := by unfold openWindow; split <;> rfl
@[simp] theorem openWindow_hid0 (o s : State) : (openWindow o s).hid0 = s.hid0 := by unfold openWindow; split <;> rfl
@[simp] theorem openWindow_iabr (o s : State) : (openWindow o s).iabr = s.iabr := by unfold openWindow; split <;> rfl
@[simp] theorem openWindow_reserve (o s : State) : (openWindow o s).reserve = s.reserve := by unfold openWindow; split <;> rfl
@[simp] theorem openWindow_itlb (o s : State) : (openWindow o s).itlb = s.itlb := by unfold openWindow; split <;> rfl
@[simp] theorem openWindow_dtlb (o s : State) : (openWindow o s).dtlb = s.dtlb := by unfold openWindow; split <;> rfl
@[simp] theorem openWindow_mem (o s : State) : (openWindow o s).mem = s.mem := by unfold openWindow; split <;> rfl
@[simp] theorem openWindow_stale (o s : State) : (openWindow o s).stale = s.stale := by unfold openWindow; split <;> rfl
@[simp] theorem openWindow_power (o s : State) : (openWindow o s).power = s.power := by unfold openWindow; split <;> rfl
@[simp] theorem openWindow_powPending (o s : State) : (openWindow o s).powPending = s.powPending := by unfold openWindow; split <;> rfl
@[simp] theorem openWindow_checkstop (o s : State) : (openWindow o s).checkstop = s.checkstop := by unfold openWindow; split <;> rfl
@[simp] theorem openWindow_pins (o s : State) : (openWindow o s).pins = s.pins := by unfold openWindow; split <;> rfl
@[simp] theorem openWindow_sresetPending (o s : State) : (openWindow o s).sresetPending = s.sresetPending := by unfold openWindow; split <;> rfl
@[simp] theorem openWindow_mcheckPending (o s : State) : (openWindow o s).mcheckPending = s.mcheckPending := by unfold openWindow; split <;> rfl
@[simp] theorem openWindow_wdtResetPending (o s : State) : (openWindow o s).wdtResetPending = s.wdtResetPending := by unfold openWindow; split <;> rfl
@[simp] theorem openWindow_decPending (o s : State) : (openWindow o s).decPending = s.decPending := by unfold openWindow; split <;> rfl
@[simp] theorem openWindow_wdtPending (o s : State) : (openWindow o s).wdtPending = s.wdtPending := by unfold openWindow; split <;> rfl
@[simp] theorem openWindow_env (o s : State) : (openWindow o s).env = s.env := by unfold openWindow; split <;> rfl
@[simp] theorem openWindow_map (o s : State) : (openWindow o s).map = s.map := by unfold openWindow; split <;> rfl
@[simp] theorem openWindow_cached (o s : State) : (openWindow o s).cached = s.cached := by unfold openWindow; split <;> rfl
@[simp] theorem openWindow_amid (o s : State) : (openWindow o s).amid = s.amid := by unfold openWindow; split <;> rfl
@[simp] theorem openWindow_teaNext (o s : State) : (openWindow o s).teaNext = s.teaNext := by unfold openWindow; split <;> rfl
@[simp] theorem openWindow_teaUnrecognised (o s : State) : (openWindow o s).teaUnrecognised = s.teaUnrecognised := by unfold openWindow; split <;> rfl
@[simp] theorem openWindow_draws (o s : State) : (openWindow o s).draws = s.draws := by unfold openWindow; split <;> rfl
@[simp] theorem openWindow_deferred (o s : State) : (openWindow o s).deferred = s.deferred := by unfold openWindow; split <;> rfl
@[simp] theorem openWindow_taken (o s : State) : (openWindow o s).taken = s.taken := by unfold openWindow; split <;> rfl

/- The stages of replaced words. -/

@[simp] theorem mapStale_cia (f : StaleWord → StalePhase) (s : State) : (mapStale f s).cia = s.cia := rfl
@[simp] theorem mapStale_gpr (f : StaleWord → StalePhase) (s : State) : (mapStale f s).gpr = s.gpr := rfl
@[simp] theorem mapStale_tgpr (f : StaleWord → StalePhase) (s : State) : (mapStale f s).tgpr = s.tgpr := rfl
@[simp] theorem mapStale_fpr (f : StaleWord → StalePhase) (s : State) : (mapStale f s).fpr = s.fpr := rfl
@[simp] theorem mapStale_sp (f : StaleWord → StalePhase) (s : State) : (mapStale f s).sp = s.sp := rfl
@[simp] theorem mapStale_lt (f : StaleWord → StalePhase) (s : State) : (mapStale f s).lt = s.lt := rfl
@[simp] theorem mapStale_cr (f : StaleWord → StalePhase) (s : State) : (mapStale f s).cr = s.cr := rfl
@[simp] theorem mapStale_xer (f : StaleWord → StalePhase) (s : State) : (mapStale f s).xer = s.xer := rfl
@[simp] theorem mapStale_lr (f : StaleWord → StalePhase) (s : State) : (mapStale f s).lr = s.lr := rfl
@[simp] theorem mapStale_ctr (f : StaleWord → StalePhase) (s : State) : (mapStale f s).ctr = s.ctr := rfl
@[simp] theorem mapStale_fpscr (f : StaleWord → StalePhase) (s : State) : (mapStale f s).fpscr = s.fpscr := rfl
@[simp] theorem mapStale_msr (f : StaleWord → StalePhase) (s : State) : (mapStale f s).msr = s.msr := rfl
@[simp] theorem mapStale_sr (f : StaleWord → StalePhase) (s : State) : (mapStale f s).sr = s.sr := rfl
@[simp] theorem mapStale_dsisr (f : StaleWord → StalePhase) (s : State) : (mapStale f s).dsisr = s.dsisr := rfl
@[simp] theorem mapStale_dar (f : StaleWord → StalePhase) (s : State) : (mapStale f s).dar = s.dar := rfl
@[simp] theorem mapStale_dec (f : StaleWord → StalePhase) (s : State) : (mapStale f s).dec = s.dec := rfl
@[simp] theorem mapStale_sdr1 (f : StaleWord → StalePhase) (s : State) : (mapStale f s).sdr1 = s.sdr1 := rfl
@[simp] theorem mapStale_srr0 (f : StaleWord → StalePhase) (s : State) : (mapStale f s).srr0 = s.srr0 := rfl
@[simp] theorem mapStale_srr1 (f : StaleWord → StalePhase) (s : State) : (mapStale f s).srr1 = s.srr1 := rfl
@[simp] theorem mapStale_sprg (f : StaleWord → StalePhase) (s : State) : (mapStale f s).sprg = s.sprg := rfl
@[simp] theorem mapStale_tb (f : StaleWord → StalePhase) (s : State) : (mapStale f s).tb = s.tb := rfl
@[simp] theorem mapStale_ibat (f : StaleWord → StalePhase) (s : State) : (mapStale f s).ibat = s.ibat := rfl
@[simp] theorem mapStale_dbat (f : StaleWord → StalePhase) (s : State) : (mapStale f s).dbat = s.dbat := rfl
@[simp] theorem mapStale_dmiss (f : StaleWord → StalePhase) (s : State) : (mapStale f s).dmiss = s.dmiss := rfl
@[simp] theorem mapStale_imiss (f : StaleWord → StalePhase) (s : State) : (mapStale f s).imiss = s.imiss := rfl
@[simp] theorem mapStale_missIsData (f : StaleWord → StalePhase) (s : State) : (mapStale f s).missIsData = s.missIsData := rfl
@[simp] theorem mapStale_rpa (f : StaleWord → StalePhase) (s : State) : (mapStale f s).rpa = s.rpa := rfl
@[simp] theorem mapStale_tcr (f : StaleWord → StalePhase) (s : State) : (mapStale f s).tcr = s.tcr := rfl
@[simp] theorem mapStale_ibr (f : StaleWord → StalePhase) (s : State) : (mapStale f s).ibr = s.ibr := rfl
@[simp] theorem mapStale_esasrr (f : StaleWord → StalePhase) (s : State) : (mapStale f s).esasrr = s.esasrr := rfl
@[simp] theorem mapStale_sebr (f : StaleWord → StalePhase) (s : State) : (mapStale f s).sebr = s.sebr := rfl
@[simp] theorem mapStale_ser (f : StaleWord → StalePhase) (s : State) : (mapStale f s).ser = s.ser := rfl
@[simp] theorem mapStale_hid0 (f : StaleWord → StalePhase) (s : State) : (mapStale f s).hid0 = s.hid0 := rfl
@[simp] theorem mapStale_iabr (f : StaleWord → StalePhase) (s : State) : (mapStale f s).iabr = s.iabr := rfl
@[simp] theorem mapStale_reserve (f : StaleWord → StalePhase) (s : State) : (mapStale f s).reserve = s.reserve := rfl
@[simp] theorem mapStale_itlb (f : StaleWord → StalePhase) (s : State) : (mapStale f s).itlb = s.itlb := rfl
@[simp] theorem mapStale_dtlb (f : StaleWord → StalePhase) (s : State) : (mapStale f s).dtlb = s.dtlb := rfl
@[simp] theorem mapStale_mem (f : StaleWord → StalePhase) (s : State) : (mapStale f s).mem = s.mem := rfl
@[simp] theorem mapStale_power (f : StaleWord → StalePhase) (s : State) : (mapStale f s).power = s.power := rfl
@[simp] theorem mapStale_powPending (f : StaleWord → StalePhase) (s : State) : (mapStale f s).powPending = s.powPending := rfl
@[simp] theorem mapStale_checkstop (f : StaleWord → StalePhase) (s : State) : (mapStale f s).checkstop = s.checkstop := rfl
@[simp] theorem mapStale_pins (f : StaleWord → StalePhase) (s : State) : (mapStale f s).pins = s.pins := rfl
@[simp] theorem mapStale_sresetPending (f : StaleWord → StalePhase) (s : State) : (mapStale f s).sresetPending = s.sresetPending := rfl
@[simp] theorem mapStale_mcheckPending (f : StaleWord → StalePhase) (s : State) : (mapStale f s).mcheckPending = s.mcheckPending := rfl
@[simp] theorem mapStale_wdtResetPending (f : StaleWord → StalePhase) (s : State) : (mapStale f s).wdtResetPending = s.wdtResetPending := rfl
@[simp] theorem mapStale_decPending (f : StaleWord → StalePhase) (s : State) : (mapStale f s).decPending = s.decPending := rfl
@[simp] theorem mapStale_wdtPending (f : StaleWord → StalePhase) (s : State) : (mapStale f s).wdtPending = s.wdtPending := rfl
@[simp] theorem mapStale_env (f : StaleWord → StalePhase) (s : State) : (mapStale f s).env = s.env := rfl
@[simp] theorem mapStale_map (f : StaleWord → StalePhase) (s : State) : (mapStale f s).map = s.map := rfl
@[simp] theorem mapStale_cached (f : StaleWord → StalePhase) (s : State) : (mapStale f s).cached = s.cached := rfl
@[simp] theorem mapStale_amid (f : StaleWord → StalePhase) (s : State) : (mapStale f s).amid = s.amid := rfl
@[simp] theorem mapStale_teaNext (f : StaleWord → StalePhase) (s : State) : (mapStale f s).teaNext = s.teaNext := rfl
@[simp] theorem mapStale_teaUnrecognised (f : StaleWord → StalePhase) (s : State) : (mapStale f s).teaUnrecognised = s.teaUnrecognised := rfl
@[simp] theorem mapStale_draws (f : StaleWord → StalePhase) (s : State) : (mapStale f s).draws = s.draws := rfl
@[simp] theorem mapStale_deferred (f : StaleWord → StalePhase) (s : State) : (mapStale f s).deferred = s.deferred := rfl
@[simp] theorem mapStale_windows (f : StaleWord → StalePhase) (s : State) : (mapStale f s).windows = s.windows := rfl
@[simp] theorem mapStale_taken (f : StaleWord → StalePhase) (s : State) : (mapStale f s).taken = s.taken := rfl

/- `dcbi` marks the records of its block. -/

@[simp] theorem markDiscarded_cia (block : Word) (s : State) : (markDiscarded block s).cia = s.cia := rfl
@[simp] theorem markDiscarded_gpr (block : Word) (s : State) : (markDiscarded block s).gpr = s.gpr := rfl
@[simp] theorem markDiscarded_tgpr (block : Word) (s : State) : (markDiscarded block s).tgpr = s.tgpr := rfl
@[simp] theorem markDiscarded_fpr (block : Word) (s : State) : (markDiscarded block s).fpr = s.fpr := rfl
@[simp] theorem markDiscarded_sp (block : Word) (s : State) : (markDiscarded block s).sp = s.sp := rfl
@[simp] theorem markDiscarded_lt (block : Word) (s : State) : (markDiscarded block s).lt = s.lt := rfl
@[simp] theorem markDiscarded_cr (block : Word) (s : State) : (markDiscarded block s).cr = s.cr := rfl
@[simp] theorem markDiscarded_xer (block : Word) (s : State) : (markDiscarded block s).xer = s.xer := rfl
@[simp] theorem markDiscarded_lr (block : Word) (s : State) : (markDiscarded block s).lr = s.lr := rfl
@[simp] theorem markDiscarded_ctr (block : Word) (s : State) : (markDiscarded block s).ctr = s.ctr := rfl
@[simp] theorem markDiscarded_fpscr (block : Word) (s : State) : (markDiscarded block s).fpscr = s.fpscr := rfl
@[simp] theorem markDiscarded_msr (block : Word) (s : State) : (markDiscarded block s).msr = s.msr := rfl
@[simp] theorem markDiscarded_sr (block : Word) (s : State) : (markDiscarded block s).sr = s.sr := rfl
@[simp] theorem markDiscarded_dsisr (block : Word) (s : State) : (markDiscarded block s).dsisr = s.dsisr := rfl
@[simp] theorem markDiscarded_dar (block : Word) (s : State) : (markDiscarded block s).dar = s.dar := rfl
@[simp] theorem markDiscarded_dec (block : Word) (s : State) : (markDiscarded block s).dec = s.dec := rfl
@[simp] theorem markDiscarded_sdr1 (block : Word) (s : State) : (markDiscarded block s).sdr1 = s.sdr1 := rfl
@[simp] theorem markDiscarded_srr0 (block : Word) (s : State) : (markDiscarded block s).srr0 = s.srr0 := rfl
@[simp] theorem markDiscarded_srr1 (block : Word) (s : State) : (markDiscarded block s).srr1 = s.srr1 := rfl
@[simp] theorem markDiscarded_sprg (block : Word) (s : State) : (markDiscarded block s).sprg = s.sprg := rfl
@[simp] theorem markDiscarded_tb (block : Word) (s : State) : (markDiscarded block s).tb = s.tb := rfl
@[simp] theorem markDiscarded_ibat (block : Word) (s : State) : (markDiscarded block s).ibat = s.ibat := rfl
@[simp] theorem markDiscarded_dbat (block : Word) (s : State) : (markDiscarded block s).dbat = s.dbat := rfl
@[simp] theorem markDiscarded_dmiss (block : Word) (s : State) : (markDiscarded block s).dmiss = s.dmiss := rfl
@[simp] theorem markDiscarded_imiss (block : Word) (s : State) : (markDiscarded block s).imiss = s.imiss := rfl
@[simp] theorem markDiscarded_missIsData (block : Word) (s : State) : (markDiscarded block s).missIsData = s.missIsData := rfl
@[simp] theorem markDiscarded_rpa (block : Word) (s : State) : (markDiscarded block s).rpa = s.rpa := rfl
@[simp] theorem markDiscarded_tcr (block : Word) (s : State) : (markDiscarded block s).tcr = s.tcr := rfl
@[simp] theorem markDiscarded_ibr (block : Word) (s : State) : (markDiscarded block s).ibr = s.ibr := rfl
@[simp] theorem markDiscarded_esasrr (block : Word) (s : State) : (markDiscarded block s).esasrr = s.esasrr := rfl
@[simp] theorem markDiscarded_sebr (block : Word) (s : State) : (markDiscarded block s).sebr = s.sebr := rfl
@[simp] theorem markDiscarded_ser (block : Word) (s : State) : (markDiscarded block s).ser = s.ser := rfl
@[simp] theorem markDiscarded_hid0 (block : Word) (s : State) : (markDiscarded block s).hid0 = s.hid0 := rfl
@[simp] theorem markDiscarded_iabr (block : Word) (s : State) : (markDiscarded block s).iabr = s.iabr := rfl
@[simp] theorem markDiscarded_reserve (block : Word) (s : State) : (markDiscarded block s).reserve = s.reserve := rfl
@[simp] theorem markDiscarded_itlb (block : Word) (s : State) : (markDiscarded block s).itlb = s.itlb := rfl
@[simp] theorem markDiscarded_dtlb (block : Word) (s : State) : (markDiscarded block s).dtlb = s.dtlb := rfl
@[simp] theorem markDiscarded_mem (block : Word) (s : State) : (markDiscarded block s).mem = s.mem := rfl
@[simp] theorem markDiscarded_power (block : Word) (s : State) : (markDiscarded block s).power = s.power := rfl
@[simp] theorem markDiscarded_powPending (block : Word) (s : State) : (markDiscarded block s).powPending = s.powPending := rfl
@[simp] theorem markDiscarded_checkstop (block : Word) (s : State) : (markDiscarded block s).checkstop = s.checkstop := rfl
@[simp] theorem markDiscarded_pins (block : Word) (s : State) : (markDiscarded block s).pins = s.pins := rfl
@[simp] theorem markDiscarded_sresetPending (block : Word) (s : State) : (markDiscarded block s).sresetPending = s.sresetPending := rfl
@[simp] theorem markDiscarded_mcheckPending (block : Word) (s : State) : (markDiscarded block s).mcheckPending = s.mcheckPending := rfl
@[simp] theorem markDiscarded_wdtResetPending (block : Word) (s : State) : (markDiscarded block s).wdtResetPending = s.wdtResetPending := rfl
@[simp] theorem markDiscarded_decPending (block : Word) (s : State) : (markDiscarded block s).decPending = s.decPending := rfl
@[simp] theorem markDiscarded_wdtPending (block : Word) (s : State) : (markDiscarded block s).wdtPending = s.wdtPending := rfl
@[simp] theorem markDiscarded_env (block : Word) (s : State) : (markDiscarded block s).env = s.env := rfl
@[simp] theorem markDiscarded_map (block : Word) (s : State) : (markDiscarded block s).map = s.map := rfl
@[simp] theorem markDiscarded_cached (block : Word) (s : State) : (markDiscarded block s).cached = s.cached := rfl
@[simp] theorem markDiscarded_amid (block : Word) (s : State) : (markDiscarded block s).amid = s.amid := rfl
@[simp] theorem markDiscarded_teaNext (block : Word) (s : State) : (markDiscarded block s).teaNext = s.teaNext := rfl
@[simp] theorem markDiscarded_teaUnrecognised (block : Word) (s : State) : (markDiscarded block s).teaUnrecognised = s.teaUnrecognised := rfl
@[simp] theorem markDiscarded_draws (block : Word) (s : State) : (markDiscarded block s).draws = s.draws := rfl
@[simp] theorem markDiscarded_deferred (block : Word) (s : State) : (markDiscarded block s).deferred = s.deferred := rfl
@[simp] theorem markDiscarded_windows (block : Word) (s : State) : (markDiscarded block s).windows = s.windows := rfl
@[simp] theorem markDiscarded_taken (block : Word) (s : State) : (markDiscarded block s).taken = s.taken := rfl

/- Taking an exception. -/

@[simp] theorem takeException_gpr (e : Exception) (a i : Word) (s : State) : (takeException e a i s).gpr = s.gpr := rfl
@[simp] theorem takeException_tgpr (e : Exception) (a i : Word) (s : State) : (takeException e a i s).tgpr = s.tgpr := rfl
@[simp] theorem takeException_fpr (e : Exception) (a i : Word) (s : State) : (takeException e a i s).fpr = s.fpr := rfl
@[simp] theorem takeException_sp (e : Exception) (a i : Word) (s : State) : (takeException e a i s).sp = s.sp := rfl
@[simp] theorem takeException_lt (e : Exception) (a i : Word) (s : State) : (takeException e a i s).lt = s.lt := rfl
@[simp] theorem takeException_cr (e : Exception) (a i : Word) (s : State) : (takeException e a i s).cr = s.cr := rfl
@[simp] theorem takeException_xer (e : Exception) (a i : Word) (s : State) : (takeException e a i s).xer = s.xer := rfl
@[simp] theorem takeException_lr (e : Exception) (a i : Word) (s : State) : (takeException e a i s).lr = s.lr := rfl
@[simp] theorem takeException_ctr (e : Exception) (a i : Word) (s : State) : (takeException e a i s).ctr = s.ctr := rfl
@[simp] theorem takeException_fpscr (e : Exception) (a i : Word) (s : State) : (takeException e a i s).fpscr = s.fpscr := rfl
@[simp] theorem takeException_sr (e : Exception) (a i : Word) (s : State) : (takeException e a i s).sr = s.sr := rfl
@[simp] theorem takeException_dsisr (e : Exception) (a i : Word) (s : State) : (takeException e a i s).dsisr = s.dsisr := rfl
@[simp] theorem takeException_dar (e : Exception) (a i : Word) (s : State) : (takeException e a i s).dar = s.dar := rfl
@[simp] theorem takeException_dec (e : Exception) (a i : Word) (s : State) : (takeException e a i s).dec = s.dec := rfl
@[simp] theorem takeException_sdr1 (e : Exception) (a i : Word) (s : State) : (takeException e a i s).sdr1 = s.sdr1 := rfl
@[simp] theorem takeException_sprg (e : Exception) (a i : Word) (s : State) : (takeException e a i s).sprg = s.sprg := rfl
@[simp] theorem takeException_tb (e : Exception) (a i : Word) (s : State) : (takeException e a i s).tb = s.tb := rfl
@[simp] theorem takeException_ibat (e : Exception) (a i : Word) (s : State) : (takeException e a i s).ibat = s.ibat := rfl
@[simp] theorem takeException_dbat (e : Exception) (a i : Word) (s : State) : (takeException e a i s).dbat = s.dbat := rfl
@[simp] theorem takeException_dmiss (e : Exception) (a i : Word) (s : State) : (takeException e a i s).dmiss = s.dmiss := rfl
@[simp] theorem takeException_imiss (e : Exception) (a i : Word) (s : State) : (takeException e a i s).imiss = s.imiss := rfl
@[simp] theorem takeException_missIsData (e : Exception) (a i : Word) (s : State) : (takeException e a i s).missIsData = s.missIsData := rfl
@[simp] theorem takeException_rpa (e : Exception) (a i : Word) (s : State) : (takeException e a i s).rpa = s.rpa := rfl
@[simp] theorem takeException_tcr (e : Exception) (a i : Word) (s : State) : (takeException e a i s).tcr = s.tcr := rfl
@[simp] theorem takeException_ibr (e : Exception) (a i : Word) (s : State) : (takeException e a i s).ibr = s.ibr := rfl
@[simp] theorem takeException_esasrr (e : Exception) (a i : Word) (s : State) : (takeException e a i s).esasrr = s.esasrr := rfl
@[simp] theorem takeException_sebr (e : Exception) (a i : Word) (s : State) : (takeException e a i s).sebr = s.sebr := rfl
@[simp] theorem takeException_ser (e : Exception) (a i : Word) (s : State) : (takeException e a i s).ser = s.ser := rfl
@[simp] theorem takeException_hid0 (e : Exception) (a i : Word) (s : State) : (takeException e a i s).hid0 = s.hid0 := rfl
@[simp] theorem takeException_iabr (e : Exception) (a i : Word) (s : State) : (takeException e a i s).iabr = s.iabr := rfl
@[simp] theorem takeException_reserve (e : Exception) (a i : Word) (s : State) : (takeException e a i s).reserve = s.reserve := rfl
@[simp] theorem takeException_itlb (e : Exception) (a i : Word) (s : State) : (takeException e a i s).itlb = s.itlb := rfl
@[simp] theorem takeException_dtlb (e : Exception) (a i : Word) (s : State) : (takeException e a i s).dtlb = s.dtlb := rfl
@[simp] theorem takeException_mem (e : Exception) (a i : Word) (s : State) : (takeException e a i s).mem = s.mem := rfl
@[simp] theorem takeException_stale (e : Exception) (a i : Word) (s : State) : (takeException e a i s).stale = s.stale := rfl
@[simp] theorem takeException_checkstop (e : Exception) (a i : Word) (s : State) : (takeException e a i s).checkstop = s.checkstop := rfl
@[simp] theorem takeException_pins (e : Exception) (a i : Word) (s : State) : (takeException e a i s).pins = s.pins := rfl
@[simp] theorem takeException_sresetPending (e : Exception) (a i : Word) (s : State) : (takeException e a i s).sresetPending = s.sresetPending := rfl
@[simp] theorem takeException_mcheckPending (e : Exception) (a i : Word) (s : State) : (takeException e a i s).mcheckPending = s.mcheckPending := rfl
@[simp] theorem takeException_wdtResetPending (e : Exception) (a i : Word) (s : State) : (takeException e a i s).wdtResetPending = s.wdtResetPending := rfl
@[simp] theorem takeException_env (e : Exception) (a i : Word) (s : State) : (takeException e a i s).env = s.env := rfl
@[simp] theorem takeException_map (e : Exception) (a i : Word) (s : State) : (takeException e a i s).map = s.map := rfl
@[simp] theorem takeException_cached (e : Exception) (a i : Word) (s : State) : (takeException e a i s).cached = s.cached := rfl
@[simp] theorem takeException_amid (e : Exception) (a i : Word) (s : State) : (takeException e a i s).amid = s.amid := rfl
@[simp] theorem takeException_teaNext (e : Exception) (a i : Word) (s : State) : (takeException e a i s).teaNext = s.teaNext := rfl
@[simp] theorem takeException_teaUnrecognised (e : Exception) (a i : Word) (s : State) : (takeException e a i s).teaUnrecognised = s.teaUnrecognised := rfl
@[simp] theorem takeException_draws (e : Exception) (a i : Word) (s : State) : (takeException e a i s).draws = s.draws := rfl

end Sys2Proof.Machine
end

