-- ==== Sys2Proof/Laws/Memory.lean ====
section
/-!
SUPPORT. The laws of memory: reading after writing, and the canonical form, which every memory operation keeps.
-/
namespace Sys2Proof.Machine

/- One byte. -/

theorem Memory.get_set_other (m : Memory) (a b : Nat) (v : Byte) (h : b ≠ a) :
    Memory.get (Memory.set m a v) b = Memory.get m b := by
  induction m with
  | nil => by_cases hv : v = unlistedByte <;> simp [Memory.set, Memory.get, hv, h]
  | cons e rest ih =>
    obtain ⟨c, w⟩ := e
    by_cases h1 : a < c
    · by_cases hv : v = unlistedByte <;> simp [Memory.set, Memory.get, h1, hv, h]
    · by_cases h2 : a = c
      · subst h2
        by_cases hv : v = unlistedByte <;> simp [Memory.set, Memory.get, hv, h]
      · simp only [Memory.set, h1, h2, if_false, Memory.get, ih]

theorem Memory.get_of_wfFrom (m : Memory) (lo a : Nat) (h : Memory.wfFrom lo m = true) (ha : a < lo) :
    Memory.get m a = unlistedByte := by
  induction m generalizing lo with
  | nil => rfl
  | cons e rest ih =>
    obtain ⟨c, w⟩ := e
    simp only [Memory.wfFrom, Bool.and_eq_true, decide_eq_true_eq] at h
    have hne : a ≠ c := by omega
    simp only [Memory.get, hne, if_false]
    exact ih (c + 1) h.2 (by omega)

theorem Memory.get_set_same (m : Memory) (lo a : Nat) (v : Byte) (h : Memory.wfFrom lo m = true) :
    Memory.get (Memory.set m a v) a = v := by
  induction m generalizing lo with
  | nil => by_cases hv : v = unlistedByte <;> simp [Memory.set, Memory.get, hv]
  | cons e rest ih =>
    obtain ⟨c, w⟩ := e
    have h' := h
    simp only [Memory.wfFrom, Bool.and_eq_true, decide_eq_true_eq] at h
    by_cases h1 : a < c
    · by_cases hv : v = unlistedByte
      · have hne : a ≠ c := by omega
        simp only [Memory.set, h1, hv, if_true, Memory.get, hne, if_false]
        exact Memory.get_of_wfFrom rest (c + 1) a h.2 (by omega)
      · simp [Memory.set, Memory.get, h1, hv]
    · by_cases h2 : a = c
      · subst h2
        by_cases hv : v = unlistedByte
        · simp only [Memory.set, lt_irrefl, if_false, hv, if_true]
          exact Memory.get_of_wfFrom rest (a + 1) a h.2 (by omega)
        · simp [Memory.set, Memory.get, hv]
      · simp only [Memory.set, h1, h2, if_false, Memory.get]
        exact ih (c + 1) h.2

theorem Memory.wfFrom_set (m : Memory) (lo a : Nat) (v : Byte) (h : Memory.wfFrom lo m = true) (hlo : lo ≤ a)
    (ha : a < 2 ^ 32) : Memory.wfFrom lo (Memory.set m a v) = true := by
  induction m generalizing lo with
  | nil => by_cases hv : v = unlistedByte <;> simp [Memory.set, Memory.wfFrom, hv]; omega
  | cons e rest ih =>
    obtain ⟨c, w⟩ := e
    have h' := h
    simp only [Memory.wfFrom, Bool.and_eq_true, decide_eq_true_eq] at h
    by_cases h1 : a < c
    · by_cases hv : v = unlistedByte
      · simpa [Memory.set, h1, hv] using h'
      · simp only [Memory.set, h1, hv, if_true, if_false, Memory.wfFrom, Bool.and_eq_true, decide_eq_true_eq, bne_iff_ne]
        exact ⟨⟨⟨hlo, ha⟩, by simpa using hv⟩, ⟨⟨by omega, h.1.1.2⟩, by simpa using h.1.2⟩, h.2⟩
    · by_cases h2 : a = c
      · subst h2
        by_cases hv : v = unlistedByte
        · simp only [Memory.set, lt_irrefl, if_false, hv, if_true]
          have : ∀ (m : Memory) (lo lo' : Nat), lo' ≤ lo → Memory.wfFrom lo m = true → Memory.wfFrom lo' m = true := by
            intro m lo lo' hle hm
            cases m with
            | nil => rfl
            | cons e r =>
              obtain ⟨d, x⟩ := e
              simp only [Memory.wfFrom, Bool.and_eq_true, decide_eq_true_eq] at hm ⊢
              exact ⟨⟨⟨by omega, hm.1.1.2⟩, hm.1.2⟩, hm.2⟩
          exact this rest (a + 1) lo (by omega) h.2
        · simp only [Memory.set, lt_irrefl, if_false, hv, if_true, Memory.wfFrom, Bool.and_eq_true, decide_eq_true_eq,
            bne_iff_ne]
          exact ⟨⟨⟨hlo, ha⟩, by simpa using hv⟩, h.2⟩
      · simp only [Memory.set, h1, h2, if_false, Memory.wfFrom, Bool.and_eq_true, decide_eq_true_eq]
        exact ⟨h.1, ih (c + 1) h.2 (by omega)⟩

theorem Memory.wf_set (m : Memory) (a : Word) (v : Byte) (h : m.wf = true) : (m.set a.toNat v).wf = true :=
  Memory.wfFrom_set m 0 a.toNat v h (Nat.zero_le _) a.isLt

/- Several bytes. -/

theorem setBytes_wf (m : Memory) (pa : Word) (bs : List Byte) (h : m.wf = true) : (setBytes m pa bs).wf = true := by
  induction bs generalizing m pa with
  | nil => exact h
  | cons b rest ih => exact ih _ _ (Memory.wf_set m pa b h)

theorem setBytes_get_other (m : Memory) (pa a : Word) (bs : List Byte)
    (h : ∀ k, k < bs.length → a ≠ pa + BitVec.ofNat 32 k) :
    (setBytes m pa bs).get a.toNat = m.get a.toNat := by
  induction bs generalizing m pa with
  | nil => rfl
  | cons b rest ih =>
    have h0 : a ≠ pa := by simpa using h 0 (by simp)
    rw [setBytes, ih]
    · exact Memory.get_set_other _ _ _ _ fun e => h0 (BitVec.eq_of_toNat_eq e)
    · intro k hk
      have := h (k + 1) (by simpa using hk)
      intro e
      exact this (by rw [e, BitVec.add_assoc]; congr 1; apply BitVec.eq_of_toNat_eq; simp [BitVec.toNat_add, BitVec.toNat_ofNat, Nat.add_comm])

theorem setBytes_get_at (m : Memory) (pa : Word) (bs : List Byte) (k : Nat) (hm : m.wf = true) (hn : bs.length ≤ 2 ^ 32)
    (hk : k < bs.length) : (setBytes m pa bs).get (pa + BitVec.ofNat 32 k).toNat = bs[k] := by
  induction bs generalizing m pa k with
  | nil => simp at hk
  | cons b rest ih =>
    cases k with
    | zero =>
      have h0 : pa + BitVec.ofNat 32 0 = pa := by simp
      rw [setBytes, h0, setBytes_get_other]
      · simpa using Memory.get_set_same m 0 pa.toNat b hm
      · intro j hj e
        simp only [List.length_cons] at hn
        have := congrArg BitVec.toNat e
        simp [BitVec.toNat_add, BitVec.toNat_ofNat] at this
        have hp := pa.isLt
        omega
    | succ j =>
      have he : pa + BitVec.ofNat 32 (j + 1) = pa + 1 + BitVec.ofNat 32 j := by
        rw [BitVec.add_assoc]; congr 1; apply BitVec.eq_of_toNat_eq
        simp [BitVec.toNat_add, BitVec.toNat_ofNat, Nat.add_comm]
      rw [setBytes, he]
      simpa using ih (m.set pa.toNat b) (pa + 1) j (Memory.wf_set m pa b hm) (by simp at hn; omega) (by simpa using hk)

/- Stores. -/

@[simp] theorem bytesBE_length (n : Nat) (v : Word) : (bytesBE n v).length = n := by simp [bytesBE]

@[simp] theorem writeAs_mem (ph : StalePhase) (s : State) (pa : Word) (n : Nat) (v : Word) :
    (writeAs ph s pa n v).mem = setBytes s.mem pa (bytesBE n v) := rfl

/-- A store writes RAM and nothing where no RAM stands (R165). -/
theorem writePhys_mem (s : State) (pa : Word) (n : Nat) (v : Word) :
    (writePhys s pa n v).mem = if s.isRam pa then setBytes s.mem pa (bytesBE n v) else s.mem := by
  unfold writePhys
  split <;> rfl

theorem writePhys_wf (s : State) (pa : Word) (n : Nat) (v : Word) (h : s.mem.wf = true) :
    (writePhys s pa n v).mem.wf = true := by
  rw [writePhys_mem]
  split
  · exact setBytes_wf _ _ _ h
  · exact h

theorem writeBus_wf (s : State) (pa : Word) (b : Byte) (h : s.mem.wf = true) : (writeBus s pa b).mem.wf = true :=
  setBytes_wf _ _ _ h

theorem writeBlock_wf (s : State) (pa : Word) (ws : List Word) (h : s.mem.wf = true) :
    (writeBlock s pa ws).mem.wf = true := by
  induction ws generalizing s pa with
  | nil => exact h
  | cons w rest ih => exact ih _ _ (writePhys_wf s pa 4 w h)

theorem writePhys_readByte_other (s : State) (pa a : Word) (n : Nat) (v : Word)
    (h : ∀ k, k < n → a ≠ pa + BitVec.ofNat 32 k) : readByte (writePhys s pa n v) a = readByte s a := by
  unfold readByte
  rw [writePhys_mem]
  split
  · exact setBytes_get_other _ _ _ _ (by simpa using h)
  · rfl

theorem writePhys_readByte_at (s : State) (pa : Word) (n : Nat) (v : Word) (k : Nat) (hr : s.isRam pa = true)
    (hm : s.mem.wf = true) (hn : n ≤ 2 ^ 32) (hk : k < n) :
    readByte (writePhys s pa n v) (pa + BitVec.ofNat 32 k) = v.extractLsb' (8 * (n - 1 - k)) 8 := by
  unfold readByte
  rw [writePhys_mem, if_pos hr]
  have := setBytes_get_at s.mem pa (bytesBE n v) k hm (by simpa using hn) (by simpa using hk)
  exact this.trans (by simp [bytesBE])

theorem writeBlock_readByte_other (s : State) (pa a : Word) (ws : List Word)
    (h : ∀ k, k < 4 * ws.length → a ≠ pa + BitVec.ofNat 32 k) : readByte (writeBlock s pa ws) a = readByte s a := by
  induction ws generalizing s pa with
  | nil => rfl
  | cons w rest ih =>
    rw [writeBlock, ih, writePhys_readByte_other]
    · exact fun k hk => h k (by simp; omega)
    · intro k hk e
      refine h (k + 4) (by simp; omega) ?_
      rw [e, BitVec.add_assoc]; congr 1; apply BitVec.eq_of_toNat_eq
      simp [BitVec.toNat_add, BitVec.toNat_ofNat, Nat.add_comm]

/- Other bus masters (R161, R202, R212). -/

theorem applyBus_wf (s : State) (e : BusEvent) (h : s.mem.wf = true) : (applyBus s e).mem.wf = true := by
  cases e with
  | claim a => simpa only [applyBus, snoopReservation, apply_ite State.mem, ite_self] using h
  | teaLoad => exact h
  | write a v =>
    simp only [applyBus, snoopReservation, busWrite]
    split_ifs <;> first | exact h | exact writeBus_wf s a v h

theorem between_wf (s : State) (h : s.mem.wf = true) : (between s).mem.wf = true := by
  unfold between
  generalize s.amid.headD [] = es
  have : ∀ (es : List BusEvent) (t : State), t.mem.wf = true → (es.foldl applyBus t).mem.wf = true := by
    intro es
    induction es with
    | nil => exact fun t ht => ht
    | cons e rest ih => exact fun t ht => ih _ (applyBus_wf t e ht)
  exact this es _ h

theorem gaps_wf (s : State) (n : Nat) (h : s.mem.wf = true) : (gaps s n).mem.wf = true := by
  induction n generalizing s with
  | zero => exact h
  | succ n ih => exact ih _ (between_wf s h)

/-- With nothing planned for the gaps, they leave the state as it is. -/
theorem gaps_of_none (s : State) (n : Nat) (h : s.amid = []) : gaps s n = s := by
  induction n with
  | zero => rfl
  | succ n ih =>
    have hb : between s = s := by
      unfold between
      rw [h]
      exact congrArg (fun a => { s with amid := a }) h.symm
    rw [gaps, hb, ih]

/-- Memory right after reset is in canonical form. -/
theorem reset_mem_wf : State.reset.mem.wf = true := rfl

end Sys2Proof.Machine
end

