-- ==== Sys2Proof/Laws/Ops.lean ====
section
/-!
SUPPORT. What the shared operations can do: guards, the general registers, the floating-point registers, taking an
exception.
-/
namespace Sys2Proof.Machine

/- Parts of an instruction. -/

@[simp] theorem proceed_ok {α : Type} (a : α) (k : α → Out) : proceed (.ok a) k = k a := rfl
@[simp] theorem proceed_error {α : Type} (o : Out) (k : α → Out) : proceed (.error o) k = o := rfl
@[simp] theorem require_true (o : Out) : require true o = .ok () := rfl
@[simp] theorem require_false (o : Out) : require false o = .error o := rfl

/-- A part that lets the instruction end in a next state either gave its value, or ended in that state itself. -/
theorem proceed_next {α : Type} {x : Try α} {k : α → Out} {t : State} (h : proceed x k = .next t) :
    (∃ a, x = .ok a ∧ k a = .next t) ∨ x = .error (.next t) := by
  cases x with
  | ok a => exact .inl ⟨a, rfl, h⟩
  | error o => exact .inr (congrArg _ h)

theorem withGprs_of_usable {s : State} {rs : List Reg} {o : Out} (h : s.gprsUsable rs = true) : withGprs s rs o = o := by
  simp [withGprs, guardGprs, h]

theorem withGprs_of_unusable {s : State} {rs : List Reg} {o : Out} (h : s.gprsUsable rs = false) :
    withGprs s rs o = .fault .tgprHighRegister := by
  simp [withGprs, guardGprs, h]

theorem withGprs_next {s t : State} {rs : List Reg} {o : Out} (h : withGprs s rs o = .next t) : o = .next t := by
  cases hu : s.gprsUsable rs with
  | true => rwa [withGprs_of_usable hu] at h
  | false => rw [withGprs_of_unusable hu] at h; cases h

theorem guardForm_true {b : Bool} {k : Unit → Out} (h : b = true) : proceed (guardForm b) k = k () := by
  simp [guardForm, h]

theorem guardForm_false {b : Bool} {k : Unit → Out} (h : b = false) :
    proceed (guardForm b) k = .fault .invalidForm := by
  simp [guardForm, h]

theorem guardSupervisor_supervisor {s : State} {k : Unit → Out} (h : s.prView = false) :
    proceed (guardSupervisor s) k = k () := by
  simp [guardSupervisor, h]

theorem guardSupervisor_user {s : State} {k : Unit → Out} (h : s.prView = true) :
    proceed (guardSupervisor s) k = raisePrivileged s := by
  simp [guardSupervisor, h]

theorem guardFp_on {s : State} {k : Unit → Out} (h : s.msrBit msrFP = true) : proceed (guardFp s) k = k () := by
  simp [guardFp, h]

theorem guardFp_off {s : State} {k : Unit → Out} (h : s.msrBit msrFP = false) :
    proceed (guardFp s) k = raise .fpUnavailable 0 s := by
  simp [guardFp, h]

@[simp] theorem advance_next (s : State) : advance s = .next { s with cia := s.cia + 4 } := rfl

/- General registers (spec/10_state.md R40, R41). -/

@[simp] theorem usesTgpr_writeGpr (s : State) (r q : Reg) (v : Word) : (s.writeGpr r v).usesTgpr q = s.usesTgpr q := by
  simp [State.usesTgpr, State.msrBit]

theorem lt_four_of_usesTgpr {s : State} {r : Reg} (h : s.usesTgpr r = true) : r.toNat < 4 := by
  have h' : s.msrBit msrTGPR = true ∧ r < 4 := by simpa [State.usesTgpr] using h
  exact BitVec.lt_def.mp h'.2

theorem readGpr_writeGpr_same (s : State) (r : Reg) (v : Word) : (s.writeGpr r v).readGpr r = v := by
  unfold State.readGpr
  rw [usesTgpr_writeGpr]
  by_cases h : s.usesTgpr r = true
  · simp [State.writeGpr, h, Vector.get_eq_getElem]
  · simp [State.writeGpr, h, Vector.get_eq_getElem]

theorem readGpr_writeGpr_other (s : State) (r q : Reg) (v : Word) (h : q ≠ r) :
    (s.writeGpr r v).readGpr q = s.readGpr q := by
  have hne : q.toNat ≠ r.toNat := fun e => h (BitVec.eq_of_toNat_eq e)
  unfold State.readGpr
  rw [usesTgpr_writeGpr]
  by_cases hr : s.usesTgpr r = true
  · by_cases hq : s.usesTgpr q = true
    · have h4r : r.toNat < 4 := lt_four_of_usesTgpr hr
      have h4q : q.toNat < 4 := lt_four_of_usesTgpr hq
      simp only [State.writeGpr, hr, hq, if_true, Vector.get_eq_getElem]
      rw [Vector.getElem_set_ne]
      rw [Nat.mod_eq_of_lt h4r, Nat.mod_eq_of_lt h4q]
      exact Ne.symm hne
    · simp [State.writeGpr, hr, hq]
  · by_cases hq : s.usesTgpr q = true
    · simp [State.writeGpr, hr, hq]
    · simp only [State.writeGpr, hr, hq, Vector.get_eq_getElem]
      simp only [Bool.false_eq_true, if_false]
      rw [Vector.getElem_set_ne]
      simpa using Ne.symm hne

theorem readGpr_of_eq {s t : State} (hg : t.gpr = s.gpr) (ht : t.tgpr = s.tgpr) (hm : t.msr = s.msr) (r : Reg) :
    t.readGpr r = s.readGpr r := by
  simp [State.readGpr, State.usesTgpr, State.msrBit, hg, ht, hm]

/- Floating-point registers (R43, R44). -/

theorem ibmBit_setIbmBit_same (w : Word) (k : Nat) (b : Bool) (h : k < 32) : ibmBit (setIbmBit w k b) k = b := by
  unfold ibmBit setIbmBit
  have h1 : 31 - k < 32 := by omega
  have h2 : (2147483648#32).getLsbD (k + (31 - k)) = true := by rw [Nat.add_sub_cancel' (by omega)]; rfl
  cases b <;> simp [h1, h2]

theorem ibmBit_setIbmBit_other (w : Word) (k j : Nat) (b : Bool) (hj : j < 32) (hne : j ≠ k) :
    ibmBit (setIbmBit w k b) j = ibmBit w j := by
  unfold ibmBit setIbmBit
  have h1 : 31 - j < 32 := by omega
  have h2 : (2147483648#32).getLsbD (k + (31 - j)) = false := by
    have hs : (2147483648#32) = BitVec.twoPow 32 31 := by decide
    rw [hs, BitVec.getLsbD_twoPow]
    simp; omega
  cases b <;> simp [h1, h2]

theorem fprData_writeFpr_same (s : State) (r : Reg) (v : Word) (b : Bool) : (s.writeFpr r v b).fprData r = v := by
  simp [State.fprData, State.writeFpr, Vector.get_eq_getElem]

theorem fprData_writeFpr_other (s : State) (r q : Reg) (v : Word) (b : Bool) (h : q ≠ r) :
    (s.writeFpr r v b).fprData q = s.fprData q := by
  have hne : r.toNat ≠ q.toNat := fun e => h (BitVec.eq_of_toNat_eq e.symm)
  simp [State.fprData, State.writeFpr, Vector.get_eq_getElem, Vector.getElem_set_ne, hne]

theorem spTag_writeFpr_same (s : State) (r : Reg) (v : Word) (b : Bool) : (s.writeFpr r v b).spTag r = b :=
  ibmBit_setIbmBit_same _ _ _ r.isLt

theorem ltTag_writeFpr_same (s : State) (r : Reg) (v : Word) (b : Bool) : (s.writeFpr r v b).ltTag r = !b :=
  ibmBit_setIbmBit_same _ _ _ r.isLt

theorem spTag_writeFpr_other (s : State) (r q : Reg) (v : Word) (b : Bool) (h : q ≠ r) :
    (s.writeFpr r v b).spTag q = s.spTag q :=
  ibmBit_setIbmBit_other _ _ _ _ q.isLt fun e => h (BitVec.eq_of_toNat_eq e)

theorem ltTag_writeFpr_other (s : State) (r q : Reg) (v : Word) (b : Bool) (h : q ≠ r) :
    (s.writeFpr r v b).ltTag q = s.ltTag q :=
  ibmBit_setIbmBit_other _ _ _ _ q.isLt fun e => h (BitVec.eq_of_toNat_eq e)

/- Context (spec/70_reset_and_hazards.md R841). -/

/-- With no old context possible, an instruction sees the context as it stands. -/
theorem view_of_no_window {α : Type} [DecidableEq α] (s : State) (site : UndefSite) (f : SyncCtx → α)
    (h : s.windows = []) : s.view site f = f s.ctx := by simp [State.view, h]

/- Taking an exception (spec/60_exceptions.md R740 to R745). -/

@[simp] theorem takeException_srr0 (e : Exception) (a i : Word) (s : State) : (takeException e a i s).srr0 = a := rfl
@[simp] theorem takeException_srr1 (e : Exception) (a i : Word) (s : State) :
    (takeException e a i s).srr1 = entrySrr1 e s.msr i := rfl
@[simp] theorem takeException_msr (e : Exception) (a i : Word) (s : State) :
    (takeException e a i s).msr = entryMsr e s.msr := rfl
@[simp] theorem takeException_cia (e : Exception) (a i : Word) (s : State) :
    (takeException e a i s).cia = vectorAddress e s.ipView s.ibr := rfl
@[simp] theorem takeException_power (e : Exception) (a i : Word) (s : State) : (takeException e a i s).power = .full := rfl
@[simp] theorem takeException_windows (e : Exception) (a i : Word) (s : State) : (takeException e a i s).windows = [] := rfl
@[simp] theorem takeException_taken (e : Exception) (a i : Word) (s : State) : (takeException e a i s).taken = some e := rfl

end Sys2Proof.Machine
end

