-- ==== Sys2Proof/Laws/Flags.lean ====
section
/-!
SUPPORT. What the flag computations leave: the bits of CR fields and of XER, and sums, carries and overflows as integers.
-/
namespace Sys2Proof.Machine

/- Bits of a word. -/

theorem word_eq_of_ibmBits {v w : Word} (h : ∀ k, k < 32 → ibmBit v k = ibmBit w k) : v = w := by
  apply BitVec.eq_of_getLsbD_eq
  intro i hi
  have := h (31 - i) (by omega)
  unfold ibmBit at this
  rwa [show 31 - (31 - i) = i by omega] at this

theorem topFour_getLsbD (i : Nat) : (4026531840#32).getLsbD i = decide (28 ≤ i ∧ i < 32) := by
  by_cases h : i < 32
  · revert h; revert i; decide
  · rw [BitVec.getLsbD_of_ge _ _ (by omega)]; simp; omega

/-- The bits of a word whose 4-bit field was replaced. -/
theorem ibmBit_setField4 (w : Word) (n : BitVec 3) (v : BitVec 4) (k : Nat) (hk : k < 32) :
    ibmBit (setField4 w n v) k = if k / 4 = n.toNat then v.getLsbD (3 - k % 4) else ibmBit w k := by
  have hn := n.isLt
  generalize hm : n.toNat = m at *
  have h31 : 31 - k < 32 := by omega
  unfold ibmBit setField4 merge
  simp only [hm, BitVec.getLsbD_or, BitVec.getLsbD_and, BitVec.getLsbD_not, BitVec.getLsbD_ushiftRight, topFour_getLsbD,
    BitVec.getLsbD_append, h31, decide_true, Bool.true_and]
  by_cases h : k / 4 = m
  · have h1 : 28 ≤ 4 * m + (31 - k) ∧ 4 * m + (31 - k) < 32 := by omega
    have h2 : ¬ 4 * m + (31 - k) < 28 := by omega
    have h3 : 4 * m + (31 - k) - 28 = 3 - k % 4 := by omega
    simp [h, h1, h2, h3]
  · have h1 : ¬ (28 ≤ 4 * m + (31 - k) ∧ 4 * m + (31 - k) < 32) := by omega
    simp [h, h1]

theorem crBits_getLsbD (b0 b1 b2 b3 : Bool) :
    (crBits b0 b1 b2 b3).getLsbD 3 = b0 ∧ (crBits b0 b1 b2 b3).getLsbD 2 = b1 ∧ (crBits b0 b1 b2 b3).getLsbD 1 = b2 ∧
      (crBits b0 b1 b2 b3).getLsbD 0 = b3 := by
  cases b0 <;> cases b1 <;> cases b2 <;> cases b3 <;> decide

/-- A CR field written with four bits. -/
theorem crFieldIs_setCrField (s : State) (n : BitVec 3) (b0 b1 b2 b3 : Bool) :
    CrFieldIs n b0 b1 b2 b3 s (setCrField s n (crBits b0 b1 b2 b3)) := by
  have hn := n.isLt
  obtain ⟨h0, h1, h2, h3⟩ := crBits_getLsbD b0 b1 b2 b3
  have d (j : Nat) (hj : j < 4) : (4 * n.toNat + j) / 4 = n.toNat ∧ (4 * n.toNat + j) % 4 = j := by omega
  refine ⟨?_, ?_, ?_, ?_, ?_⟩
  · have := d 0 (by omega)
    simp only [Nat.add_zero] at this
    simp only [setCrField, ibmBit_setField4 _ _ _ (4 * n.toNat) (by omega), this, if_true]; simpa using h0
  · simp only [setCrField, ibmBit_setField4 _ _ _ (4 * n.toNat + 1) (by omega), d 1 (by omega), if_true]; simpa using h1
  · simp only [setCrField, ibmBit_setField4 _ _ _ (4 * n.toNat + 2) (by omega), d 2 (by omega), if_true]; simpa using h2
  · simp only [setCrField, ibmBit_setField4 _ _ _ (4 * n.toNat + 3) (by omega), d 3 (by omega), if_true]; simpa using h3
  · intro k hk hne
    simp [setCrField, ibmBit_setField4 _ _ _ k hk, hne]

/-- A comparison of an integer with zero. -/
theorem compareZero_eq (r : Word) (so : Bool) :
    compareZero r so = crBits (decide (r.toInt < 0)) (decide (0 < r.toInt)) (decide (r = 0)) so := by
  simp [compareZero, BitVec.slt, BitVec.toInt_zero]; rfl

theorem recordCr0_after (rc : Bool) (r : Word) (s : State) : CrAfter rc r s (recordCr0 rc r s) := by
  cases rc with
  | false => exact rfl
  | true =>
    have h := crFieldIs_setCrField s 0 (decide (r.toInt < 0)) (decide (0 < r.toInt)) (decide (r = 0)) (xerSO s.xer)
    rw [← compareZero_eq] at h
    obtain ⟨h0, h1, h2, h3, h4⟩ := h
    exact ⟨h0, h1, h2, h3, fun k hk hk' => h4 k hk' (by simp; omega)⟩

/- XER. -/

theorem withOverflow_after (oe ov : Bool) (s : State) :
    XerAfter (if oe then some ov else none) none s (withOverflow oe ov s) := by
  cases oe with
  | false => exact ⟨by simp [withOverflow], rfl, rfl, fun _ _ _ => rfl⟩
  | true =>
    refine ⟨?_, ?_, ?_, ?_⟩
    · simp [withOverflow, ibmBit_setIbmBit_same _ 0 _ (by omega : 0 < 32)]; rfl
    · simp [withOverflow, ibmBit_setIbmBit_other _ 0 1 _ (by omega), ibmBit_setIbmBit_same _ 1 _ (by omega : 1 < 32)]
    · simp [withOverflow, ibmBit_setIbmBit_other _ 0 2 _ (by omega), ibmBit_setIbmBit_other _ 1 2 _ (by omega)]
    · intro k hk hk'
      simp [withOverflow, ibmBit_setIbmBit_other _ 0 k _ hk' (by omega), ibmBit_setIbmBit_other _ 1 k _ hk' (by omega)]

theorem withCarry_after (ca : Bool) (s : State) : XerAfter none (some ca) s (withCarry s ca) := by
  refine ⟨?_, ?_, ?_, ?_⟩
  · simp [withCarry, ibmBit_setIbmBit_other _ 2 0 _ (by omega)]
  · simp [withCarry, ibmBit_setIbmBit_other _ 2 1 _ (by omega)]
  · simp [withCarry, ibmBit_setIbmBit_same _ 2 _ (by omega : 2 < 32)]
  · intro k hk hk'
    simp [withCarry, ibmBit_setIbmBit_other _ 2 k _ hk' (by omega)]

theorem withOverflow_withCarry_after (oe ov ca : Bool) (s : State) :
    XerAfter (if oe then some ov else none) (some ca) s (withOverflow oe ov (withCarry s ca)) := by
  obtain ⟨a0, a1, a2, a3⟩ := withCarry_after ca s
  obtain ⟨b0, b1, b2, b3⟩ := withOverflow_after oe ov (withCarry s ca)
  refine ⟨?_, ?_, ?_, ?_⟩
  · rw [b0, a0]; cases oe <;> simp
  · rw [b1, a1]; cases oe <;> simp
  · rw [b2, a2]; simp
  · intro k hk hk'; rw [b3 k hk hk', a3 k hk hk']

theorem xer_unchanged (s t : State) (h : t.xer = s.xer) : XerAfter none none s t :=
  ⟨by simp [h], by simp [h], by simp [h], fun _ _ _ => by rw [h]⟩

/- Sums (spec/40_integer_arithmetic_compare.md R300). -/

/-- The 32-bit sum is the sum of the signed operands, narrowed. -/
theorem addWords_eq (x y : Word) (c : Bool) : addWords x y c = BitVec.ofInt 32 (x.toInt + y.toInt + c.toNat) := by
  have hc : (BitVec.ofBool c).setWidth 32 = BitVec.ofInt 32 (c.toNat : Int) := by cases c <;> rfl
  rw [addWords, hc, BitVec.ofInt_add, BitVec.ofInt_add, BitVec.ofInt_toInt, BitVec.ofInt_toInt]

/-- The overflow of a sum: the sum of the signed operands is no signed 32-bit integer. -/
theorem overflowOf_eq (x y : Word) (c : Bool) : overflowOf x y c = outside32 (x.toInt + y.toInt + c.toNat) := by
  have hs : (addWords x y c).toNat = (x.toNat + y.toNat + c.toNat) % 2 ^ 32 := by
    cases c <;> simp [addWords, BitVec.toNat_add]
  have hx := x.isLt
  have hy := y.isLt
  have hc : c.toNat ≤ 1 := Bool.toNat_le c
  unfold overflowOf outside32
  simp only [BitVec.msb_eq_decide, BitVec.toInt_eq_toNat_cond, hs]
  clear hs
  rw [Bool.eq_iff_iff]
  simp only [Bool.and_eq_true, beq_iff_eq, bne_iff_ne, ne_eq, Bool.or_eq_true, decide_eq_true_eq, decide_eq_decide]
  split <;> split <;> omega

/-- The complement of a word as a signed integer. -/
theorem toInt_not_eq (x : Word) : (~~~x).toInt = -x.toInt - 1 := by
  have hx := x.isLt
  rw [BitVec.toInt_eq_toNat_cond, BitVec.toInt_eq_toNat_cond, BitVec.toNat_not]
  split <;> split <;> omega

theorem toNat_not_eq (x : Word) : (~~~x).toNat = 2 ^ 32 - 1 - x.toNat := by simp

end Sys2Proof.Machine
end

