-- ==== Sys2Proof/Laws/Integer.lean ====
section
/-!
SUPPORT. What the last steps shared by the integer instructions leave.
-/
namespace Sys2Proof.Machine

/-- What `Computes` says of an outcome. -/
def ComputesTo (o : Out) (s : State) (rD : Reg) (v : Word) (rc : Bool) (ov ca : Option Bool) : Prop :=
  ∃ t, o = .next t ∧ t.readGpr rD = v ∧ t.cia = s.cia + 4 ∧ CrAfter rc v s t ∧ XerAfter ov ca s t ∧ OnlyInteger rD s t

/-- The last steps of an integer instruction, in a state that has the result in rD and XER as said. -/
theorem finishInt_computes {s u : State} (rc : Bool) (rD : Reg) (v : Word) (ov ca : Option Bool)
    (hg : u.gpr = (s.writeGpr rD v).gpr) (ht : u.tgpr = (s.writeGpr rD v).tgpr)
    (hrest : u = { s with gpr := u.gpr, tgpr := u.tgpr, xer := u.xer }) (hx : XerAfter ov ca s u) :
    ComputesTo (finishInt rc rD v u) s rD v rc ov ca := by
  have hm : u.msr = s.msr := by rw [hrest]
  have hcr : u.cr = s.cr := by rw [hrest]
  have hcia : u.cia = s.cia := by rw [hrest]
  have hmem : u.mem = s.mem := by rw [hrest]
  have hread (q : Reg) : (recordCr0 rc v u).readGpr q = (s.writeGpr rD v).readGpr q :=
    readGpr_of_eq (by simpa using hg) (by simpa using ht) (by simpa using hm) q
  have hrD : (recordCr0 rc v u).readGpr rD = v := by rw [hread, readGpr_writeGpr_same]
  refine ⟨{ recordCr0 rc v u with cia := (recordCr0 rc v u).cia + 4 }, rfl, hrD, ?_, ?_, ?_, ?_, ?_, ?_, ?_⟩
  · show (recordCr0 rc v u).cia + 4 = s.cia + 4
    simp [hcia]
  · have := recordCr0_after rc v u
    unfold CrAfter at this ⊢
    simpa [hcr] using this
  · simpa [XerAfter] using hx
  · intro r hr
    exact (hread r).trans (readGpr_writeGpr_other s rD r v hr)
  · have e : ({ recordCr0 rc v u with cia := (recordCr0 rc v u).cia + 4 } : State).readGpr rD = v := hrD
    rw [e]
    exact ⟨by simpa using hg, by simpa using ht⟩
  · intro a
    simp [readByte, hmem]
  · apply State.ext <;> first | rfl | (simp; done) | (simp; rw [hrest])

/-- A sum into rD (R300). -/
theorem sumInto_computes (carry oe rc : Bool) (rD : Reg) (x y : Word) (c : Bool) (s : State) :
    ComputesTo (sumInto carry oe rc rD x y c s) s rD (BitVec.ofInt 32 (x.toInt + y.toInt + c.toNat)) rc
      (if oe then some (outside32 (x.toInt + y.toInt + c.toNat)) else none)
      (if carry then some (decide (2 ^ 32 ≤ x.toNat + y.toNat + c.toNat)) else none) := by
  rw [← addWords_eq, ← overflowOf_eq]
  unfold sumInto
  cases carry with
  | false =>
    refine finishInt_computes _ _ _ _ _ (by simp) (by simp) ?_ ?_
    · simp only [Bool.false_eq_true, if_false]; unfold withOverflow State.writeGpr; split <;> split <;> rfl
    · simpa [XerAfter] using withOverflow_after oe (overflowOf x y c) (s.writeGpr rD (addWords x y c))
  | true =>
    refine finishInt_computes _ _ _ _ _ (by simp) (by simp) ?_ ?_
    · simp only [if_true]; unfold withOverflow withCarry State.writeGpr; split <;> split <;> rfl
    · simpa [XerAfter, carryOf] using
        withOverflow_withCarry_after oe (overflowOf x y c) (carryOf x y c) (s.writeGpr rD (addWords x y c))

/-- A result written to rD with CR0 recorded. -/
theorem resultInto_computes (rc : Bool) (rA : Reg) (v : Word) (s : State) :
    ComputesTo (resultInto rc rA v s) s rA v rc none none :=
  finishInt_computes (u := s.writeGpr rA v) _ _ _ _ _ rfl rfl (by unfold State.writeGpr; split <;> rfl) (xer_unchanged _ _ (by simp))

/-- A result written to rD without a record. -/
theorem writeAdvance_computes (rD : Reg) (v : Word) (s : State) :
    ComputesTo (advance (s.writeGpr rD v)) s rD v false none none :=
  finishInt_computes (u := s.writeGpr rD v) false _ _ _ _ rfl rfl (by unfold State.writeGpr; split <;> rfl) (xer_unchanged _ _ (by simp))

/-- A result written to rD with OV and SO as said. -/
theorem resultOverflow_computes (oe rc : Bool) (rD : Reg) (v : Word) (ov : Bool) (s : State) :
    ComputesTo (finishInt rc rD v (withOverflow oe ov (s.writeGpr rD v))) s rD v rc (if oe then some ov else none) none := by
  refine finishInt_computes _ _ _ _ _ (by simp) (by simp) ?_ ?_
  · unfold withOverflow State.writeGpr; split <;> split <;> rfl
  · simpa [XerAfter] using withOverflow_after oe ov (s.writeGpr rD v)

/-- A result written to rD with CA as said. -/
theorem resultCarry_computes (rc : Bool) (rD : Reg) (v : Word) (ca : Bool) (s : State) :
    ComputesTo (finishInt rc rD v (withCarry (s.writeGpr rD v) ca)) s rD v rc none (some ca) :=
  finishInt_computes (u := withCarry (s.writeGpr rD v) ca) _ _ _ _ _ rfl rfl (by unfold withCarry State.writeGpr; split <;> rfl)
    (by simpa [XerAfter] using withCarry_after ca (s.writeGpr rD v))

end Sys2Proof.Machine
end

