-- ==== Sys2Proof/Laws/Access.lean ====
section
/-!
SUPPORT. What a data access can do: translation, loads and stores, which leave everything but memory, what follows it, the
TEA conditions, the reservation and the gaps as it is.
-/
namespace Sys2Proof.Machine

/- Parts of an access. -/

@[simp] theorem orStop_ok {α : Type} (s : State) (a : α) : orStop s (.ok a) = .ok a := rfl
@[simp] theorem orStop_error {α : Type} (s : State) (e : AccessStop) :
    orStop (α := α) s (.error e) = .error (e.outcome s) := rfl

theorem guardBigEndian_big {s : State} {w : Word} {rAKnown bad : Bool} {ea : Word} {k : Unit → Out}
    (h : s.leView = false) : proceed (guardBigEndian s w rAKnown bad ea) k = k () := by
  simp [guardBigEndian, h]

theorem guardWordAligned_aligned {s : State} {w : Word} {rAKnown : Bool} {ea : Word} {k : Unit → Out}
    (h : ea.extractLsb' 0 2 = 0) : proceed (guardWordAligned s w rAKnown ea) k = k () := by
  simp [guardWordAligned, h]

theorem isAligned_iff (ea : Word) (n : Nat) : isAligned ea n = true ↔ ea.toNat % n = 0 := by simp [isAligned]

/- Translation (spec/20_memory.md R170). -/

/-- In real mode an address is physical. -/
theorem translateData_real {s : State} (h : s.msrBit msrDR = false) (ea : Word) (store : Bool) :
    translateData s ea store = .ok ea := by
  simp [translateData, dataMapping, checkMapping, h]

/-- A mapping that passes its checks allows the access and gives its address. -/
theorem checkMapping_ok {ea pa : Word} {store : Bool} {m : Mapping} (h : checkMapping ea store m = .ok pa) :
    pa = m.pa ∧ m.denied = false ∧ m.needsChange = false := by
  unfold checkMapping at h
  split_ifs at h with hd hc
  exact ⟨(Except.ok.inj h).symm, by simpa using hd, by simpa using hc⟩

/-- A translation that succeeds comes from a mapping that allows the access. -/
theorem translateData_ok {s : State} {ea pa : Word} {store : Bool} (h : translateData s ea store = .ok pa) :
    ∃ m, dataMapping s ea store = .ok m ∧ pa = m.pa ∧ m.denied = false ∧ m.needsChange = false := by
  unfold translateData at h
  split at h
  · next m hm => exact ⟨m, hm, checkMapping_ok h⟩
  · cases h

/- What an access may change besides its result. -/

/-- `t` is `s` but for memory, the records beside it, the TEA conditions, the gaps and the reservation, which can only end;
its memory is in canonical form where that of `s` is. -/
def MemorySide (s t : State) : Prop :=
  (∃ m c l n u a r, t = { s with
    mem := m, cached := c, stale := l, teaNext := n, teaUnrecognised := u, amid := a, reserve := r }) ∧
  (s.mem.wf = true → t.mem.wf = true) ∧ (t.reserve = s.reserve ∨ t.reserve = none)

theorem MemorySide.refl (s : State) : MemorySide s s := ⟨⟨_, _, _, _, _, _, _, rfl⟩, id, .inl rfl⟩

theorem MemorySide.trans {s t u : State} (h : MemorySide s t) (h' : MemorySide t u) : MemorySide s u := by
  obtain ⟨⟨m, c, l, n, v, a, r, rfl⟩, hw, hr⟩ := h
  obtain ⟨⟨m', c', l', n', v', a', r', rfl⟩, hw', hr'⟩ := h'
  refine ⟨⟨m', c', l', n', v', a', r', rfl⟩, fun hs => hw' (hw hs), ?_⟩
  rcases hr' with h1 | h1
  · exact hr.imp h1.trans h1.trans
  · exact .inr h1

/-- Where an access goes does not depend on what an access may change. -/
theorem MemorySide.translateData {s t : State} (h : MemorySide s t) (ea : Word) (store : Bool) :
    Machine.translateData t ea store = Machine.translateData s ea store := by
  obtain ⟨⟨m, c, l, n, u, a, r, rfl⟩, -⟩ := h
  rfl

/-- An access leaves the general registers, MSR and CIA as they are. -/
theorem MemorySide.registers {s t : State} (h : MemorySide s t) :
    t.gpr = s.gpr ∧ t.tgpr = s.tgpr ∧ t.msr = s.msr ∧ t.cia = s.cia ∧ t.map = s.map := by
  obtain ⟨⟨m, c, l, n, u, a, r, rfl⟩, -⟩ := h
  exact ⟨rfl, rfl, rfl, rfl, rfl⟩

theorem writePhys_memorySide (s : State) (pa : Word) (n : Nat) (v : Word) : MemorySide s (writePhys s pa n v) := by
  refine ⟨?_, writePhys_wf s pa n v, .inl (by simp)⟩
  unfold writePhys
  split <;> exact ⟨_, _, _, _, _, _, _, rfl⟩

theorem loadedAt_memorySide (s : State) (pa : Word) : MemorySide s (loadedAt s pa) :=
  ⟨⟨_, _, _, _, _, _, _, rfl⟩, id, .inl rfl⟩

theorem applyBus_reserve (s : State) (e : BusEvent) :
    (applyBus s e).reserve = s.reserve ∨ (applyBus s e).reserve = none := by
  cases e with
  | teaLoad => exact .inl rfl
  | _ =>
    simp only [applyBus, snoopReservation, busWrite]
    split_ifs <;> first | exact .inl rfl | exact .inr rfl

theorem applyBus_memorySide (s : State) (e : BusEvent) : MemorySide s (applyBus s e) := by
  refine ⟨?_, applyBus_wf s e, applyBus_reserve s e⟩
  obtain ⟨m, l, c, r, n, h⟩ := applyBus_frame s e
  exact ⟨m, c, l, n, _, _, r, h⟩

theorem between_memorySide (s : State) : MemorySide s (between s) := by
  have hf : ∀ (es : List BusEvent) (t : State), MemorySide t (es.foldl applyBus t) := by
    intro es
    induction es with
    | nil => exact .refl
    | cons e rest ih => exact fun t => (applyBus_memorySide t e).trans (ih _)
  exact .trans ⟨⟨_, _, _, _, _, _, _, rfl⟩, id, .inl rfl⟩ (hf _ { s with amid := s.amid.tail })

theorem gaps_memorySide (s : State) (n : Nat) : MemorySide s (gaps s n) := by
  induction n generalizing s with
  | zero => exact .refl s
  | succ n ih => exact (between_memorySide s).trans (ih _)

/- Loads (R150, R156). -/

/-- The parts of an access do not move with what an access may change. -/
theorem MemorySide.partAddresses {s t : State} (h : MemorySide s t) (ea : Word) (size : Nat) (store : Bool) (n : Nat) :
    Machine.partAddresses t ea size store n = Machine.partAddresses s ea size store n := by
  induction n generalizing ea with
  | zero => rfl
  | succ n ih => simp only [Machine.partAddresses, h.translateData, ih]

/-- The first part of an access that goes on, and the others. -/
theorem partAddresses_ok {s : State} {ea pa : Word} {store : Bool} (size n : Nat)
    (h : translateData s ea store = .ok pa) :
    partAddresses s ea size store (n + 1) =
      (pa :: (partAddresses s (ea + BitVec.ofNat 32 size) size store n).1,
        (partAddresses s (ea + BitVec.ofNat 32 size) size store n).2) := by
  simp [partAddresses, h]

/-- The first part of an access that stops. -/
theorem partAddresses_error {s : State} {ea : Word} {store : Bool} {e : AccessStop} (size n : Nat)
    (h : translateData s ea store = .error e) : partAddresses s ea size store (n + 1) = ([], some e) := by
  simp [partAddresses, h]

theorem partAddress_succ (ea : Word) (size k : Nat) :
    ea + BitVec.ofNat 32 (size * (k + 1)) = ea + BitVec.ofNat 32 size + BitVec.ofNat 32 (size * k) := by
  rw [Nat.mul_succ, Nat.add_comm, BitVec.ofNat_add, BitVec.add_assoc]

/-- Either every part translates, or the access stops before the last. -/
theorem partAddresses_length (s : State) (ea : Word) (size : Nat) (store : Bool) (n : Nat) :
    (partAddresses s ea size store n).1.length ≤ n ∧
    ((partAddresses s ea size store n).2 = none → (partAddresses s ea size store n).1.length = n) := by
  induction n generalizing ea with
  | zero => exact ⟨Nat.le_refl 0, fun _ => rfl⟩
  | succ n ih =>
    cases h : translateData s ea store with
    | error e => simp [partAddresses_error size n h]
    | ok pa => simpa [partAddresses_ok size n h] using ih _

/-- Each part goes where its own address translates to. -/
theorem partAddresses_get (s : State) (ea : Word) (size : Nat) (store : Bool) (n k : Nat) (pa : Word)
    (hk : (partAddresses s ea size store n).1[k]? = some pa) :
    translateData s (ea + BitVec.ofNat 32 (size * k)) store = .ok pa := by
  induction n generalizing ea k with
  | zero => simp [partAddresses] at hk
  | succ n ih =>
    cases h : translateData s ea store with
    | error e => simp [partAddresses_error size n h] at hk
    | ok pa0 =>
      rw [partAddresses_ok size n h] at hk
      cases k with
      | zero =>
        cases Option.some.inj hk
        simpa using h
      | succ k =>
        rw [partAddress_succ]
        exact ih _ k hk

/-- An access that stops does so at the first part that does not translate. -/
theorem partAddresses_stop (s : State) (ea : Word) (size : Nat) (store : Bool) (n : Nat) (e : AccessStop)
    (hs : (partAddresses s ea size store n).2 = some e) :
    translateData s (ea + BitVec.ofNat 32 (size * (partAddresses s ea size store n).1.length)) store = .error e := by
  induction n generalizing ea with
  | zero => cases hs
  | succ n ih =>
    cases h : translateData s ea store with
    | error e' =>
      rw [partAddresses_error size n h] at hs ⊢
      cases Option.some.inj hs
      simpa using h
    | ok pa =>
      rw [partAddresses_ok size n h] at hs ⊢
      rw [List.length_cons, partAddress_succ]
      exact ih _ hs

@[simp] theorem freeParts_length (s : State) (ea : Word) (size n : Nat) : (freeParts s ea size n).length = n := by
  simp [freeParts]

@[simp] theorem loadParts_length (s : State) (ea : Word) (size : Nat) (pas : List Word) :
    (loadParts s ea size pas).words.length = pas.length := by
  induction pas generalizing s ea with
  | nil => rfl
  | cons pa rest ih => simp [loadParts, ih]

@[simp] theorem loadAt_length (s : State) (ea : Word) (size : Nat) (pas : List Word) :
    (loadAt s ea size pas).1.length = pas.length := by
  simp only [loadAt]
  split <;> simp

/-- A load of one part. -/
theorem loadAt_single (s : State) (ea pa : Word) (size : Nat) :
    loadAt s ea size [pa] =
      (if loadTea s pa then freeParts s ea size 1 else [loadPhys s ea pa size], loadedAt s pa) := by
  simp [loadAt, loadParts]

theorem loadParts_memorySide (s : State) (ea : Word) (size : Nat) (pas : List Word) :
    MemorySide s (loadParts s ea size pas).reached := by
  induction pas generalizing s ea with
  | nil => exact .refl s
  | cons pa rest ih =>
    refine MemorySide.trans ?_ (ih _ _)
    split
    · exact loadedAt_memorySide s pa
    · exact (loadedAt_memorySide s pa).trans (between_memorySide _)

theorem loadAt_memorySide (s : State) (ea : Word) (size : Nat) (pas : List Word) :
    MemorySide s (loadAt s ea size pas).2 := loadParts_memorySide s ea size pas

theorem loadRun_memorySide (s : State) (ea : Word) (size n : Nat) : MemorySide s (loadRun s ea size n).reached :=
  loadAt_memorySide s ea size _

theorem loadRun_length (s : State) (ea : Word) (size n : Nat) :
    (loadRun s ea size n).words.length ≤ n ∧
    ((loadRun s ea size n).stop = none → (loadRun s ea size n).words.length = n) := by
  simpa [loadRun] using partAddresses_length s ea size false n

/-- What a load none of whose parts stops has read, and where. -/
theorem loadAll_ok {s t : State} {ea : Word} {size n : Nat} {ws : List Word} (h : loadAll s ea size n = .ok (ws, t)) :
    (partAddresses s ea size false n).2 = none ∧ loadAt s ea size (partAddresses s ea size false n).1 = (ws, t) := by
  unfold loadAll at h
  dsimp only [loadRun] at h
  split at h
  · cases h
  · next hn => exact ⟨hn, Except.ok.inj h⟩

/-- A load stops at the first part that does not translate. -/
theorem loadAll_error {s : State} {ea : Word} {size n : Nat} {e : AccessStop} (h : loadAll s ea size n = .error e) :
    (partAddresses s ea size false n).2 = some e := by
  unfold loadAll at h
  dsimp only [loadRun] at h
  split at h
  · next e' he => rwa [← Except.error.inj h]
  · cases h

theorem loadAll_memorySide {s t : State} {ea : Word} {size n : Nat} {ws : List Word}
    (h : loadAll s ea size n = .ok (ws, t)) : MemorySide s t := by
  have := loadAt_memorySide s ea size (partAddresses s ea size false n).1
  rwa [(loadAll_ok h).2] at this

/-- An aligned load is one access. -/
theorem loadData_aligned {s : State} {ea pa : Word} {n : Nat} (hn : 0 < n) (ha : ea.toNat % n = 0)
    (h : translateData s ea false = .ok pa) :
    loadData s ea n = .ok ((loadAt s ea n [pa]).1.foldl (fun acc v => acc <<< (8 * n) ||| v) 0, loadedAt s pa) := by
  simp [loadData, (isAligned_iff ea n).mpr ha, Nat.div_self hn, loadAll, loadRun, partAddresses, h, loadAt_single]

theorem loadData_memorySide {s t : State} {ea v : Word} {n : Nat} (h : loadData s ea n = .ok (v, t)) :
    MemorySide s t := by
  unfold loadData at h
  dsimp only at h
  split at h
  · cases h
  · next hl =>
    cases Except.ok.inj h
    exact loadAll_memorySide hl

theorem loadDouble_memorySide {s t : State} {ea : Word} {v : BitVec 64} (h : loadDouble s ea = .ok (v, t)) :
    MemorySide s t := by
  unfold loadDouble at h
  split at h
  · cases h
  · next hl =>
    cases Except.ok.inj h
    exact loadAll_memorySide hl

/- Stores. -/

theorem writeBlock_memorySide (s : State) (pa : Word) (ws : List Word) : MemorySide s (writeBlock s pa ws) := by
  induction ws generalizing s pa with
  | nil => exact .refl s
  | cons w rest ih => exact (writePhys_memorySide s pa 4 w).trans (ih _ _)

theorem storeBytes_memorySide {s : State} {ea : Word} {bs : List Byte} :
    (∀ t, storeBytes s ea bs = .ok t → MemorySide s t) ∧
    ∀ e t, storeBytes s ea bs = .error (e, t) → MemorySide s t := by
  induction bs generalizing s ea with
  | nil => exact ⟨fun t h => by cases Except.ok.inj h; exact .refl s, fun e t h => by cases h⟩
  | cons b rest ih =>
    unfold storeBytes
    constructor
    · intro t h
      split at h
      · cases h
      · dsimp only at h
        split at h
        · cases Except.ok.inj h
          exact writePhys_memorySide s _ 1 _
        · exact ((writePhys_memorySide s _ 1 _).trans (between_memorySide _)).trans (ih.1 t h)
    · intro e t h
      split at h
      · cases Except.error.inj h
        exact .refl s
      · dsimp only at h
        split at h
        · cases h
        · exact ((writePhys_memorySide s _ 1 _).trans (between_memorySide _)).trans (ih.2 e t h)

/-- A store that succeeds, or stops on the way, has changed what an access may change. -/
theorem storeData_memorySide {s : State} {ea : Word} {n : Nat} {v : Word} :
    (∀ t, storeData s ea n v = .ok t → MemorySide s t) ∧
    ∀ e t, storeData s ea n v = .error (e, t) → MemorySide s t := by
  unfold storeData
  constructor
  · intro t h
    split at h
    · split at h
      · cases h
      · cases Except.ok.inj h
        exact writePhys_memorySide s _ n v
    · exact storeBytes_memorySide.1 t h
  · intro e t h
    split at h
    · split at h
      · cases Except.error.inj h
        exact .refl s
      · cases h
    · exact storeBytes_memorySide.2 e t h

/-- An aligned store writes at one place. -/
theorem storeData_aligned {s : State} {ea pa : Word} {n : Nat} {v : Word} (ha : ea.toNat % n = 0)
    (h : translateData s ea true = .ok pa) : storeData s ea n v = .ok (writePhys s pa n v) := by
  simp [storeData, (isAligned_iff ea n).mpr ha, h]

theorem storeDouble_memorySide {s t : State} {ea : Word} {v : BitVec 64} (h : storeDouble s ea v = .ok t) :
    MemorySide s t := by
  unfold storeDouble at h
  split at h
  · cases h
  · split at h
    · cases h
    · cases Except.ok.inj h
      exact ((writePhys_memorySide s _ 4 _).trans (between_memorySide _)).trans (writePhys_memorySide _ _ 4 _)

theorem storeWords_memorySide (s : State) (ea : Word) (ws : List Word) : MemorySide s (storeWords s ea ws) := by
  induction ws generalizing s ea with
  | nil => exact .refl s
  | cons w rest ih =>
    unfold storeWords
    split
    · exact .refl s
    · dsimp only
      split
      · exact writePhys_memorySide s _ 4 w
      · exact ((writePhys_memorySide s _ 4 w).trans (between_memorySide _)).trans (ih _ _)

/-- A store as part of an instruction goes on from a state that differs in what an access may change. -/
theorem tryStore_ok {s t : State} {ea : Word} {n : Nat} {v : Word} (h : tryStore s ea n v = .ok t) : MemorySide s t := by
  unfold tryStore at h
  split at h
  · next u hu =>
    cases Except.ok.inj h
    exact storeData_memorySide.1 _ hu
  · cases h

/- Several registers (spec/43_load_store.md R520, R521). -/

/-- Writing general registers changes nothing but the general registers. -/
theorem writeGprs_rest (s : State) (r : Reg) (vs : List Word) :
    writeGprs s r vs = { s with gpr := (writeGprs s r vs).gpr, tgpr := (writeGprs s r vs).tgpr } := by
  induction vs generalizing s r with
  | nil => rfl
  | cons v rest ih =>
    unfold writeGprs
    conv_lhs => rw [ih]
    unfold State.writeGpr
    split <;> rfl

@[simp] theorem readGprs_length (s : State) (r : Reg) (n : Nat) : (readGprs s r n).length = n := by
  induction n generalizing r with
  | zero => rfl
  | succ n ih => simp [readGprs, ih]

/- A stopped access (spec/60_exceptions.md R754, R766). -/

/-- A stopped access that goes on takes DSI or a data translation miss. -/
theorem outcome_next {e : AccessStop} {s t : State} (h : e.outcome s = .next t) :
    ∃ x, t.taken = some x ∧ (x = .dsi ∨ x = .dataLoadMiss ∨ x = .dataStoreMiss) := by
  cases e with
  | dsi p d st ea =>
    cases Host.Outcome.next.inj h
    exact ⟨_, rfl, .inl rfl⟩
  | miss st k ea =>
    cases Host.Outcome.next.inj h
    cases st
    · exact ⟨_, rfl, .inr (.inl rfl)⟩
    · exact ⟨_, rfl, .inr (.inr rfl)⟩
  | fault f => cases h

end Sys2Proof.Machine
end

