-- ==== Sys2Proof/Laws/Control.lean ====
section
/-!
SUPPORT. What branches, traps, context changes, returns, special-register writes and the tick can do.
-/
namespace Sys2Proof.Machine

/- Branches and traps. -/

@[simp] theorem branchTo_cia (s : State) (taken lk : Bool) (a : Word) :
    (branchTo s taken lk a).cia = if taken then wordAlign a else s.cia + 4 := rfl
@[simp] theorem branchTo_lr (s : State) (taken lk : Bool) (a : Word) :
    (branchTo s taken lk a).lr = if lk then s.cia + 4 else s.lr := rfl

/-- A branch changes LR and CIA only. -/
theorem branchTo_rest (s : State) (taken lk : Bool) (a : Word) :
    branchTo s taken lk a = { s with lr := (branchTo s taken lk a).lr, cia := (branchTo s taken lk a).cia } := rfl

theorem trapIf_true (s : State) : trapIf s true = .next (takeException .program s.cia infoTrap s) := rfl
theorem trapIf_false (s : State) : trapIf s false = .next { s with cia := s.cia + 4 } := rfl

/- Contexts (spec/70_reset_and_hazards.md R841). -/

/-- A context-altering instruction adds at most the context it found to those still possible. -/
theorem openWindow_eq (old s : State) :
    openWindow old s = { s with windows := if s.ctx = old.ctx then s.windows else old.ctx :: s.windows } := by
  unfold openWindow
  split <;> rfl

@[simp] theorem closeWindows_windows (s : State) : (closeWindows s).windows = [] := rfl

theorem settleTlbs_windows (s : State) : ∀ c ∈ (settleTlbs s).windows, c.itlb = s.itlb ∧ c.dtlb = s.dtlb := by
  intro c hc
  obtain ⟨d, _, rfl⟩ := List.mem_map.mp hc
  exact ⟨rfl, rfl⟩

/-- `esa` and `dsa` change MSR and the old contexts only. -/
theorem supervisorAccess_rest (s : State) (msr : Word) :
    supervisorAccess s msr = { s with msr := msr, windows := (supervisorAccess s msr).windows } := rfl

/-- Stages of the instruction-side sequence change neither the replaced words nor their addresses. -/
theorem mapStale_words (f : StaleWord → StalePhase) (s : State) :
    (mapStale f s).stale.map (fun e => (e.addr, e.old)) = s.stale.map fun e => (e.addr, e.old) := by
  simp [mapStale, Function.comp_def]

/-- A record once discarded stays so through the sequence of spec/20_memory.md R221. -/
theorem mapStale_discarded (f : StaleWord → StalePhase) (s : State) :
    (mapStale f s).stale.map (·.discarded) = s.stale.map (·.discarded) := by
  simp [mapStale, Function.comp_def]

theorem markDiscarded_settled (f : StaleWord → StalePhase) (s : State) (block : Word) :
    ∀ e ∈ (mapStale f (markDiscarded block s)).stale, notPushed block e = false := by
  intro e he
  obtain ⟨d, hd, rfl⟩ := List.mem_map.mp he
  obtain ⟨c, _, rfl⟩ := List.mem_map.mp hd
  cases h : blockAlign c.addr == block <;> simp [notPushed, h]

/-- After `dcbi` no record of the block is left that a second `dcbi` could bring back, whatever stages the records reach
meanwhile (R674). -/
theorem discardBlock_settled (f : StaleWord → StalePhase) (s : State) (block : Word) :
    ∀ e ∈ (mapStale f (discardBlock s block)).stale, notPushed block e = false :=
  markDiscarded_settled f _ block

/- Return from interrupt (spec/60_exceptions.md R746). -/

/-- Where the new MSR enables no pending floating-point exception, the return is to SRR0. -/
theorem returnFromInterrupt_plain (s : State)
    (h : fpTrapEnabled (merge rfiMask s.srr1 s.msr &&& ~~~msrTGPR) s.fpscr = false) :
    returnFromInterrupt s =
      { s with msr := merge rfiMask s.srr1 s.msr &&& ~~~msrTGPR, cia := wordAlign s.srr0, windows := [] } := by
  exact if_neg fun h' => absurd (h.symm.trans h') (by decide)

/- Special registers (spec/45_processor_control.md R623). -/

/-- The registers a special-register write may change. -/
theorem writeSpr_rest {s t : State} {v : Word} {r : Spr} (h : writeSpr s v r = some t) :
    t.gpr = s.gpr ∧ t.tgpr = s.tgpr ∧ t.fpr = s.fpr ∧ t.cr = s.cr ∧ t.fpscr = s.fpscr ∧ t.msr = s.msr ∧ t.sr = s.sr ∧
    t.cia = s.cia ∧ t.itlb = s.itlb ∧ t.dtlb = s.dtlb ∧ t.mem = s.mem ∧ t.stale = s.stale ∧ t.reserve = s.reserve ∧
    t.taken = s.taken := by
  cases r <;> simp only [writeSpr, Option.some.injEq, reduceCtorEq] at h <;> subst h <;> simp [writeDec]

/-- The position of a bit of a TCR field tells it from the others. -/
theorem tcrLayout_distinct : (tcrPositions tcrLayout).Nodup := by
  unfold tcrLayout
  split
  · assumption
  · decide

/-- No two HID0 fields share a position. -/
theorem hid0Layout_distinct : (hid0Positions hid0Layout).Nodup := by
  unfold hid0Layout
  split
  · assumption
  · decide

/- The tick (spec/60_exceptions.md R790 to R794). -/

theorem watchdogExpiry_rest (s : State) :
    watchdogExpiry s = { s with
      wdtPending := (watchdogExpiry s).wdtPending
      wdtResetPending := (watchdogExpiry s).wdtResetPending
      tcr := (watchdogExpiry s).tcr } := by
  unfold watchdogExpiry
  split_ifs <;> rfl

/-- The time base's part of a tick touches the time base and the watchdog. -/
theorem tickTimeBase_rest (s : State) :
    tickTimeBase s = { s with
      tb := (tickTimeBase s).tb
      wdtPending := (tickTimeBase s).wdtPending
      wdtResetPending := (tickTimeBase s).wdtResetPending
      tcr := (tickTimeBase s).tcr } := by
  unfold tickTimeBase
  split
  · dsimp only
    split
    · conv_lhs => rw [watchdogExpiry_rest]
      conv_rhs => rw [watchdogExpiry_rest]
    · rfl
  · rfl

/-- The decrementer's part of a tick touches DEC and its latch. -/
theorem tickDecrementer_rest (s : State) :
    tickDecrementer s = { s with dec := (tickDecrementer s).dec, decPending := (tickDecrementer s).decPending } := by
  unfold tickDecrementer
  split <;> rfl

/-- A tick leaves memory, CIA, MSR and everything else but the timers. -/
theorem tick_rest (s : State) :
    tick s = { s with
      tb := (tick s).tb
      dec := (tick s).dec
      decPending := (tick s).decPending
      wdtPending := (tick s).wdtPending
      wdtResetPending := (tick s).wdtResetPending
      tcr := (tick s).tcr } := by
  unfold tick
  conv_lhs => rw [tickDecrementer_rest, tickTimeBase_rest]
  conv_rhs => rw [tickDecrementer_rest, tickTimeBase_rest]

/- Taking an exception: alignment of the vector, and what the new MSR can hold. -/

/-- Every vector address is word-aligned. -/
theorem vectorAddress_aligned (e : Exception) (ip : Bool) (ibr : Word) : vectorAddress e ip ibr &&& 3 = 0 := by
  have h : ((ibr &&& ibrPrefixMask) ||| e.offset) &&& 3 = 0 := by
    have h0 : e.offset &&& 3 = 0 := by cases e <;> rfl
    have h1 : (ibr &&& ibrPrefixMask) &&& 3 = 0 := by
      rw [BitVec.and_assoc]
      show ibr &&& (ibrPrefixMask &&& 3) = 0
      simp [ibrPrefixMask]
    have h2 : ∀ a b : Word, a &&& 3 = 0 → b &&& 3 = 0 → (a ||| b) &&& 3 = 0 := by
      intro a b ha hb
      apply BitVec.eq_of_getLsbD_eq
      intro i hi
      have hai := congrArg (fun x => x.getLsbD i) ha
      have hbi := congrArg (fun x => x.getLsbD i) hb
      simp only [BitVec.getLsbD_and, BitVec.getLsbD_or] at hai hbi ⊢
      cases h3 : (3 : Word).getLsbD i <;> simp_all
    exact h2 _ _ h1 h0
  unfold vectorAddress
  split
  · cases e <;> rfl
  · split
    · cases e <;> rfl
    · exact h

/-- An exception entry changes nothing but the saved registers, MSR, CIA and the model's own fields. -/
theorem takeException_rest (e : Exception) (a i : Word) (s : State) :
    takeException e a i s = { s with
      srr0 := a
      srr1 := entrySrr1 e s.msr i
      msr := entryMsr e s.msr
      cia := vectorAddress e s.ipView s.ibr
      decPending := s.decPending && e != .decrementer
      wdtPending := s.wdtPending && e != .watchdog
      power := .full
      powPending := none
      deferred := []
      windows := []
      taken := some e } := rfl

/-- An exception entry leaves an aligned CIA. -/
theorem takeException_aligned (e : Exception) (a i : Word) (s : State) : (takeException e a i s).cia &&& 3 = 0 :=
  vectorAddress_aligned e _ _

/- Cache instructions (spec/46_memory_control.md R673, R674). -/

theorem settleBlock_memorySide (s : State) (block : Word) : MemorySide s (settleBlock s block) := by
  unfold settleBlock
  split
  · exact writeBlock_memorySide s block _
  · exact .refl s

theorem mapStale_memorySide (f : StaleWord → StalePhase) (s : State) : MemorySide s (mapStale f s) :=
  ⟨⟨_, _, _, _, _, _, _, rfl⟩, id, .inl rfl⟩

theorem markDiscarded_memorySide (block : Word) (s : State) : MemorySide s (markDiscarded block s) :=
  ⟨⟨_, _, _, _, _, _, _, rfl⟩, id, .inl rfl⟩

theorem discardBlock_memorySide (s : State) (block : Word) : MemorySide s (discardBlock s block) :=
  (writeBlock_memorySide s block _).trans (markDiscarded_memorySide _ _)

/- Interrupts (spec/60_exceptions.md R780, R782). -/

/-- The interrupt taken at a boundary is enabled and its condition stands. -/
theorem pendingInterrupt_stands {s : State} {e : Exception} (h : pendingInterrupt s = some e) :
    s.msrBit msrEE = true ∧ interruptStands s e = true := by
  have hm : e ∈ takeable s := List.mem_of_find?_eq_some h
  unfold takeable at hm
  split at hm
  · next hee => exact ⟨hee, (List.mem_filter.mp hm).2⟩
  · cases hm

/-- Every interrupt put off at the last boundary is taken at this one before any instruction runs (R782). -/
theorem pendingInterrupt_deferred {s : State} {e : Exception} (hd : e ∈ s.deferred) (ht : e ∈ takeable s) :
    ∃ x, pendingInterrupt s = some x := by
  refine Option.isSome_iff_exists.mp (List.find?_isSome.mpr ⟨e, ht, ?_⟩)
  simp [putOff, hd]

/- Events keep the canonical form of memory. -/

theorem applyEvent_mem_wf (s : State) (e : Event) (h : s.mem.wf = true) : (applyEvent s e).mem.wf = true := by
  cases e with
  | tick =>
    show (tick s).mem.wf = true
    rw [tick_rest]
    exact h
  | hreset level =>
    dsimp only [applyEvent]
    split <;> exact h
  | bus e => exact applyBus_wf s e h
  | int level => exact h
  | smi level => exact h
  | tben level => exact h
  | sreset => exact h
  | mcp => exact h
  | tea => exact h

/-- Recognising a TEA changes the two conditions only. -/
theorem recogniseTea_rest (s : State) :
    recogniseTea s = { s with
      teaUnrecognised := (recogniseTea s).teaUnrecognised, mcheckPending := (recogniseTea s).mcheckPending } := by
  unfold recogniseTea
  split <;> rfl

theorem beginStep_mem_wf (s : State) (h : s.mem.wf = true) : (beginStep s).mem.wf = true := by
  have key : ∀ (es : List Event) (u : State), u.mem.wf = true → (es.foldl applyEvent u).mem.wf = true := by
    intro es
    induction es with
    | nil => exact fun u hu => hu
    | cons e rest ih => exact fun u hu => ih _ (applyEvent_mem_wf u e hu)
  unfold beginStep
  rw [recogniseTea_rest]
  exact key _ _ h

end Sys2Proof.Machine
end

