-- ==== Sys2Proof/Tests/Slice0.lean ====
section
/-!
SUPPORT. Small tests of single steps, one word of every instruction through the decoder, the well-formedness checks, and
for each statement with hypotheses a state and operands that meet them.
-/
namespace Sys2Proof.Tests
open Sys2Proof Sys2Proof.Machine

/- States. -/

/-- Supervisor mode, real mode, two general registers set. -/
def regs (a b : Word) : State := { State.reset with gpr := ((Vector.replicate 32 0).set 4 a).set 5 b }

/-- User mode, real mode. -/
def user : State := { State.reset with msr := 0x00004040 }

/-- Floating point available, FPR1, FPR2 and FPR3 single-precision data. -/
def floats (a b c : Word) : State :=
  { State.reset with msr := 0x00002040, fpr := (((Vector.replicate 32 0).set 1 a).set 2 b).set 3 c }

/-- MSR[TGPR] = 1. -/
def tgprs : State := { State.reset with msr := 0x00020040 }

/-- A memory. -/
def withMem (s : State) (m : Memory) : State := { s with mem := m }

/-- Data translation on, two data block translations, the rest as after reset. -/
def blocks (u0 l0 u1 l1 : Word) : State :=
  { State.reset with msr := 0x00000050, dbat := (((Vector.replicate 8 0).set 0 u0).set 1 l0 |>.set 2 u1).set 3 l1 }

/-- Data and instruction translation on, segment register 0 and way 0 of set 0 of both TLBs. -/
def pages (msr sr pte : Word) : State :=
  { State.reset with
    msr := msr
    cia := 0x00000100
    sr := (Vector.replicate 16 0).set 0 sr
    itlb := (Vector.replicate 32 TlbEntry.invalid).set 0 { valid := true, vsid := 5, page := 0, pte1 := pte }
    dtlb := (Vector.replicate 32 TlbEntry.invalid).set 0 { valid := true, vsid := 5, page := 0, pte1 := pte } }

/-- The instruction block translation of the boot addresses, every reserved bit of its lower word 1. -/
def ibats (low : Word) : State :=
  { State.reset with msr := 0x00000060, ibat := ((Vector.replicate 8 0).set 0 0xFFF00002).set 1 low }

/-- What an instruction leaves, the state itself where it stops. -/
def after (i : Instr) (s : State) : State :=
  match exec i s with
  | .next t => t
  | .fault _ => s
  | .refused _ => s

/- Well-formedness: an ill-formed term for each check, and a well-formed one. -/

theorem test_wellFormed_update_store : (Instr.stwu 3 0 8).wellFormed = false ∧ (Instr.stwu 3 4 8).wellFormed = true := by
  decide

theorem test_wellFormed_update_float : (Instr.lfsu 1 0 8).wellFormed = false ∧ (Instr.lfsu 1 1 8).wellFormed = true := by
  decide

theorem test_wellFormed_update_load :
    (Instr.lwzu 3 0 8).wellFormed = false ∧ (Instr.lwzu 3 3 8).wellFormed = false ∧
    (Instr.lwzu 3 4 8).wellFormed = true := by decide

theorem test_wellFormed_lmw : (Instr.lmw 4 4 8).wellFormed = false ∧ (Instr.lmw 5 4 8).wellFormed = true := by decide

theorem test_wellFormed_compare : (Instr.cmp 0 1 3 4).wellFormed = false ∧ (Instr.cmp 0 0 3 4).wellFormed = true := by
  decide

theorem test_wellFormed_bo :
    (Instr.bc 0b00111 0 0 false false).wellFormed = false ∧ (Instr.bc 0b00100 0 0 false false).wellFormed = true := by
  decide

theorem test_wellFormed_bcctr :
    (Instr.bcctr 16 0 false).wellFormed = false ∧ (Instr.bcctr 20 0 false).wellFormed = true := by decide

theorem test_wellFormed_stwcx :
    (Instr.stwcxRc 3 0 4 false).wellFormed = false ∧ (Instr.stwcxRc 3 0 4 true).wellFormed = true := by decide

/- Decoding: the words are those the specification prints for its examples, or are written from its encodings. -/

/-- Flow control: words the specification prints or that its encodings give. -/
theorem test_decode_flow_control_0 :
    decode 0x0E030000 = .ok (.twi 16 3 0) ∧
    decode 0x41820010 = .ok (.bc 12 2 4 false false) ∧
    decode 0x44000002 = .ok (.sc) ∧
    decode 0x4BFFFFF9 = .ok (.b 0xFFFFFE false true) ∧
    decode 0x4D0C0000 = .ok (.mcrf 2 3) ∧
    decode 0x4D820020 = .ok (.bclr 12 2 false) ∧
    decode 0x4C000064 = .ok (.rfi) ∧
    decode 0x4E800421 = .ok (.bcctr 20 0 true) ∧
    decode 0x4C400842 = .ok (.crnor 2 0 1) ∧
    decode 0x4C400902 = .ok (.crandc 2 0 1) ∧
    decode 0x4C400982 = .ok (.crxor 2 0 1) ∧
    decode 0x4C4009C2 = .ok (.crnand 2 0 1) := by decide

/-- Flow control: words the specification prints or that its encodings give. -/
theorem test_decode_flow_control_1 :
    decode 0x4C400A02 = .ok (.crand 2 0 1) ∧
    decode 0x4C400A42 = .ok (.creqv 2 0 1) ∧
    decode 0x4C400B42 = .ok (.crorc 2 0 1) ∧
    decode 0x4C400B82 = .ok (.cror 2 0 1) ∧
    decode 0x7C832008 = .ok (.tw 4 3 4) := by decide

/-- Integer arithmetic and compare: words the specification prints or that its encodings give. -/
theorem test_decode_integer_0 :
    decode 0x1C64FFFD = .ok (.mulli 3 4 65533) ∧
    decode 0x20640000 = .ok (.subfic 3 4 0) ∧
    decode 0x30640001 = .ok (.addic 3 4 1) ∧
    decode 0x3464FFFF = .ok (.addicRc 3 4 65535) ∧
    decode 0x3860FFFF = .ok (.addi 3 0 65535) ∧
    decode 0x3C601234 = .ok (.addis 3 0 4660) ∧
    decode 0x2803FFFF = .ok (.cmpli 0 0 3 65535) ∧
    decode 0x2C030005 = .ok (.cmpi 0 0 3 5) ∧
    decode 0x7C642810 = .ok (.subfc 3 4 5 false false) ∧
    decode 0x7C642814 = .ok (.addc 3 4 5 false false) ∧
    decode 0x7C642850 = .ok (.subf 3 4 5 false false) ∧
    decode 0x7C6400D0 = .ok (.neg 3 4 false false) := by decide

/-- Integer arithmetic and compare: words the specification prints or that its encodings give. -/
theorem test_decode_integer_1 :
    decode 0x7C642910 = .ok (.subfe 3 4 5 false false) ∧
    decode 0x7C642914 = .ok (.adde 3 4 5 false false) ∧
    decode 0x7C640190 = .ok (.subfze 3 4 false false) ∧
    decode 0x7C640194 = .ok (.addze 3 4 false false) ∧
    decode 0x7C6401D0 = .ok (.subfme 3 4 false false) ∧
    decode 0x7C6401D4 = .ok (.addme 3 4 false false) ∧
    decode 0x7C6429D6 = .ok (.mullw 3 4 5 false false) ∧
    decode 0x7C642A14 = .ok (.add 3 4 5 false false) ∧
    decode 0x7C642B96 = .ok (.divwu 3 4 5 false false) ∧
    decode 0x7C642BD6 = .ok (.divw 3 4 5 false false) ∧
    decode 0x7C642816 = .ok (.mulhwu 3 4 5 false) ∧
    decode 0x7C642896 = .ok (.mulhw 3 4 5 false) := by decide

/-- Integer arithmetic and compare: words the specification prints or that its encodings give. -/
theorem test_decode_integer_2 :
    decode 0x7C832000 = .ok (.cmp 1 0 3 4) ∧
    decode 0x7D032040 = .ok (.cmpl 2 0 3 4) := by decide

/-- Logical, rotate and shift: words the specification prints or that its encodings give. -/
theorem test_decode_logic_0 :
    decode 0x60000000 = .ok (.ori 0 0 0) ∧
    decode 0x6483FFFF = .ok (.oris 4 3 65535) ∧
    decode 0x6883FFFF = .ok (.xori 4 3 65535) ∧
    decode 0x6C838000 = .ok (.xoris 4 3 32768) ∧
    decode 0x708300FF = .ok (.andiRc 4 3 255) ∧
    decode 0x74838000 = .ok (.andisRc 4 3 32768) ∧
    decode 0x5083801E = .ok (.rlwimi 4 3 16 0 15 false) ∧
    decode 0x5483402E = .ok (.rlwinm 4 3 8 0 23 false) ∧
    decode 0x5C83283E = .ok (.rlwnm 4 3 5 0 31 false) ∧
    decode 0x7C832830 = .ok (.slw 4 3 5 false) ∧
    decode 0x7C832838 = .ok (.and 4 3 5 false) ∧
    decode 0x7C832878 = .ok (.andc 4 3 5 false) := by decide

/-- Logical, rotate and shift: words the specification prints or that its encodings give. -/
theorem test_decode_logic_1 :
    decode 0x7C8320F8 = .ok (.nor 4 3 4 false) ∧
    decode 0x7C832A38 = .ok (.eqv 4 3 5 false) ∧
    decode 0x7C832A78 = .ok (.xor 4 3 5 false) ∧
    decode 0x7C832B38 = .ok (.orc 4 3 5 false) ∧
    decode 0x7C832B78 = .ok (.or 4 3 5 false) ∧
    decode 0x7C832BB8 = .ok (.nand 4 3 5 false) ∧
    decode 0x7C832C30 = .ok (.srw 4 3 5 false) ∧
    decode 0x7C832E30 = .ok (.sraw 4 3 5 false) ∧
    decode 0x7C832670 = .ok (.srawi 4 3 4 false) ∧
    decode 0x7C830034 = .ok (.cntlzw 4 3 false) ∧
    decode 0x7C830735 = .ok (.extsh 4 3 true) ∧
    decode 0x7C830774 = .ok (.extsb 4 3 false) := by decide

/-- Processor control: words the specification prints or that its encodings give. -/
theorem test_decode_processor_control_0 :
    decode 0x4C00012C = .ok (.isync) ∧
    decode 0x7C600026 = .ok (.mfcr 3) ∧
    decode 0x7C6000A6 = .ok (.mfmsr 3) ∧
    decode 0x7C6FF120 = .ok (.mtcrf 3 255) ∧
    decode 0x7C600124 = .ok (.mtmsr 3) ∧
    decode 0x7C7B02A6 = .ok (.mfspr 3 27) ∧
    decode 0x7C6C42E6 = .ok (.mftb 3 268) ∧
    decode 0x7C6803A6 = .ok (.mtspr 3 8) ∧
    decode 0x7C800400 = .ok (.mcrxr 1) ∧
    decode 0b011111_00000_00000_00000_1001010100_0 = .ok (.esa) ∧
    decode 0b011111_00000_00000_00000_1001110100_0 = .ok (.dsa) ∧
    decode 0x7C0004AC = .ok (.sync) := by decide

/-- Processor control: words the specification prints or that its encodings give. -/
theorem test_decode_processor_control_1 :
    decode 0x7C0006AC = .ok (.eieio) := by decide

/-- Load and store: words the specification prints or that its encodings give. -/
theorem test_decode_load_store_0 :
    decode 0x7C64282E = .ok (.lwzx 3 4 5) ∧
    decode 0x7C64286E = .ok (.lwzux 3 4 5) ∧
    decode 0x7C6428AE = .ok (.lbzx 3 4 5) ∧
    decode 0x7C6428EE = .ok (.lbzux 3 4 5) ∧
    decode 0x7C642A2E = .ok (.lhzx 3 4 5) ∧
    decode 0x7C642A6E = .ok (.lhzux 3 4 5) ∧
    decode 0x7C642AAE = .ok (.lhax 3 4 5) ∧
    decode 0x7C642AEE = .ok (.lhaux 3 4 5) ∧
    decode 0x7C64292E = .ok (.stwx 3 4 5) ∧
    decode 0x7C64296E = .ok (.stwux 3 4 5) ∧
    decode 0x7C6429AE = .ok (.stbx 3 4 5) ∧
    decode 0x7C6429EE = .ok (.stbux 3 4 5) := by decide

/-- Load and store: words the specification prints or that its encodings give. -/
theorem test_decode_load_store_1 :
    decode 0x7C642B2E = .ok (.sthx 3 4 5) ∧
    decode 0x7C642B6E = .ok (.sthux 3 4 5) ∧
    decode 0x7C642C2C = .ok (.lwbrx 3 4 5) ∧
    decode 0x7C642E2C = .ok (.lhbrx 3 4 5) ∧
    decode 0x7C642D2C = .ok (.stwbrx 3 4 5) ∧
    decode 0x7C642F2C = .ok (.sthbrx 3 4 5) ∧
    decode 0x7C602028 = .ok (.lwarx 3 0 4) ∧
    decode 0x7C60212D = .ok (.stwcxRc 3 0 4 true) ∧
    decode 0x7C642C2A = .ok (.lswx 3 4 5) ∧
    decode 0x7CA444AA = .ok (.lswi 5 4 8) ∧
    decode 0x7C642D2A = .ok (.stswx 3 4 5) ∧
    decode 0b011111_00011_00100_01000_1011010101_0 = .ok (.stswi 3 4 8) := by decide

/-- Load and store: words the specification prints or that its encodings give. -/
theorem test_decode_load_store_2 :
    decode 0x7C242C2E = .ok (.lfsx 1 4 5) ∧
    decode 0x7C242C6E = .ok (.lfsux 1 4 5) ∧
    decode 0x7C242CAE = .ok (.lfdx 1 4 5) ∧
    decode 0x7C242CEE = .ok (.lfdux 1 4 5) ∧
    decode 0x7C242D2E = .ok (.stfsx 1 4 5) ∧
    decode 0x7C242D6E = .ok (.stfsux 1 4 5) ∧
    decode 0x7C242DAE = .ok (.stfdx 1 4 5) ∧
    decode 0x7C242DEE = .ok (.stfdux 1 4 5) ∧
    decode 0x7C242FAE = .ok (.stfiwx 1 4 5) ∧
    decode 0x7C642A6C = .ok (.eciwx 3 4 5) ∧
    decode 0x7C642B6C = .ok (.ecowx 3 4 5) ∧
    decode 0x8064FFFC = .ok (.lwz 3 4 65532) := by decide

/-- Load and store: words the specification prints or that its encodings give. -/
theorem test_decode_load_store_3 :
    decode 0x84640008 = .ok (.lwzu 3 4 8) ∧
    decode 0x88640008 = .ok (.lbz 3 4 8) ∧
    decode 0x8C640008 = .ok (.lbzu 3 4 8) ∧
    decode 0x90640008 = .ok (.stw 3 4 8) ∧
    decode 0x9421FFF0 = .ok (.stwu 1 1 65520) ∧
    decode 0x98640008 = .ok (.stb 3 4 8) ∧
    decode 0x9C640008 = .ok (.stbu 3 4 8) ∧
    decode 0xA0640008 = .ok (.lhz 3 4 8) ∧
    decode 0xA4640008 = .ok (.lhzu 3 4 8) ∧
    decode 0xA8640008 = .ok (.lha 3 4 8) ∧
    decode 0xAC640008 = .ok (.lhau 3 4 8) ∧
    decode 0xB0640008 = .ok (.sth 3 4 8) := by decide

/-- Load and store: words the specification prints or that its encodings give. -/
theorem test_decode_load_store_4 :
    decode 0xB4640008 = .ok (.sthu 3 4 8) ∧
    decode 0xBBA1FFF4 = .ok (.lmw 29 1 65524) ∧
    decode 0xBFA1FFF4 = .ok (.stmw 29 1 65524) ∧
    decode 0xC0240008 = .ok (.lfs 1 4 8) ∧
    decode 0xC4240008 = .ok (.lfsu 1 4 8) ∧
    decode 0xC8240008 = .ok (.lfd 1 4 8) ∧
    decode 0xCC240008 = .ok (.lfdu 1 4 8) ∧
    decode 0xD0240008 = .ok (.stfs 1 4 8) ∧
    decode 0xD4240008 = .ok (.stfsu 1 4 8) ∧
    decode 0xD8240008 = .ok (.stfd 1 4 8) ∧
    decode 0xDC240008 = .ok (.stfdu 1 4 8) := by decide

/-- Memory control: words the specification prints or that its encodings give. -/
theorem test_decode_memory_control_0 :
    decode 0x7C04286C = .ok (.dcbst 4 5) ∧
    decode 0x7C0428AC = .ok (.dcbf 4 5) ∧
    decode 0x7C0429EC = .ok (.dcbtst 4 5) ∧
    decode 0x7C042A2C = .ok (.dcbt 4 5) ∧
    decode 0x7C042BAC = .ok (.dcbi 4 5) ∧
    decode 0x7C042FAC = .ok (.icbi 4 5) ∧
    decode 0x7C042FEC = .ok (.dcbz 4 5) ∧
    decode 0x7C6501A4 = .ok (.mtsr 3 5) ∧
    decode 0x7C6021E4 = .ok (.mtsrin 3 4) ∧
    decode 0x7C6504A6 = .ok (.mfsr 3 5) ∧
    decode 0x7C602526 = .ok (.mfsrin 3 4) ∧
    decode 0x7C002264 = .ok (.tlbie 4) := by decide

/-- Memory control: words the specification prints or that its encodings give. -/
theorem test_decode_memory_control_1 :
    decode 0x7C0002E4 = .ok (.tlbia) ∧
    decode 0x7C00046C = .ok (.tlbsync) ∧
    decode 0x7C0027A4 = .ok (.tlbld 4) ∧
    decode 0x7C0027E4 = .ok (.tlbli 4) := by decide

/-- Floating point: words the specification prints or that its encodings give. -/
theorem test_decode_floating_point_0 :
    decode 0xEC221824 = .ok (.fdivs 1 2 3 false) ∧
    decode 0xEC221828 = .ok (.fsubs 1 2 3 false) ∧
    decode 0xEC22182A = .ok (.fadds 1 2 3 false) ∧
    decode 0xEC201830 = .ok (.fres 1 3 false) ∧
    decode 0xEC2200F2 = .ok (.fmuls 1 2 3 false) ∧
    decode 0xEC2220F8 = .ok (.fmsubs 1 2 4 3 false) ∧
    decode 0xEC2220FA = .ok (.fmadds 1 2 4 3 false) ∧
    decode 0xEC2220FC = .ok (.fnmsubs 1 2 4 3 false) ∧
    decode 0xEC2220FE = .ok (.fnmadds 1 2 4 3 false) ∧
    decode 0b111011_00001_00000_00010_00000_10110_0 = .ok (.fsqrts 1 2 false) ∧
    decode 0b111111_00001_00010_00011_00000_10010_0 = .ok (.fdiv 1 2 3 false) ∧
    decode 0b111111_00001_00010_00011_00000_10100_0 = .ok (.fsub 1 2 3 false) := by decide

/-- Floating point: words the specification prints or that its encodings give. -/
theorem test_decode_floating_point_1 :
    decode 0xFC22182A = .ok (.fadd 1 2 3 false) ∧
    decode 0b111111_00001_00010_00000_00011_11001_0 = .ok (.fmul 1 2 3 false) ∧
    decode 0b111111_00001_00010_00100_00011_11100_0 = .ok (.fmsub 1 2 4 3 false) ∧
    decode 0xFC2220FA = .ok (.fmadd 1 2 4 3 false) ∧
    decode 0b111111_00001_00010_00100_00011_11110_1 = .ok (.fnmsub 1 2 4 3 true) ∧
    decode 0b111111_00001_00010_00100_00011_11111_0 = .ok (.fnmadd 1 2 4 3 false) ∧
    decode 0xFC2220EE = .ok (.fsel 1 2 4 3 false) ∧
    decode 0xFC20102C = .ok (.fsqrt 1 2 false) ∧
    decode 0b111111_00001_00000_00010_00000_11010_0 = .ok (.frsqrte 1 2 false) ∧
    decode 0xFC821800 = .ok (.fcmpu 1 2 3) ∧
    decode 0xFC021840 = .ok (.fcmpo 0 2 3) ∧
    decode 0xFC201018 = .ok (.frsp 1 2 false) := by decide

/-- Floating point: words the specification prints or that its encodings give. -/
theorem test_decode_floating_point_2 :
    decode 0xFC20101C = .ok (.fctiw 1 2 false) ∧
    decode 0xFC20101E = .ok (.fctiwz 1 2 false) ∧
    decode 0xFC201050 = .ok (.fneg 1 2 false) ∧
    decode 0xFC201090 = .ok (.fmr 1 2 false) ∧
    decode 0xFC201110 = .ok (.fnabs 1 2 false) ∧
    decode 0xFC201210 = .ok (.fabs 1 2 false) ∧
    decode 0xFF00004C = .ok (.mtfsb1 24 false) ∧
    decode 0xFFA0008C = .ok (.mtfsb0 29 false) ∧
    decode 0xFD040080 = .ok (.mcrfs 2 1) ∧
    decode 0xFF80110C = .ok (.mtfsfi 7 1 false) ∧
    decode 0xFC20048E = .ok (.mffs 1 false) ∧
    decode 0xFDFE158E = .ok (.mtfsf 255 2 false) := by decide

/- Single steps; the expected values follow from the rules named. -/

/-- R309: 0x7FFFFFFF + 1 overflows. -/
theorem test_add_overflow :
    (after (.add 3 4 5 true true) (regs 0x7FFFFFFF 1)).readGpr 3 = 0x80000000 ∧
    (after (.add 3 4 5 true true) (regs 0x7FFFFFFF 1)).xer = 0xC0000000 ∧
    (after (.add 3 4 5 true true) (regs 0x7FFFFFFF 1)).cr = 0x90000000 := by decide

/-- subfc computes rB - rA; the carry is set where no borrow is needed. -/
theorem test_subfc_carry :
    (after (.subfc 3 4 5 false false) (regs 5 5)).readGpr 3 = 0 ∧
    (after (.subfc 3 4 5 false false) (regs 5 5)).xer = 0x20000000 ∧
    (after (.subfc 3 4 5 false false) (regs 6 5)).xer = 0 := by decide

/-- A signed quotient truncates toward zero. -/
theorem test_divw_truncates : (after (.divw 3 4 5 false false) (regs 0xFFFFFFF9 2)).readGpr 3 = 0xFFFFFFFD := by decide

/-- sraw by 32 or more fills with the sign and sets CA for a negative source. -/
theorem test_sraw_wide :
    (after (.sraw 4 3 5 false) (regs 0x80000000 40)).readGpr 3 = 0xFFFFFFFF ∧
    (after (.sraw 4 3 5 false) (regs 0x80000000 40)).xer = 0x20000000 := by decide

/-- rlwinm with a mask that wraps. -/
theorem test_rlwinm_wraps : (after (.rlwinm 4 3 4 28 3 false) (regs 0x12345678 0)).readGpr 3 = 0x20000001 := by decide

/-- A halfword load across the end of the address space wraps to address 0. -/
theorem test_lhz_wraps :
    (after (.lhz 3 4 0xFFFF) (withMem (regs 0 0) [(0, 0x34), (0xFFFFFFFF, 0x12)])).readGpr 3 = 0x1234 := by decide

/-- A store with update leaves the address in the base; zero bytes are not listed. -/
theorem test_stwu :
    (after (.stwu 5 4 8) (regs 0x100 0xAB00CD00)).mem = [(0x108, 0xAB), (0x10A, 0xCD)] ∧
    (after (.stwu 5 4 8) (regs 0x100 0xAB00CD00)).readGpr 4 = 0x108 := by decide

/-- lha extends the sign; lhbrx reverses the two bytes. -/
theorem test_halfwords :
    (after (.lha 3 0 16) (withMem (regs 0 0) [(16, 0x80), (17, 0x01)])).readGpr 3 = 0xFFFF8001 ∧
    (after (.lhbrx 3 0 4) (withMem (regs 16 0) [(16, 0x80), (17, 0x01)])).readGpr 3 = 0x0180 := by decide

/-- A TEA for the second byte of a misaligned halfword frees both bytes and waits to be recognised (R752). -/
theorem test_lhz_tea :
    let s := { withMem (regs 3 0) [(3, 0x12), (4, 0x34)] with amid := [[.teaLoad]] }
    (loadAt s 3 1 [3, 4]).1 = freeParts s 3 1 2 ∧ (after (.lhz 3 4 0) s).teaUnrecognised = true ∧
    (after (.lhz 3 4 0) s).teaNext = false := ⟨rfl, by decide, by decide⟩

/-- A machine check event while HRESET is asserted is gone at its negation (R830). -/
theorem test_hreset_negation :
    (applyEvent (applyEvent (applyEvent State.reset (.hreset true)) .mcp) (.hreset false)).mcheckPending = false := by decide

/-- lwarx reserves the granule; stwcx. under it stores and sets EQ. -/
theorem test_reservation :
    (after (.lwarx 3 0 4) (regs 0x44 7)).reserve = some 0x40 ∧
    (after (.stwcxRc 5 0 4 true) (after (.lwarx 3 0 4) (regs 0x44 7))).cr = 0x20000000 ∧
    (after (.stwcxRc 5 0 4 true) (regs 0x44 7)).mem = [] := by decide

/-- bc with BO = 16 decrements CTR and branches while it is not 0. -/
theorem test_bdnz :
    (after (.bc 16 0 0x3FFF false false) { State.reset with ctr := 2 }).cia = 0xFFF000FC ∧
    (after (.bc 16 0 0x3FFF false false) { State.reset with ctr := 1 }).cia = 0xFFF00104 := by decide

/-- sc saves the next address; with IP = 1 the vector is 0xFFF00C00. -/
theorem test_sc : (after .sc State.reset).srr0 = 0xFFF00104 ∧ (after .sc State.reset).cia = 0xFFF00C00 := by decide

/-- A privileged instruction in user mode takes the program exception with SRR1<13>; MSR is saved in SRR1. -/
theorem test_privileged :
    (after .rfi user).cia = 0xFFF00700 ∧ (after .rfi user).srr1 = 0x00044040 ∧ (after .rfi user).msr = 0x40 := by decide

/-- 1.0 + 2.0 = 3.0, class positive normal. -/
theorem test_fadds :
    (after (.fadds 4 1 2 true) (floats 0x3F800000 0x40000000 0)).fprData 4 = 0x40400000 ∧
    (after (.fadds 4 1 2 true) (floats 0x3F800000 0x40000000 0)).fpscr = 0x00004000 := by decide

/-- 1.0 / 3.0 rounds up to 0x3EAAAAAB: inexact, FR and FI set. -/
theorem test_fdivs :
    (after (.fdivs 4 1 2 true) (floats 0x3F800000 0x40400000 0)).fprData 4 = 0x3EAAAAAB ∧
    (after (.fdivs 4 1 2 true) (floats 0x3F800000 0x40400000 0)).fpscr = 0x82064000 ∧
    (after (.fdivs 4 1 2 true) (floats 0x3F800000 0x40400000 0)).cr = 0x08000000 := by decide

/-- 2.5 converts to 2 under round to nearest even and is an integer word. -/
theorem test_fctiw :
    (after (.fctiw 4 1 false) (floats 0x40200000 0 0)).fprData 4 = 2 ∧
    (after (.fctiw 4 1 false) (floats 0x40200000 0 0)).isIntTagged 4 = true := by decide

/-- dcbz clears the whole block of an address inside it. -/
theorem test_dcbz :
    (after (.dcbz 0 4) (withMem (regs 0x47 0) [(0x3F, 1), (0x40, 2), (0x5F, 3), (0x60, 4)])).mem =
      [(0x3F, 1), (0x60, 4)] := by decide

/-- Another master may write between the bytes of a misaligned load. -/
theorem test_gap :
    (after (.lhz 3 0 1) { withMem State.reset [(1, 0x12), (2, 0x34)] with amid := [[.write 2 0xAB]] }).readGpr 3 = 0x12AB ∧
    (after (.lhz 3 0 2) { withMem State.reset [(3, 0x34)] with amid := [[.write 2 0xAB]] }).readGpr 3 = 0x34 := by decide

/-- Another master's claim of a block ends a reservation in it. -/
theorem test_claim :
    (applyBus { State.reset with reserve := some 0x40 } (.claim 0x5F)).reserve = none ∧
    (applyBus { State.reset with reserve := some 0x40 } (.claim 0x60)).reserve = some 0x40 ∧
    (applyBus { State.reset with reserve := some 0x40, power := .nap } (.claim 0x5F)).reserve = some 0x40 := by decide

/-- A store to ROM changes nothing; the next block is RAM. -/
theorem test_rom :
    (after (.stw 5 0 0x1C) { regs 0 7 with map := [{ first := 0, last := 0, kind := .rom }] }).mem = [] ∧
    (after (.stw 5 0 0x20) { regs 0 7 with map := [{ first := 0, last := 0, kind := .rom }] }).mem = [(0x23, 7)] := by
  decide

/-- An unsnooped write leaves the byte it replaced to cached copies; a store of this core ends that. -/
theorem test_unsnooped :
    (busWrite { withMem State.reset [(8, 1)] with power := .sleep } 8 2).cached = [(8, 1)] ∧
    (after (.stb 5 0 8) { regs 0 7 with cached := [(8, 1), (9, 1)] }).cached = [(9, 1)] := by decide

/-- With TGPR = 1 GPR3 names TGPR3. -/
theorem test_tgpr :
    (after (.addi 3 0 7) tgprs).tgpr[3] = 7 ∧ (after (.addi 3 0 7) tgprs).gpr[3] = 0 ∧
    exec (.addi 4 0 7) tgprs = .fault .tgprHighRegister := ⟨by decide, by decide, rfl⟩

/- A state and operands for each statement with hypotheses. -/

theorem witness_AddImmediate :
    State.reset.gprsUsable (3 :: namedOr0 4) = true ∧ State.reset.gprsUsable (31 :: namedOr0 0) = true :=
  by decide

theorem witness_AddAndSubtract :
    State.reset.gprsUsable [3, 4, 5] = true ∧ tgprs.gprsUsable [0, 3, 3] = true ∧ tgprs.gprsUsable [3, 4, 5] = false :=
  by decide

theorem witness_CarryingSums :
    State.reset.gprsUsable [3, 4, 5] = true ∧ tgprs.gprsUsable [0, 3, 3] = true ∧ tgprs.gprsUsable [3, 4, 5] = false :=
  by decide

theorem witness_ExtendedSums :
    State.reset.gprsUsable [3, 4, 5] = true ∧ tgprs.gprsUsable [0, 3, 3] = true ∧ tgprs.gprsUsable [3, 4, 5] = false :=
  by decide

theorem witness_Products :
    State.reset.gprsUsable [3, 4, 5] = true ∧ tgprs.gprsUsable [0, 3, 3] = true ∧ tgprs.gprsUsable [3, 4, 5] = false :=
  by decide

theorem witness_Logical :
    State.reset.gprsUsable [3, 4, 5] = true ∧ tgprs.gprsUsable [0, 3, 3] = true ∧ tgprs.gprsUsable [3, 4, 5] = false :=
  by decide

theorem witness_Rotates :
    State.reset.gprsUsable [3, 4, 5] = true ∧ tgprs.gprsUsable [0, 3, 3] = true ∧ tgprs.gprsUsable [3, 4, 5] = false :=
  by decide

theorem witness_Shifts :
    State.reset.gprsUsable [3, 4, 5] = true ∧ tgprs.gprsUsable [0, 3, 3] = true ∧ tgprs.gprsUsable [3, 4, 5] = false :=
  by decide

theorem witness_Quotients :
    (regs 0x80000000 1).gprsUsable [3, 4, 5] = true ∧ (regs 0x80000000 1).readGpr 5 ≠ 0 ∧
    ¬(((regs 0x80000000 1).readGpr 4).toInt = -2 ^ 31 ∧ ((regs 0x80000000 1).readGpr 5).toInt = -1) :=
  by decide

theorem witness_UndefinedQuotients :
    (regs 7 0).gprsUsable [3, 4, 5] = true ∧ (regs 7 0).readGpr 5 = 0 ∧
    (regs 0x80000000 0xFFFFFFFF).readGpr 4 = 0x80000000 ∧ (regs 0x80000000 0xFFFFFFFF).readGpr 5 = 0xFFFFFFFF :=
  by decide

theorem witness_Compares :
    State.reset.gprsUsable [4] = true ∧ State.reset.gprsUsable [4, 5] = true :=
  by decide

theorem witness_ExtendAndCount :
    State.reset.gprsUsable [4, 5] = true :=
  by decide

/-- The value of a datum from its parts. -/
theorem fpValue_of_parts {w : Word} {n : Bool} {k : Nat} {z : Int} (hn : fpNeg w = n) (hk : fpSignificand w = k)
    (hz : fpScale w = z) : fpValue w = (if n then -1 else 1) * (k : ℚ) * (2 : ℚ) ^ z := by
  subst hn hk hz
  rfl

theorem fpValue_one : fpValue 0x3F800000 = 1 := by
  rw [fpValue_of_parts (n := false) (k := 8388608) (z := -23) (by decide) (by decide) (by decide)]
  norm_num

theorem fpValue_zero : fpValue 0 = 0 := by
  rw [fpValue_of_parts (n := false) (k := 0) (z := -149) (by decide) (by decide) (by decide)]
  norm_num

theorem fpValue_tiny : fpValue 0x1F800000 = 2 ^ (-64 : ℤ) := by
  rw [fpValue_of_parts (n := false) (k := 8388608) (z := -87) (by decide) (by decide) (by decide)]
  norm_num

theorem fpValue_least : fpValue 0x00800000 = 2 ^ (-126 : ℤ) := by
  rw [fpValue_of_parts (n := false) (k := 8388608) (z := -149) (by decide) (by decide) (by decide)]
  norm_num

theorem fpValue_next : fpValue 0x80800001 = -(8388609 * 2 ^ (-149 : ℤ)) := by
  rw [fpValue_of_parts (n := true) (k := 8388609) (z := -149) (by decide) (by decide) (by decide)]
  norm_num

theorem fpValue_huge : fpValue 0x7F000000 = 2 ^ (127 : ℕ) := by
  rw [fpValue_of_parts (n := false) (k := 8388608) (z := 104) (by decide) (by decide) (by decide)]
  norm_num

theorem fpValue_half : fpValue 0x73000000 = 2 ^ (103 : ℕ) := by
  rw [fpValue_of_parts (n := false) (k := 8388608) (z := 80) (by decide) (by decide) (by decide)]
  norm_num

theorem fpLargest_eq : fpLargest = 16777215 * 2 ^ (104 : ℕ) := by
  unfold fpLargest
  rw [fpValue_of_parts (n := false) (k := 16777215) (z := 104) (by decide) (by decide) (by decide)]
  norm_num

theorem ready (a b c : Word) (h : (fpFinite a ∧ fpIsDenormal a = false) ∧ (fpFinite b ∧ fpIsDenormal b = false) ∧
    fpFinite c ∧ fpIsDenormal c = false) : FpReady (floats a b c) [1, 2, 3] := by
  refine ⟨(by decide : ((0x00002040 : Word) &&& msrFP != 0) = true), (by decide : ibmBit 0 29 = false), fun r hr => ?_⟩
  simp only [List.mem_cons, List.not_mem_nil, or_false] at hr
  obtain rfl | rfl | rfl := hr
  · exact ⟨(by decide : (ibmBit 0xFFFFFFFF 1 && !ibmBit 0 1) = true), h.1⟩
  · exact ⟨(by decide : (ibmBit 0xFFFFFFFF 2 && !ibmBit 0 2) = true), h.2.1⟩
  · exact ⟨(by decide : (ibmBit 0xFFFFFFFF 3 && !ibmBit 0 3) = true), h.2.2⟩

theorem roundsBeyond_nearest (x : ℚ) : RoundsBeyond 0 x ↔ (2 : ℚ) ^ 128 - (2 : ℚ) ^ 103 ≤ |x| := Iff.rfl

theorem roundsBeyond_zero (x : ℚ) : RoundsBeyond 1 x ↔ (2 : ℚ) ^ 128 ≤ |x| := Iff.rfl

theorem roundsBeyond_up (x : ℚ) : RoundsBeyond 2 x ↔ fpLargest < x ∨ x ≤ -(2 : ℚ) ^ 128 := Iff.rfl

theorem roundsBeyond_down (x : ℚ) : RoundsBeyond 3 x ↔ (2 : ℚ) ^ 128 ≤ x ∨ x < -fpLargest := Iff.rfl

/-- `floats` with an FPSCR. -/
def floatsWith (fpscr a b c : Word) : State := { floats a b c with fpscr := fpscr }

theorem witness_FloatArithmetic :
    FpReady (floats 0x3F800000 0x3F800000 0x3F800000) [1, 2, 3] ∧ FpReady (floats 0x00800000 0 0x3F800000) [1, 2, 3] ∧
    fpValue 0x3F800000 ≠ 0 ∧ fpValue 0x3F800000 - fpValue 0x3F800000 = 0 ∧
    (2 : ℚ) ^ (-126 : ℤ) ≤ |fpValue 0x00800000 + fpValue 0| ∧ ¬RoundsBeyond 0 (fpValue 0x00800000 + fpValue 0) ∧
    ¬RoundsBeyond 0 (fpValue 0x3F800000 - fpValue 0x3F800000) ∧ ¬RoundsBeyond 2 fpLargest ∧ ¬RoundsBeyond 3 fpLargest :=
  by
  refine ⟨ready _ _ _ (by unfold fpFinite; decide), ready _ _ _ (by unfold fpFinite; decide), ?_⟩
  rw [roundsBeyond_nearest, roundsBeyond_nearest, roundsBeyond_up, roundsBeyond_down, fpValue_one, fpLargest_eq,
    fpValue_least, fpValue_zero]
  norm_num

theorem witness_FloatTinyTraps :
    FpReady (floats 0x1F800000 0 0x1F800000) [1, 2, 3] ∧ FpReady (floats 0x00800000 0x80800001 0x3F800000) [1, 2, 3] ∧
    fpValue 0x1F800000 * fpValue 0x1F800000 ≠ 0 ∧ |fpValue 0x1F800000 * fpValue 0x1F800000| < (2 : ℚ) ^ (-126 : ℤ) ∧
    fpValue 0x00800000 + fpValue 0x80800001 ≠ 0 ∧
    |fpValue 0x00800000 + fpValue 0x80800001| < (2 : ℚ) ^ (-126 : ℤ) ∧
    FpReady (floats 1 0x007FFFFF 0) [] ∧ (floats 1 0x007FFFFF 0).isSingle 2 = true ∧
    fpIsDenormal ((floats 1 0x007FFFFF 0).fprData 1) = true ∧ fpIsDenormal ((floats 1 0x007FFFFF 0).fprData 2) = true :=
  by
  refine ⟨ready _ _ _ (by unfold fpFinite; decide), ready _ _ _ (by unfold fpFinite; decide), ?_⟩
  rw [fpValue_tiny, fpValue_least, fpValue_next]
  refine ⟨?_, ?_, ?_, ?_, ⟨rfl, rfl, by simp⟩, by decide⟩ <;> norm_num [abs_of_neg]

theorem witness_FloatOverflow :
    FpReady (floats 0x7F7FFFFF 0x73000000 0) [1, 2, 3] ∧ FpReady (floatsWith 0x00000040 0x7F000000 0x7F000000 0) [1, 2, 3] ∧
    ibmBit (floats 0x7F7FFFFF 0x73000000 0).fpscr 25 = false ∧
    ibmBit (floatsWith 0x00000040 0x7F000000 0x7F000000 0).fpscr 25 = true ∧
    RoundsBeyond 0 (fpLargest + fpValue 0x73000000) ∧ RoundsBeyond 1 (fpValue 0x7F000000 + fpValue 0x7F000000) :=
  by
  refine ⟨ready _ _ _ (by unfold fpFinite; decide), ?_, by decide, by decide, ?_⟩
  · exact ⟨rfl, by decide, (ready _ _ _ (by unfold fpFinite; decide)).2.2⟩
  · rw [roundsBeyond_nearest, roundsBeyond_zero, fpValue_huge, fpLargest_eq, fpValue_half]
    norm_num

theorem witness_FloatZeroDivide :
    FpReady (floats 0x3F800000 0 0) [1, 2, 3] ∧ fpIsZero ((floats 0x3F800000 0 0).fprData 2) = true ∧
    fpIsZero ((floats 0x3F800000 0 0).fprData 1) = false ∧ ibmBit (floatsWith 0x00000010 0 0 0).fpscr 27 = true :=
  ⟨ready _ _ _ (by unfold fpFinite; decide), by decide⟩

theorem witness_FloatInvalid :
    FpReady (floatsWith 0x00000080 0x7F800001 0xFF800000 0) [] ∧ FpReady (floats 0x7F800000 0xFF800000 0) [] ∧
    (∀ r ∈ ([1, 2, 3] : List Reg), (floats 0x7F800001 0xFF800000 0).isSingle r = true ∧
      fpIsDenormal ((floats 0x7F800001 0xFF800000 0).fprData r) = false) ∧
    ibmBit (floatsWith 0x00000080 0x7F800001 0xFF800000 0).fpscr 24 = true ∧
    fpIsNan 0x7F800001 = true ∧ fpIsSnan 0x7F800001 = true ∧ fpIsNan 0x7FC00000 = true ∧ fpIsSnan 0x7FC00000 = false ∧
    fpIsInf 0x7F800000 = true ∧ fpIsNan 0x7F800000 = false ∧ fpIsInf 0x7F7FFFFF = false ∧
    fpNeg 0x7F800000 ≠ fpNeg 0xFF800000 ∧ fpIsZero 0 = true :=
  ⟨⟨rfl, rfl, by simp⟩, ⟨rfl, rfl, by simp⟩, by decide⟩

theorem witness_FloatConversions :
    FpReady (floats 0x40200000 0xCF000000 0x4F000000) [] ∧ FpReady (floatsWith 0x00000080 0x7F800001 0x7F800000 0) [] ∧
    (∀ r ∈ ([1, 2, 3] : List Reg), (floats 0x40200000 0xCF000000 0x4F000000).isSingle r = true ∧
      fpIsDenormal ((floats 0x40200000 0xCF000000 0x4F000000).fprData r) = false) ∧
    (∀ r ∈ ([1, 2] : List Reg), (floatsWith 0x00000080 0x7F800001 0x7F800000 0).isSingle r = true ∧
      fpIsDenormal ((floatsWith 0x00000080 0x7F800001 0x7F800000 0).fprData r) = false) ∧
    fpIsSnan 0x7F800001 = true ∧ fpVXSNAN &&& 0x01F80700 ≠ 0 ∧ fpVXCVI &&& 0x01F80700 ≠ 0 :=
  ⟨⟨rfl, rfl, by simp⟩, ⟨rfl, rfl, by simp⟩, by decide⟩

theorem witness_FloatCompares :
    (floats 0x40200000 0x7FC00000 0).msrBit msrFP = true ∧ (floats 0x40200000 0x7FC00000 0).isSingle 1 = true ∧
    (floats 0x40200000 0x7FC00000 0).isSingle 2 = true ∧ fpIsDenormal ((floats 1 0 0).fprData 1) = true :=
  by decide

theorem witness_FloatMoves :
    (floats 1 2 3).msrBit msrFP = true ∧ (floats 1 2 3).isTagged 2 = true ∧ (floats 1 2 3).isSingle 1 = true ∧
    ((floats 1 2 3).writeFpr 2 7 false).isTagged 2 = true :=
  by decide

theorem witness_FpscrMoves :
    (floats 1 2 3).msrBit msrFP = true ∧ (floats 1 2 3).msr &&& 0x00000900 = 0 ∧ (floats 1 2 3).isTagged 2 = true :=
  by decide

/-- In real mode an address is its own place. -/
theorem real_places {s : State} (h : s.msrBit msrDR = false) (ea : Word) (store : Bool) : translateData s ea store = .ok ea := by
  simp [translateData, dataMapping, checkMapping, h]

/-- Blocks 0 and 1 of the address space: the first may be read and written, the second not at all. -/
def edge : State := blocks 0x00000002 0x00000002 0x00020002 0x00000000

theorem edge_inside (ea : Word) (store : Bool) (h : ea = 0x1FFFC ∨ ea = 0x1FFFE ∨ ea = 0x1FFFF) :
    translateData edge ea store = .ok ea := by
  obtain rfl | rfl | rfl := h <;> cases store <;> rfl

theorem edge_outside (ea : Word) (store : Bool) (h : ea = 0x20000) :
    translateData edge ea store = .error (.dsi true false store ea) := by
  obtain rfl := h
  cases store <;> rfl

theorem witness_IntegerLoads :
    State.reset.gprsUsable [3, 4, 5] = true ∧ State.reset.leView = false ∧ Places State.reset 8 4 false (placesFrom 8 4) ∧
    Places State.reset 0xFFFFFFFF 2 false [0xFFFFFFFF, 0] ∧ (4 : Reg) ≠ 0 ∧ (4 : Reg) ≠ 3 ∧
    NoTea State.reset 1 [0xFFFFFFFF, 0] ∧ TeaComes { State.reset with amid := [[.teaLoad]] } 1 :=
  by
  refine ⟨rfl, rfl, ?_, ?_, by decide, by decide, ⟨?_, fun _ _ => rfl⟩, .inr ⟨_, .head _, .head _⟩⟩
  · exact (if_pos (by decide)).mpr ⟨8, rfl, rfl⟩
  · exact (if_neg (by decide)).mpr (.cons rfl (.cons rfl .nil))
  · rintro (h | ⟨_, h, _⟩) <;> cases h

theorem witness_IntegerLoads_stop :
    edge.gprsUsable [3, 4, 5] = true ∧ edge.leView = false ∧ (0x1FFFE : Word).toNat % 4 ≠ 0 ∧
    (∀ j, j < 2 → ∃ pa, translateData edge (0x1FFFE + BitVec.ofNat 32 j) false = .ok pa) ∧
    (∃ e, translateData edge (0x1FFFE + BitVec.ofNat 32 2) false = .error e) ∧
    (0x20000 : Word).toNat % 4 = 0 ∧ ∃ e, translateData edge (0x20000 + BitVec.ofNat 32 0) false = .error e :=
  by
  refine ⟨rfl, rfl, by decide, fun j hj => ?_, ⟨_, edge_outside _ _ rfl⟩, by decide, ⟨_, edge_outside _ _ rfl⟩⟩
  interval_cases j
  · exact ⟨_, edge_inside _ _ (by decide)⟩
  · exact ⟨_, edge_inside _ _ (by decide)⟩

theorem witness_IntegerStores :
    State.reset.gprsUsable [3, 4, 5] = true ∧ State.reset.leView = false ∧ State.reset.mem.wf = true ∧
    Places State.reset 8 4 true (placesFrom 8 4) ∧ Places State.reset 0xFFFFFFFF 2 true [0xFFFFFFFF, 0] ∧ (4 : Reg) ≠ 0 :=
  by
  refine ⟨rfl, rfl, rfl, ?_, ?_, by decide⟩
  · exact (if_pos (by decide)).mpr ⟨8, rfl, rfl⟩
  · exact (if_neg (by decide)).mpr (.cons rfl (.cons rfl .nil))

theorem witness_IntegerStores_stop :
    edge.gprsUsable [3, 4, 5] = true ∧ edge.leView = false ∧ edge.mem.wf = true ∧
    List.Forall₂ (fun j pa => translateData edge (0x1FFFE + BitVec.ofNat 32 j) true = .ok pa) (List.range 2)
      [0x1FFFE, 0x1FFFF] ∧
    (∃ e, translateData edge (0x1FFFE + BitVec.ofNat 32 2) true = .error e) ∧
    ∃ e, translateData edge (0x20000 + BitVec.ofNat 32 0) true = .error e :=
  ⟨rfl, rfl, rfl, .cons (edge_inside _ _ (by decide)) (.cons (edge_inside _ _ (by decide)) .nil), ⟨_, edge_outside _ _ rfl⟩,
    ⟨_, edge_outside _ _ rfl⟩⟩

/-- The double image of a single has its low bits 0. -/
theorem toDouble_low (v : Word) : (toDouble v).getLsbD 0 = false := by
  unfold toDouble
  split_ifs <;> (rw [BitVec.getLsbD_append]; rfl)

theorem witness_FloatLoads :
    let s := withMem (floats 0 0 0) [(15, 1)]
    s.msrBit msrFP = true ∧ s.gprsUsable [4, 5] = true ∧ s.leView = false ∧ (8 : Word).toNat % 4 = 0 ∧
    translateData s 8 false = .ok 8 ∧ translateData s (8 + 4) false = .ok 12 ∧
    (∀ v, toDouble v ≠ BitVec.ofNat 64 (bigEndian ((placesFrom 8 4 ++ placesFrom 12 4).map (readByte s)))) ∧
    toDouble 0 = BitVec.ofNat 64 (bigEndian ((placesFrom 16 4 ++ placesFrom 20 4).map (readByte s))) :=
  by
  refine ⟨rfl, rfl, rfl, rfl, rfl, rfl, fun v h => ?_, by decide⟩
  have h1 := toDouble_low v
  rw [h] at h1
  revert h1
  decide

theorem witness_FloatStores :
    let s := (floats 0 0 0).writeFpr 2 7 false
    s.msrBit msrFP = true ∧ s.gprsUsable [4, 5] = true ∧ s.leView = false ∧ s.mem.wf = true ∧
    translateData s 8 true = .ok 8 ∧ translateData s (8 + 4) true = .ok 12 ∧
    (∀ a ∈ placesFrom 8 4, a ∉ placesFrom 12 4) ∧ s.isSingle 1 = true ∧ s.isIntTagged 2 = true :=
  ⟨by decide, by decide, by decide, by decide, real_places (by decide) _ _, real_places (by decide) _ _,
    by simp [placesFrom]; decide, by decide, by decide⟩

theorem witness_FloatLoads_stop :
    let s := { edge with msr := 0x00002050 }
    s.msrBit msrFP = true ∧ s.gprsUsable [4, 5] = true ∧ s.leView = false ∧ s.mem.wf = true ∧ s.isSingle 1 = true ∧
    (0x1FFFC : Word).toNat % 4 = 0 ∧ (∃ pa, translateData s 0x1FFFC false = .ok pa) ∧
    (∃ e, translateData s (0x1FFFC + 4) false = .error e) ∧ (∃ pa, translateData s 0x1FFFC true = .ok pa) ∧
    (∃ e, translateData s (0x1FFFC + 4) true = .error e) ∧ ∃ e, translateData s 0x20000 false = .error e :=
  ⟨rfl, rfl, rfl, rfl, by decide, rfl, ⟨_, rfl⟩, ⟨_, rfl⟩, ⟨_, rfl⟩, ⟨_, rfl⟩, ⟨_, rfl⟩⟩

theorem witness_LoadStoreMultiple_stop :
    edge.gprsUsable [30, 31, 4] = true ∧ edge.leView = false ∧ edge.mem.wf = true ∧ (0x1FFFC : Word).toNat % 4 = 0 ∧
    (∀ j, j < 1 → translateData edge (0x1FFFC + BitVec.ofNat 32 (4 * j)) false = .ok 0x1FFFC) ∧
    (∃ e, translateData edge (0x1FFFC + BitVec.ofNat 32 (4 * 1)) false = .error e) ∧
    (∀ j, j < 1 → translateData edge (0x1FFFC + BitVec.ofNat 32 (4 * j)) true = .ok 0x1FFFC) ∧
    ∃ e, translateData edge (0x1FFFC + BitVec.ofNat 32 (4 * 1)) true = .error e :=
  by
  refine ⟨rfl, rfl, rfl, rfl, fun j hj => ?_, ⟨_, edge_outside _ _ rfl⟩, fun j hj => ?_, ⟨_, edge_outside _ _ rfl⟩⟩ <;>
  · interval_cases j
    exact edge_inside _ _ (by decide)

theorem witness_LoadStoreMultiple :
    State.reset.gprsUsable [30, 31, 4] = true ∧ State.reset.leView = false ∧ (4 : Reg) < 30 ∧ State.reset.mem.wf = true ∧
    (∀ k, k < 32 - (30 : Reg).toNat → translateData State.reset (8 + BitVec.ofNat 32 (4 * k)) false =
      .ok (8 + BitVec.ofNat 32 (4 * k))) ∧
    (∀ k, k < 32 - (30 : Reg).toNat → translateData State.reset (8 + BitVec.ofNat 32 (4 * k)) true =
      .ok (8 + BitVec.ofNat 32 (4 * k))) ∧
    (∀ k, k < 2 → ∀ j, j < k → ∀ a ∈ placesFrom (8 + BitVec.ofNat 32 (4 * j)) 4,
      a ∉ placesFrom (8 + BitVec.ofNat 32 (4 * k)) 4) :=
  ⟨rfl, rfl, by decide, rfl, fun _ _ => real_places rfl _ _, fun _ _ => real_places rfl _ _,
    fun k hk j hj => by interval_cases k <;> interval_cases j; simp [placesFrom]; decide⟩

theorem witness_Reservations :
    State.reset.gprsUsable [3, 4, 5] = true ∧ State.reset.leView = false ∧ State.reset.mem.wf = true ∧
    translateData State.reset 0x44 false = .ok 0x44 ∧ translateData State.reset 0x44 true = .ok 0x44 ∧
    State.reset.reserve = none ∧ { State.reset with reserve := some 0x40 }.reserve = some (BitVec.ofNat 32 (0x44 / 32 * 32)) :=
  ⟨rfl, rfl, rfl, rfl, rfl, rfl, by decide⟩

theorem witness_Reservations_stop :
    edge.gprsUsable [3, 4, 5] = true ∧ edge.leView = false ∧ (0x20000 : Word).toNat % 4 = 0 ∧
    (∃ e, translateData edge 0x20000 false = .error e) ∧ ∃ e, translateData edge 0x20000 true = .error e :=
  ⟨rfl, rfl, rfl, ⟨_, edge_outside _ _ rfl⟩, ⟨_, edge_outside _ _ rfl⟩⟩

theorem witness_MisalignedOperands :
    (floats 0 0 0).gprsUsable [3, 31, 2] = true ∧ (2 : Reg) < 3 ∧ (2 : Word).toNat % 4 ≠ 0 ∧ (2 : Reg) ≠ 0 ∧ (2 : Reg) ≠ 3 ∧
    (floats 0 0 0).gprsUsable [3, 2, 5] = true ∧ (floats 0 0 0).msrBit msrFP = true ∧ (floats 0 0 0).isSingle 3 = true ∧
    ((floats 0 0 0).writeFpr 3 7 false).isIntTagged 3 = true ∧
    (let s := { floats 0 0 0 with msr := 0x00002041 }
     s.leView = true ∧ s.prView = false ∧ s.msrBit msrFP = true ∧ s.gprsUsable [3, 2, 5] = true ∧ s.isSingle 3 = true) ∧
    (12 : Word).toNat % 4 = 0 ∧ (12 : Word).toNat % 8 ≠ 0 ∧ (1 : Word).toNat % 2 ≠ 0 ∧ (8 : Word).toNat % 8 = 0 :=
  by decide

theorem witness_Branches :
    boOk 0b00000 = true ∧ boOk 0b10100 = true ∧ (0b10100 : BitVec 5).getLsbD 2 = true ∧ boOk 0b01100 = true :=
  by decide

theorem witness_Traps :
    (regs 5 7).gprsUsable [4, 5] = true ∧ (regs 5 7).gprsUsable [4] = true ∧
    ((16 : BitVec 5).getLsbD 4 = true ∧ ((regs 5 7).readGpr 4).toInt < ((regs 5 7).readGpr 5).toInt) :=
  by decide

theorem witness_ConditionRegister :
    State.reset.gprsUsable [4] = true :=
  by decide

theorem witness_ReturnFromInterrupt :
    State.reset.prView = false ∧ ibmBit State.reset.fpscr 1 = false ∧ user.prView = true ∧
    (let s := { State.reset with srr1 := 0x00000940, fpscr := 0x60000080 }
     s.prView = false ∧ (((s.srr1 &&& 0x00C0FF73) ||| (s.msr &&& ~~~0x00C0FF73)) &&& ~~~0x00020000) &&& 0x00000900 ≠ 0 ∧
     ibmBit s.fpscr 1 = true) :=
  by decide

theorem witness_SpecialRegisterMoves :
    State.reset.gprsUsable [4] = true ∧ user.prView = true ∧ (9 : BitVec 10).getLsbD 4 = false ∧
    (∃ p ∈ specialRegisters, p.num = 1) ∧ (∃ p ∈ specialRegisters, p.num = 1022) ∧ (∃ p ∈ specialRegisters, p.num = 543) ∧
    State.reset.windows = [] ∧
    State.reset.prView = false :=
  ⟨rfl, rfl, rfl, ⟨_, List.mem_cons_self, rfl⟩, ⟨wholeRow 1022 (·.lt), by simp [specialRegisters], rfl⟩,
    ⟨_, List.mem_append_left _ (List.mem_append_right _ (List.mem_map.mpr ⟨7, List.mem_finRange _, rfl⟩)), rfl⟩, rfl, rfl⟩

theorem witness_TimerRegisterMoves :
    State.reset.gprsUsable [4] = true ∧ (267 : BitVec 10) ≠ 268 ∧ (267 : BitVec 10) ≠ 269 ∧ State.reset.prView = false :=
  by decide

/-- The positions of the HID0 fields are distinct. -/
theorem hid0_distinct : (hid0Positions hid0Layout).Nodup := by
  unfold hid0Layout
  split
  · assumption
  · decide

theorem witness_MachineStateMoves :
    State.reset.gprsUsable [4] = true ∧ State.reset.prView = false ∧ State.reset.readGpr 4 &&& 0x00040000 = 0 ∧
    (regs 0x00040000 0).readGpr 4 &&& 0x00040000 ≠ 0 ∧ (regs 0x00040000 0).windows = [] ∧
    ibmBit State.reset.fpscr 1 = false ∧ State.reset.msr &&& 0x00000900 = 0 ∧ (regs 0x00000100 0).readGpr 4 &&& 0x00000900 ≠ 0 ∧
    ibmBit { State.reset with fpscr := 0x40000000 }.fpscr 1 = true :=
  by decide

/-- A HID0 that selects doze alone, and one that selects every mode. -/
theorem witness_MachineStateMoves_select :
    let doze : Word := 1#32 <<< hid0Layout.doze.val
    (doze.getLsbD hid0Layout.doze.val = true ∧ doze.getLsbD hid0Layout.nap.val = false ∧
      doze.getLsbD hid0Layout.sleep.val = false) ∧
    (0xFFFFFFFF : Word).getLsbD hid0Layout.doze.val = true ∧ (0xFFFFFFFF : Word).getLsbD hid0Layout.nap.val = true ∧
    (0 : Word).getLsbD hid0Layout.doze.val = false := by
  have h : ∀ a b : Fin 32, (1#32 <<< a.val).getLsbD b.val = decide (a = b) := by decide
  have all : ∀ a : Fin 32, (0xFFFFFFFF : Word).getLsbD a.val = true ∧ (0 : Word).getLsbD a.val = false := by decide
  have d := hid0_distinct
  simp only [hid0Positions, List.nodup_cons, List.mem_cons, not_or] at d
  refine ⟨⟨?_, ?_, ?_⟩, (all _).1, (all _).1, (all _).2⟩ <;> rw [h]
  · simp
  · exact decide_eq_false d.2.2.2.2.2.1.1
  · exact decide_eq_false d.2.2.2.2.2.1.2.1

theorem witness_SupervisorAccess :
    esaPermitted (ibats 0x0001FF86) = true ∧ esaPermitted State.reset = false ∧ State.reset.prView = false ∧
    user.prView = true :=
  by
  have h : ∀ k : Fin 11, (0x0001FF86 : Word).getLsbD (ibatReservedBit k) = true := by decide
  refine ⟨?_, rfl, rfl, rfl⟩
  show (0x0001FF86 : Word).getLsbD ibatSeBit = true
  exact h _

theorem witness_PrivilegedInstructions :
    user.prView = true ∧ (27 : BitVec 10).getLsbD 4 = true ∧ (0 : BitVec 10) ∉ specialRegisters.map (·.num) ∧ (16 : BitVec 10) ∉ specialRegisters.map (·.num) ∧
    (268 : BitVec 10) ∉ specialRegisters.map (·.num) :=
  by
  refine ⟨rfl, rfl, ?_, ?_, ?_⟩ <;> (simp only [specialRegisters, List.map_append, List.map_map, List.mem_append]; decide)

theorem witness_FloatUnavailable :
    State.reset.msrBit msrFP = false ∧ (4 : Reg) ≠ 0 ∧
    (let s := (floats 0 0 0).writeFpr 2 7 false
     s.msrBit msrFP = true ∧ s.isSingle 2 = false ∧ s.isTagged 2 = true ∧ s.isSingle 1 = true ∧ s.gprsUsable [4, 5] = true) ∧
    (let s := { floats 0 0 0 with sp := 0x7FFFFFFF, lt := 0x40000000 }
     s.msrBit msrFP = true ∧ s.isTagged 0 = false ∧ s.isTagged 1 = false ∧ s.isIntTagged 0 = false ∧ s.isSingle 2 = true) :=
  by decide

theorem witness_InvalidForms :
    boOk 0b00111 = false ∧ (0b10000 : BitVec 5).getLsbD 2 = false ∧ (4 : Reg) ≤ 4 ∧ tgprs.msr &&& 0x00020000 ≠ 0 ∧
    (∃ x ∈ ([4, 0, 3] : List Reg), 4 ≤ x) ∧ (∃ x ∈ ([31] : List Reg), 4 ≤ x) ∧ tgprs.prView = false ∧
    { tgprs with msr := 0x00022040 }.msr &&& 0x00002000 ≠ 0 ∧ { tgprs with msr := 0x00022040 }.msr &&& 0x00020000 ≠ 0 :=
  by decide

theorem witness_CacheBlockZero :
    let s := blocks 0x00000002 0x00000042 0 0
    let r := blocks 0x00000002 0x00000001 0 0
    s.gprsUsable [4, 5] = true ∧ s.leView = false ∧ s.mem.wf = true ∧
    (∃ m, dataMapping s 8 true = .ok m ∧ m.wi = true) ∧
    (∃ m, dataMapping r 8 true = .ok m ∧ m.wi = false ∧ ∃ e, checkMapping 8 true m = .error e) ∧
    (∃ m pa, dataMapping State.reset 8 true = .ok m ∧ m.wi = false ∧ checkMapping 8 true m = .ok pa) ∧
    ∃ e, dataMapping (blocks 0x00000002 0x00000042 0x00000002 0x00000042) 8 true = .error e :=
  ⟨rfl, rfl, rfl, ⟨_, rfl, rfl⟩, ⟨_, rfl, rfl, _, rfl⟩, ⟨_, _, rfl, rfl, rfl⟩, ⟨_, rfl⟩⟩

theorem witness_CacheManagement :
    State.reset.gprsUsable [4, 5] = true ∧ State.reset.leView = false ∧ State.reset.prView = false ∧ State.reset.mem.wf = true ∧
    translateData State.reset 8 false = .ok 8 ∧ translateData State.reset 8 true = .ok 8 ∧ State.reset.stale = [] ∧ State.reset.cached = [] ∧
    (∃ e, translateData (blocks 0x00000002 0 0 0) 8 false = .error e) ∧
    (after (.stw 5 4 0) (regs 8 7)).stale = [{ addr := 8, old := 0, phase := .stored }] ∧
    (∃ e ∈ (after (.dcbst 0 4) (after (.stw 5 4 0) (regs 8 7))).stale, e.discarded = false ∧ e.phase = .pushed) ∧
    (∃ e ∈ { State.reset with cached := [(31, 7)] }.cached, BitVec.ofNat 32 e.1 ∈ placesFrom 0 32) :=
  ⟨rfl, rfl, rfl, rfl, rfl, rfl, rfl, rfl, ⟨_, rfl⟩, by decide, by decide, by decide⟩

theorem witness_CodeModification :
    let s := after (.stw 5 4 0) (regs 8 7)
    s.gprsUsable [4, 5] = true ∧ s.leView = false ∧ s.windows = [] ∧ translateData s 8 false = .ok 8 ∧ s.noMemory 8 = false :=
  ⟨by decide, by decide, by decide, real_places (by decide) _ _, by decide⟩

theorem witness_SegmentRegisterMoves :
    State.reset.gprsUsable [4, 5] = true ∧ State.reset.prView = false :=
  by decide

/-- With HID0 zero protection-only mode is off. -/
theorem protectionOnly_off {s : State} (hw : s.windows = []) (h : s.hid0 = 0) : protectionOnly s = false := by
  simp [protectionOnly, hid0Field, State.hid0View, view_of_no_window s _ _ hw, State.ctx, h]

theorem witness_TlbInstructions :
    State.reset.gprsUsable [4] = true ∧ State.reset.prView = false :=
  by decide

/-- A block translation matches an address: the hypothesis of the statements on translation. -/
def hits (bats : Vector Word 8) (user : Bool) (ea : Word) (k : Fin 4) : Prop :=
  (∀ j, j < 15 → ibmBit (BitVec.ofNat 32 (bats[2 * k.val].toNat / 4 % 2 ^ 11 * 2 ^ 17)) j = false →
    ibmBit ea j = ibmBit bats[2 * k.val] j) ∧ ibmBit bats[2 * k.val] (if user then 31 else 30) = true

/-- A page entry matches. -/
def found (e : TlbEntry) (sr ea : Word) : Prop :=
  e.valid = true ∧ e.vsid = sr.setWidth 24 ∧ e.page.extractLsb' 4 12 = ea.extractLsb' 16 12

theorem witness_DataTranslation :
    let one := blocks 0x00000002 0x00000002 0 0
    let two := blocks 0x00000002 0x00000002 0x00000002 0x00000002
    let page := pages 0x00000050 5 0x00000082
    ibmBit State.reset.msr 27 = false ∧ ibmBit one.msr 27 = true ∧ ibmBit one.msr 8 = false ∧ one.windows = [] ∧
    (hits one.dbat false 8 0 ∧ ∀ j, j ≠ 0 → ¬hits one.dbat false 8 j) ∧
    (hits two.dbat false 8 0 ∧ hits two.dbat false 8 1) ∧
    (∀ k, ¬hits page.dbat false 8 k) ∧ protectionOnly page = false ∧
    ibmBit (page.sr.get 0) 0 = false ∧ ibmBit ((pages 0x00000050 0x80000000 0).sr.get 0) 0 = true ∧
    found (page.dtlb.get (tlbIndex 0 false)) (page.sr.get 0) 8 ∧ ¬found (page.dtlb.get (tlbIndex 0 true)) (page.sr.get 0) 8 ∧
    ¬found (page.dtlb.get (tlbIndex 0 false)) 6 8 :=
  by
  refine ⟨rfl, rfl, rfl, rfl, ?_, ?_, ?_, protectionOnly_off rfl rfl, ?_⟩ <;> (simp only [hits, found]; decide)

/-- Protection-only mode, way 0 of every set of both TLBs for segment 0 and the first 128 Kbytes. -/
def regions : State :=
  { State.reset with
    msr := 0x00000050
    hid0 := 0xFFFFFFFF
    cia := 0x00000100
    itlb := Vector.ofFn fun k => { valid := decide (k.val % 2 = 0), vsid := 0, page := 0, pte1 := 0 }
    dtlb := Vector.ofFn fun k => { valid := decide (k.val % 2 = 0), vsid := 0, page := 0, pte1 := 0 } }

theorem witness_DataTranslation_protectionOnly :
    protectionOnly regions = true ∧
    (∀ set, (regions.dtlb.get (tlbIndex set false)).valid = true ∧ (regions.dtlb.get (tlbIndex set false)).vsid = 0 ∧
      (regions.dtlb.get (tlbIndex set false)).page.extractLsb' 5 15 = (8 : Word).extractLsb' 17 15) ∧
    ∀ set, (regions.dtlb.get (tlbIndex set true)).valid = false := by
  refine ⟨?_, fun set => ?_, fun set => ?_⟩
  · have h : ∀ k : Fin 32, (0xFFFFFFFF : Word).getLsbD k.val = true := by decide
    exact h _
  · have h : ∀ k : Fin 16, (regions.dtlb.get (tlbIndex (BitVec.ofFin k) false)).valid = true ∧
        (regions.dtlb.get (tlbIndex (BitVec.ofFin k) false)).vsid = 0 ∧
        (regions.dtlb.get (tlbIndex (BitVec.ofFin k) false)).page.extractLsb' 5 15 = (8 : Word).extractLsb' 17 15 := by
      decide
    exact h set.toFin
  · have h : ∀ k : Fin 16, (regions.dtlb.get (tlbIndex (BitVec.ofFin k) true)).valid = false := by decide
    exact h set.toFin

theorem witness_InstructionFetch :
    let page := pages 0x00000060 5 0x00000082
    page.windows = [] ∧ page.leView = false ∧ ibmBit State.reset.msr 26 = false ∧ ibmBit page.msr 26 = true ∧
    (hits (ibats 2).ibat false 0xFFF00100 0 ∧ ∀ j, j ≠ 0 → ¬hits (ibats 2).ibat false 0xFFF00100 j) ∧
    (∀ k, ¬hits page.ibat false page.cia k) ∧ protectionOnly page = false ∧
    ibmBit (page.sr.get 0) 0 = false ∧ ibmBit ((pages 0x00000060 0x80000000 0).sr.get 0) 0 = true ∧
    found (page.itlb.get (tlbIndex 0 false)) (page.sr.get 0) page.cia ∧
    ¬found (page.itlb.get (tlbIndex 0 true)) (page.sr.get 0) page.cia ∧
    ¬found (page.itlb.get (tlbIndex 0 false)) 6 page.cia :=
  by
  refine ⟨rfl, rfl, rfl, rfl, ?_, ?_, protectionOnly_off rfl rfl, ?_⟩ <;> (simp only [hits, found]; decide)

theorem witness_InstructionFetch_others :
    (hits (ibats 2).ibat false 0xFFF00100 0 ∧
      hits { ibats 2 with ibat := Vector.ofFn fun k => if k.val % 2 = 0 then 0xFFF00002 else 2 }.ibat false 0xFFF00100 1 ∧
      hits { ibats 2 with ibat := Vector.ofFn fun k => if k.val % 2 = 0 then 0xFFF00002 else 2 }.ibat false 0xFFF00100 0) ∧
    (∀ k, ¬hits regions.ibat false regions.cia k) ∧ ibmBit { regions with msr := 0x00000060 }.msr 26 = true ∧
    protectionOnly { regions with msr := 0x00000060 } = true ∧ regions.itlb = regions.dtlb :=
  by
  refine ⟨?_, ?_, rfl, ?_, rfl⟩
  · simp only [hits]; decide
  · simp only [hits]; decide
  · have h : ∀ k : Fin 32, (0xFFFFFFFF : Word).getLsbD k.val = true := by decide
    exact h _

theorem witness_BoundaryOrder :
    (beginStep { State.reset with pins := { State.reset.pins with hreset := true } }).pins.hreset = true ∧
    State.reset.power = .full ∧
    (beginStep { State.reset with checkstop := true }).checkstop = true ∧
    (beginStep { State.reset with env := [[.mcp]], msr := 0x1040 }).mcheckPending = true ∧
    (beginStep { State.reset with env := [[.tea]] }).mcheckPending = true ∧ ibmBit State.reset.msr 19 = false ∧
    (beginStep { State.reset with env := [[.sreset]] }).sresetPending = true ∧
    (beginStep { State.reset with wdtResetPending := true }).wdtResetPending = true ∧
    (beginStep { State.reset with env := [[.smi true, .int true]], msr := 0x8040 }).pins.smi = true ∧
    (beginStep { State.reset with env := [[.int true]], msr := 0x8040 }).pins.int = true ∧
    (beginStep { State.reset with decPending := true, msr := 0x8040 }).decPending = true ∧
    (beginStep { State.reset with wdtPending := true, msr := 0x8040 }).wdtPending = true ∧
    ibmBit (beginStep { State.reset with wdtPending := true, msr := 0x8040 }).msr 16 = true ∧
    (beginStep { State.reset with power := .doze }).power ≠ .full ∧
    (beginStep { State.reset with powPending := some .nap }).powPending = some .nap :=
  by decide

theorem witness_Timers :
    let s := { State.reset with tb := BitVec.allOnes 64, tcr := { State.reset.tcr with we := true } }
    let bit := (Config.wdtBit s.tcr.wp).val
    (s.pins.tben = true ∧ s.power ≠ .sleep) ∧ (s.tcr.we = true ∧ s.tb.getLsbD bit = true ∧ (s.tb + 1).getLsbD bit = false) ∧
    s.tcr.ws = false ∧ ¬({ s with power := .sleep }.power ≠ .sleep) :=
  by
  refine ⟨by decide, ⟨rfl, ?_, ?_⟩, rfl, by decide⟩
  · show (BitVec.allOnes 64).getLsbD _ = true
    rw [BitVec.getLsbD_allOnes]
    simp
  · have : (BitVec.allOnes 64 + 1 : BitVec 64) = 0 := by decide
    show (BitVec.allOnes 64 + 1 : BitVec 64).getLsbD _ = false
    rw [this]
    simp

/-- addi r3,r0,1 at the reset vector. -/
def boot : State := withMem State.reset [(0xFFF00100, 0x38), (0xFFF00101, 0x60), (0xFFF00103, 0x01)]

theorem witness_StepRunsInstruction :
    (∃ u t, atBoundary (beginStep boot) = .runs u ∧ fetch u = .ok 0x38600001 ∧ iabrHit u = false ∧
      decode 0x38600001 = .ok (.addi 3 0 1) ∧ exec (.addi 3 0 1) u = .next t ∧ ibmBit u.msr 21 = false ∧ t.taken = none) ∧
    (∃ u t, atBoundary (beginStep { boot with msr := 0x440 }) = .runs u ∧ fetch u = .ok 0x38600001 ∧
      exec (.addi 3 0 1) u = .next t ∧ ibmBit u.msr 21 = true ∧ t.taken = none) ∧
    (beginStep boot).windows = [] ∧
    (∃ u, atBoundary (beginStep { boot with iabr := 0xFFF00102 }) = .runs u ∧ iabrHit u = true) ∧
    (∃ u, atBoundary (beginStep State.reset) = .runs u ∧ fetch u = .ok 0 ∧ decode 0 = .error .illegal) ∧
    decode 0x7C600125 = .error .invalidForm :=
  ⟨⟨_, _, rfl, rfl, rfl, by decide, rfl, rfl, rfl⟩, ⟨_, _, rfl, rfl, rfl, rfl, rfl⟩, rfl, ⟨_, rfl, rfl⟩, ⟨_, rfl, rfl, by decide⟩, by decide⟩

theorem witness_DecodeEncode :
    (Instr.lwzu 3 4 8).wellFormed = true ∧ (Instr.lwzu 31 1 0xFFFF).wellFormed = true ∧
    decode 0xEC3F102C = .ok (.fsqrts 1 2 false) ∧ encode (.fsqrts 1 2 false) ≠ 0xEC3F102C :=
  by decide

theorem witness_StepKeepsInvariant :
    Inv State.reset ∧ (∃ t, step State.reset = .next t) ∧ ∃ t, step boot = .next t :=
  ⟨⟨rfl, rfl, rfl, rfl, rfl, by simp [State.reset]⟩, ⟨_, rfl⟩, ⟨_, rfl⟩⟩

theorem witness_UserModeConfined :
    user.prView = true ∧ user.taken = none ∧ (∃ t, exec (.addi 3 0 1) user = .next t ∧ t.taken = none) ∧
    (∃ t e, exec .rfi user = .next t ∧ t.taken = some e) ∧
    ∃ t, exec .esa { ibats 0x0001FF87 with msr := 0x00004060, ibat := ((Vector.replicate 8 0).set 0 0xFFF00003).set 1 0x0001FF86 } =
      .next t :=
  by
  refine ⟨rfl, rfl, ⟨_, rfl, rfl⟩, ⟨_, _, rfl, rfl⟩, ?_⟩
  rw [show exec .esa _ = execEsa _ from rfl]
  unfold execEsa
  split
  · exact ⟨_, rfl⟩
  · exact ⟨_, rfl⟩

end Sys2Proof.Tests
end

section
/-!
SUPPORT. The invariant that every step keeps, the floating-point moves, and the moves of segment registers, TLB entries and
special registers. The option below has each proof run in the order of the text: a proof left pending costs a thread, and
the check bounds what one process may hold.
-/
set_option deprecated.oldSectionVars true

/-!
Which operations keep the invariant `Inv`, and that every step does (O59).
-/
namespace Sys2Proof.Machine

/- Words inside a mask. -/

theorem outside_or {m a b : Word} (ha : a &&& ~~~m = 0) (hb : b &&& ~~~m = 0) : (a ||| b) &&& ~~~m = 0 := by
  rw [BitVec.and_or_distrib_right, ha, hb]; rfl

theorem outside_and_left {m a b : Word} (ha : a &&& ~~~m = 0) : (a &&& b) &&& ~~~m = 0 := by
  rw [BitVec.and_assoc, BitVec.and_comm b, ← BitVec.and_assoc, ha]
  exact BitVec.zero_and

theorem outside_and_right {m a b : Word} (hb : b &&& ~~~m = 0) : (a &&& b) &&& ~~~m = 0 := by
  rw [BitVec.and_assoc, hb]
  exact BitVec.and_zero

theorem outside_maskIf {m k : Word} (b : Bool) (hk : k &&& ~~~m = 0) : maskIf b k &&& ~~~m = 0 := by
  cases b
  · exact BitVec.zero_and
  · exact hk

theorem outside_merge {m k v w : Word} (hk : k &&& ~~~m = 0) (hw : w &&& ~~~m = 0) : merge k v w &&& ~~~m = 0 :=
  outside_or (outside_and_right hk) (outside_and_left hw)

theorem outside_setIbmBit {m w : Word} (k : Nat) (b : Bool) (hk : (0x80000000#32 >>> k) &&& ~~~m = 0)
    (hw : w &&& ~~~m = 0) : setIbmBit w k b &&& ~~~m = 0 := by
  cases b
  · exact outside_and_left hw
  · exact outside_or hw hk

/- Instruction addresses (spec/10_state.md R42). -/

theorem wordAlign_aligned (a : Word) : wordAlign a &&& 3 = 0 := outside_and_right (m := ~~~3) rfl

theorem aligned_add_four {a : Word} (h : a &&& 3 = 0) : (a + 4) &&& 3 = 0 := by
  have h3 (x : Word) : x &&& 3 = 0 ↔ x.toNat % 4 = 0 := by
    rw [← BitVec.toNat_inj, BitVec.toNat_and]
    exact iff_of_eq (congrArg (· = 0) (Nat.and_two_pow_sub_one_eq_mod x.toNat 2))
  rw [h3] at h ⊢
  have := a.isLt
  rw [BitVec.toNat_add]
  change (a.toNat + 4) % 2 ^ 32 % 4 = 0
  omega

/- The MSR (spec/10_state.md R61). -/

theorem entryMsr_implemented (e : Exception) (old : Word) : entryMsr e old &&& ~~~msrImplemented = 0 := by
  have hkept : (old &&& (if e = .machineCheck then msrEntryKeep &&& ~~~msrME else msrEntryKeep)) &&&
      ~~~msrImplemented = 0 := by
    refine outside_and_right ?_
    split <;> decide
  exact outside_or (outside_or hkept (outside_maskIf _ rfl)) (outside_maskIf _ rfl)

/- The FPSCR (spec/10_state.md R51, R52). -/

/-- The FPSCR without FEX, VX and the reserved bit. -/
def fpscrStored : Word := 0x9FFFF7FF

theorem and_eq_of_stored {f g m : Word} (hm : fpscrStored &&& m = m) (h : f &&& fpscrStored = g &&& fpscrStored) :
    f &&& m = g &&& m := by
  rw [← hm, ← BitVec.and_assoc, h, BitVec.and_assoc]

/-- The summaries are computed from the other bits only. -/
theorem fpNormalize_congr {f g : Word} (h : f &&& fpscrStored = g &&& fpscrStored) : fpNormalize f = fpNormalize g := by
  have hi : f &&& fpInvalidBits = g &&& fpInvalidBits := and_eq_of_stored rfl h
  have he : f &&& 0xF8 = g &&& 0xF8 := and_eq_of_stored rfl h
  have hs : f &&& 0x9FFFF7FF = g &&& 0x9FFFF7FF := h
  simp only [fpNormalize, fpBit, hi, he, hs]

theorem fpNormalize_stored (f : Word) : fpNormalize f &&& fpscrStored = f &&& fpscrStored := by
  have hb (b : Bool) (k x : Word) (hk : k &&& fpscrStored = 0) :
      (x ||| maskIf b k) &&& fpscrStored = x &&& fpscrStored := by
    have : maskIf b k &&& fpscrStored = 0 := outside_maskIf (m := ~~~fpscrStored) b (by simpa using hk)
    rw [BitVec.and_or_distrib_right, this]
    exact BitVec.or_zero
  unfold fpNormalize
  dsimp only
  rw [hb _ _ _ rfl, hb _ _ _ rfl]
  exact (BitVec.and_assoc ..).trans (congrArg (f &&& ·) (BitVec.and_self))

theorem fpNormalize_idem (f : Word) : fpNormalize (fpNormalize f) = fpNormalize f :=
  fpNormalize_congr (fpNormalize_stored f)

/- State updates that keep the invariant. -/

/-- The fields the invariant speaks of. -/
def State.invFields (s : State) : Memory × Word × Word × Word × Word × Option Word :=
  (s.mem, s.cia, s.msr, s.xer, s.fpscr, s.reserve)

theorem Inv.congr {s t : State} (h : Inv s) (e : t.invFields = s.invFields) : Inv t := by
  obtain ⟨hmem, hcia, hmsr, hxer, hfpscr, hreserve⟩ : t.mem = s.mem ∧ t.cia = s.cia ∧ t.msr = s.msr ∧ t.xer = s.xer ∧
      t.fpscr = s.fpscr ∧ t.reserve = s.reserve := by simpa only [State.invFields, Prod.mk.injEq] using e
  exact ⟨hmem ▸ h.mem, hcia ▸ h.cia, hmsr ▸ h.msr, hxer ▸ h.xer, hfpscr ▸ h.fpscr, hreserve ▸ h.reserve⟩

/-- A data access keeps the invariant. -/
theorem Inv.memorySide {s t : State} (h : Inv s) (hm : MemorySide s t) : Inv t := by
  obtain ⟨⟨m, c, l, n, u, a, r, rfl⟩, hwf, hr⟩ := hm
  refine ⟨hwf h.mem, h.cia, h.msr, h.xer, h.fpscr, fun g hg => ?_⟩
  rcases hr with hr | hr
  · exact h.reserve g (hr.symm.trans hg)
  · exact absurd (hr.symm.trans hg) (by simp)

theorem Inv.writeGpr {s : State} (h : Inv s) (r : Reg) (v : Word) : Inv (s.writeGpr r v) := by
  unfold State.writeGpr
  split <;> exact h.congr rfl

theorem Inv.writeFpr {s : State} (h : Inv s) (r : Reg) (v : Word) (b : Bool) : Inv (s.writeFpr r v b) := h.congr rfl

theorem Inv.setCrField {s : State} (h : Inv s) (n : BitVec 3) (v : BitVec 4) : Inv (setCrField s n v) := h.congr rfl

theorem Inv.setCrBit {s : State} (h : Inv s) (k : BitVec 5) (b : Bool) : Inv (setCrBit s k b) := h.congr rfl

theorem Inv.recordCr0 {s : State} (h : Inv s) (rc : Bool) (r : Word) : Inv (recordCr0 rc r s) := by
  cases rc
  · exact h
  · exact h.setCrField ..

theorem Inv.recordCr1 {s : State} (h : Inv s) (rc : Bool) : Inv (recordCr1 rc s) := by
  cases rc
  · exact h
  · exact h.setCrField ..

theorem Inv.openWindow {s : State} (h : Inv s) (old : State) : Inv (openWindow old s) := by
  rw [openWindow_eq]
  exact h.congr rfl

theorem Inv.withCtr {s : State} (h : Inv s) (v : Word) : Inv { s with ctr := v } := h.congr rfl

theorem Inv.withCr {s : State} (h : Inv s) (v : Word) : Inv { s with cr := v } := h.congr rfl

theorem Inv.withSr {s : State} (h : Inv s) (v : Vector Word 16) : Inv { s with sr := v } := h.congr rfl

theorem Inv.withTlbs {s : State} (h : Inv s) (i d : Vector TlbEntry 32) : Inv { s with itlb := i, dtlb := d } :=
  h.congr rfl

theorem Inv.withXer {s : State} (h : Inv s) {x : Word} (hx : x &&& ~~~xerKept = 0) : Inv { s with xer := x } :=
  ⟨h.mem, h.cia, h.msr, hx, h.fpscr, h.reserve⟩

theorem Inv.withMsr {s : State} (h : Inv s) {m : Word} (hm : m &&& ~~~msrImplemented = 0) : Inv { s with msr := m } :=
  ⟨h.mem, h.cia, hm, h.xer, h.fpscr, h.reserve⟩

theorem Inv.withCia {s : State} (h : Inv s) {a : Word} (ha : a &&& 3 = 0) : Inv { s with cia := a } :=
  ⟨h.mem, ha, h.msr, h.xer, h.fpscr, h.reserve⟩

theorem Inv.normalized {s : State} (h : Inv s) (f : Word) : Inv { s with fpscr := fpNormalize f } :=
  ⟨h.mem, h.cia, h.msr, h.xer, fpNormalize_idem f, h.reserve⟩

theorem Inv.withCarry {s : State} (h : Inv s) (ca : Bool) : Inv (withCarry s ca) :=
  h.withXer (outside_setIbmBit 2 ca rfl h.xer)

theorem Inv.withOverflow {s : State} (h : Inv s) (oe ov : Bool) : Inv (withOverflow oe ov s) := by
  cases oe
  · exact h
  · exact h.withXer (outside_setIbmBit 0 _ rfl (outside_setIbmBit 1 ov rfl h.xer))

theorem Inv.writeGprs {s : State} (h : Inv s) (r : Reg) (vs : List Word) : Inv (writeGprs s r vs) := by
  induction vs generalizing s r with
  | nil => exact h
  | cons v rest ih => exact ih (h.writeGpr r v) (r + 1)

theorem Inv.updateBase {s : State} (h : Inv s) (base : Option Reg) (ea : Word) : Inv (updateBase s base ea) := by
  cases base with
  | none => exact h
  | some rA => exact h.writeGpr rA ea

/-- An exception entry sets CIA to a vector and MSR to its entry image, whatever they were. -/
theorem Inv.takeException {s : State} (h : Inv s) (e : Exception) (a i : Word) : Inv (takeException e a i s) :=
  ⟨h.mem, takeException_aligned e a i s, entryMsr_implemented e s.msr, h.xer, h.fpscr, h.reserve⟩

theorem Inv.branchTo {s : State} (h : Inv s) (taken lk : Bool) (a : Word) : Inv (branchTo s taken lk a) := by
  refine ⟨h.mem, ?_, h.msr, h.xer, h.fpscr, h.reserve⟩
  rw [branchTo_cia]
  split
  · exact wordAlign_aligned a
  · exact aligned_add_four h.cia

theorem Inv.returnFromInterrupt {s : State} (h : Inv s) : Inv (returnFromInterrupt s) := by
  have hmsr : (merge rfiMask s.srr1 s.msr &&& ~~~msrTGPR) &&& ~~~msrImplemented = 0 :=
    outside_and_left (outside_merge rfl h.msr)
  have hback : Inv (closeWindows
      { s with msr := merge rfiMask s.srr1 s.msr &&& ~~~msrTGPR, cia := wordAlign s.srr0 }) :=
    ⟨h.mem, wordAlign_aligned _, hmsr, h.xer, h.fpscr, h.reserve⟩
  unfold Machine.returnFromInterrupt
  dsimp only
  split
  · exact hback.takeException ..
  · exact hback

theorem Inv.supervisorAccess {s : State} (h : Inv s) {m : Word} (hm : m &&& ~~~msrImplemented = 0) :
    Inv (supervisorAccess s m) :=
  ⟨h.mem, h.cia, hm, h.xer, h.fpscr, h.reserve⟩

theorem reset_inv : Inv State.reset := ⟨rfl, rfl, rfl, rfl, rfl, fun _ e => by cases e⟩

theorem Inv.hardReset {s : State} (h : Inv s) : Inv (hardReset s) :=
  ⟨h.mem, reset_inv.cia, reset_inv.msr, reset_inv.xer, reset_inv.fpscr, reset_inv.reserve⟩

/-- A write to a special register leaves XER or puts its kept bits in it. -/
theorem writeSpr_xer {s t : State} {v : Word} {r : Spr} (h : writeSpr s v r = some t) :
    t.xer = s.xer ∨ t.xer = v &&& xerKept := by
  cases r <;> simp only [writeSpr, Option.some.injEq, reduceCtorEq] at h <;> subst h
  case xer => exact .inr rfl
  all_goals exact .inl (by simp [writeDec])

theorem Inv.writeSpr {s t : State} {v : Word} {r : Spr} (h : Inv s) (hw : writeSpr s v r = some t) : Inv t := by
  obtain ⟨-, -, -, -, hfpscr, hmsr, -, hcia, -, -, hmem, -, hreserve, -⟩ := writeSpr_rest hw
  have hxer : t.xer &&& ~~~xerKept = 0 := by
    rcases writeSpr_xer hw with hx | hx <;> rw [hx]
    · exact h.xer
    · exact outside_and_right rfl
  exact ⟨hmem ▸ h.mem, hcia ▸ h.cia, hmsr ▸ h.msr, hxer, hfpscr ▸ h.fpscr, hreserve ▸ h.reserve⟩

/- Outcomes. -/

/-- If the outcome is a next state, that state satisfies the invariant. -/
def InvOut : Out → Prop
  | .next t => Inv t
  | .fault _ => True
  | .refused _ => True

/-- If a part of an instruction ends it, then with an outcome that satisfies the invariant. -/
def InvTry {α : Type} : Try α → Prop
  | .ok _ => True
  | .error o => InvOut o

theorem InvOut.next {t : State} (h : Inv t) : InvOut (.next t) := h

theorem InvOut.fault (f : Fault) : InvOut (.fault f) := trivial

theorem InvOut.refused (r : Refusal) : InvOut (.refused r) := trivial

theorem InvTry.ok {α : Type} (a : α) : InvTry (.ok a : Try α) := trivial

theorem InvTry.error {α : Type} {o : Out} (h : InvOut o) : InvTry (.error o : Try α) := h

theorem InvOut.of_next {o : Out} {t : State} (h : InvOut o) (e : o = .next t) : Inv t := by
  subst e
  exact h

theorem InvTry.of_error {α : Type} {x : Try α} {o : Out} (h : InvTry x) (e : x = .error o) : InvOut o := by
  subst e
  exact h

theorem InvTry.require {b : Bool} {o : Out} (h : InvOut o) : InvTry (require b o) := by
  cases b
  · exact .error h
  · exact .ok ()

theorem InvTry.proceed {α : Type} {x : Try α} {k : α → Out} (hx : InvTry x) (hk : ∀ a, x = .ok a → InvOut (k a)) :
    InvOut (proceed x k) := by
  cases x with
  | ok a => exact hk a rfl
  | error o => exact hx.of_error rfl

theorem InvTry.bind {α β : Type} {x : Try α} {f : α → Try β} (hx : InvTry x) (hf : ∀ a, InvTry (f a)) :
    InvTry (x >>= f) := by
  cases x with
  | ok a => exact hf a
  | error o => exact .error (hx.of_error rfl)

theorem Inv.advance {s : State} (h : Inv s) : InvOut (advance s) := .next (h.withCia (aligned_add_four h.cia))

theorem Inv.raise {s : State} (h : Inv s) (e : Exception) (info : Word) : InvOut (raise e info s) :=
  .next (h.takeException ..)

theorem Inv.raisePrivileged {s : State} (h : Inv s) : InvOut (raisePrivileged s) := h.raise ..

theorem Inv.raiseIllegal {s : State} (h : Inv s) : InvOut (raiseIllegal s) := h.raise ..

theorem Inv.outcome {s : State} (h : Inv s) (e : AccessStop) : InvOut (e.outcome s) := by
  cases e with
  | dsi p d st ea => exact .next ((h.congr rfl : Inv { s with dsisr := _, dar := ea }).takeException ..)
  | miss st k ea => exact .next ((h.congr rfl : Inv { s with dmiss := ea, missIsData := true }).takeException ..)
  | fault f => exact .fault f

theorem Inv.takeAlignment {s : State} (h : Inv s) (w : Word) (rS rA : Bool) (ea : Word) :
    InvOut (takeAlignment s w rS rA ea) :=
  (h.congr rfl : Inv { s with dsisr := _, dar := ea }).raise ..

/- Guards. -/

theorem guardForm_inv (ok : Bool) : InvTry (guardForm ok) := .require (.fault _)

theorem guardGprs_inv (s : State) (rs : List Reg) : InvTry (guardGprs s rs) := .require (.fault _)

theorem withGprs_inv {s : State} {rs : List Reg} {o : Out} (h : InvOut o) : InvOut (withGprs s rs o) :=
  (guardGprs_inv s rs).proceed fun _ _ => h

theorem guardSupervisor_inv {s : State} (h : Inv s) : InvTry (guardSupervisor s) := .require h.raisePrivileged

theorem guardFp_inv {s : State} (h : Inv s) : InvTry (guardFp s) := .require (h.raise ..)

theorem guardSingles_inv (s : State) (rs : List Reg) : InvTry (guardSingles s rs) := by
  induction rs with
  | nil => exact .ok ()
  | cons r rest ih =>
    unfold guardSingles
    split_ifs
    · exact ih
    · exact .error (.refused _)
    · exact .error (.fault _)

theorem guardTagged_inv (s : State) (r : Reg) : InvTry (guardTagged s r) := .require (.fault _)

theorem guardDenormal_inv {s : State} (h : Inv s) (ws : List Word) : InvTry (guardDenormal s ws) := by
  unfold guardDenormal
  split
  · split
    · exact .error (h.raise ..)
    · exact .ok ()
  · exact .ok ()

theorem guardArith_inv {s : State} (h : Inv s) (rs : List Reg) : InvTry (guardArith s rs) :=
  (guardFp_inv h).bind fun _ => (guardSingles_inv s rs).bind fun _ => guardDenormal_inv h _

theorem guardCompare_inv {s : State} (h : Inv s) (frA frB : Reg) : InvTry (guardCompare s frA frB) :=
  (guardFp_inv h).bind fun _ => guardSingles_inv s _

theorem guardWordAligned_inv {s : State} (h : Inv s) (w : Word) (b : Bool) (ea : Word) :
    InvTry (guardWordAligned s w b ea) := .require (h.takeAlignment ..)

theorem guardBigEndian_inv {s : State} (h : Inv s) (w : Word) (b bad : Bool) (ea : Word) :
    InvTry (guardBigEndian s w b bad ea) := by
  unfold guardBigEndian
  split
  · refine .error ?_
    split
    · exact h.takeAlignment ..
    · exact .refused _
  · exact .ok ()

theorem orStop_inv {α : Type} {s : State} (h : Inv s) (x : Except AccessStop α) : InvTry (orStop s x) := by
  cases x with
  | ok a => exact .ok a
  | error e => exact .error (h.outcome e)

theorem orStop_eq_ok {α : Type} {s : State} {x : Except AccessStop α} {a : α} (h : orStop s x = .ok a) : x = .ok a := by
  cases x with
  | ok b => exact congrArg _ (Except.ok.inj h)
  | error e => cases h

theorem selectPower_inv (s : State) (v : Word) : InvTry (selectPower s v) := by
  unfold selectPower
  split
  · exact .ok _
  · split
    · exact .ok _
    · exact .ok _
    · exact .ok _
    · exact .ok _
    · exact .error (.fault _)
    · exact .error (.fault _)
    · exact .error (.fault _)

theorem tryStore_inv {s : State} (h : Inv s) (ea : Word) (n : Nat) (v : Word) : InvTry (tryStore s ea n v) := by
  unfold tryStore
  split
  · exact .ok _
  · next e t hs => exact .error ((h.memorySide (storeData_memorySide.2 e t hs)).outcome e)

/- The last steps that instructions share. -/

theorem finishInt_inv {s : State} (h : Inv s) (rc : Bool) (rD : Reg) (v : Word) : InvOut (finishInt rc rD v s) :=
  (h.recordCr0 rc v).advance

theorem resultInto_inv {s : State} (h : Inv s) (rc : Bool) (rA : Reg) (v : Word) : InvOut (resultInto rc rA v s) :=
  finishInt_inv (h.writeGpr ..) ..

theorem sumInto_inv {s : State} (h : Inv s) (carry oe rc : Bool) (rD : Reg) (x y : Word) (c : Bool) :
    InvOut (sumInto carry oe rc rD x y c s) := by
  have ht := h.writeGpr rD (addWords x y c)
  have ht' : Inv (if carry then withCarry (s.writeGpr rD (addWords x y c)) (carryOf x y c) else
      s.writeGpr rD (addWords x y c)) := by
    split
    · exact ht.withCarry _
    · exact ht
  exact finishInt_inv (ht'.withOverflow ..) rc rD _

theorem undefinedQuotient_inv {s : State} (h : Inv s) (oe rc : Bool) (rD : Reg) (free crFree : Word) :
    InvOut (undefinedQuotient oe rc rD free crFree s) := by
  have ht : Inv (withOverflow oe true (s.writeGpr rD free)) := (h.writeGpr ..).withOverflow ..
  refine Inv.advance ?_
  split
  · exact ht.setCrField ..
  · exact ht

/-- A division, where its quotient is undefined and where it is not. -/
theorem quotient_inv {s : State} (h : Inv s) (undefined : Prop) [Decidable undefined] (oe rc : Bool) (rD : Reg)
    (free crFree v : Word) :
    InvOut (if undefined then undefinedQuotient oe rc rD free crFree s
      else finishInt rc rD v (withOverflow oe false (s.writeGpr rD v))) := by
  split
  · exact undefinedQuotient_inv h ..
  · exact finishInt_inv ((h.writeGpr ..).withOverflow ..) ..

theorem shiftRightAlgebraic_inv {s : State} (h : Inv s) (rc : Bool) (rA : Reg) (v : Word) (n : Nat) :
    InvOut (shiftRightAlgebraic rc rA v n s) :=
  finishInt_inv ((h.writeGpr ..).withCarry _) rc rA _

theorem trapIf_inv {s : State} (h : Inv s) (b : Bool) : InvOut (trapIf s b) := by
  cases b
  · exact h.advance
  · exact h.raise ..

theorem emulatedFp_inv {s : State} (h : Inv s) : InvOut (emulatedFp s) := (guardFp_inv h).proceed fun _ _ => h.raise ..

theorem moveFp_inv {s : State} (h : Inv s) (rc : Bool) : InvOut (moveFp rc s) := (h.recordCr1 rc).advance

theorem finishFp_inv {s : State} (h : Inv s) (rc : Bool) (f : Word) : InvOut (finishFp s rc f) := by
  have ht := (h.normalized f).recordCr1 rc
  unfold finishFp
  dsimp only
  split
  · exact ht.raise ..
  · exact ht.advance

theorem deliverFp_inv {s : State} (h : Inv s) (frD : Reg) (rc : Bool) (w : Word) (fr fi : Bool) (f : Word) :
    InvOut (deliverFp s frD rc w fr fi f) := finishFp_inv (h.writeFpr ..) ..

theorem deliverNi_inv {s : State} (h : Inv s) (frD : Reg) (rc : Bool) (w f : Word) : InvOut (deliverNi s frD rc w f) :=
  deliverFp_inv h ..

/-- Every way an arithmetic result is delivered writes a normalized FPSCR or takes the emulation trap. -/
theorem deliverRaw_inv {s : State} (h : Inv s) (frD : Reg) (rc negate : Bool) (a b c : Word) (x : FpRaw) :
    InvOut (deliverRaw s frD rc negate a b c x) := by
  have hfp := @deliverFp_inv s h frD rc
  have hni := @deliverNi_inv s h frD rc
  unfold deliverRaw
  dsimp only
  split
  · split
    · exact finishFp_inv h ..
    · split
      · exact hni ..
      · exact hfp ..
      · exact hfp ..
  · split
    · split
      · exact finishFp_inv h ..
      · split
        · exact hni ..
        · exact hfp ..
        · exact hfp ..
    · split
      · exact hfp ..
      · split
        · split
          · exact hni ..
          · exact h.raise ..
        · split
          · exact hfp ..
          · split
            · exact hfp ..
            · split
              · exact hni ..
              · exact hfp ..

theorem deliverRounded_inv {s : State} (h : Inv s) (frD : Reg) (rc : Bool) (w : Word) :
    InvOut (deliverRounded s frD rc w) := by
  unfold deliverRounded
  dsimp only
  split_ifs
  · exact finishFp_inv h ..
  · split
    · exact deliverNi_inv h ..
    · exact deliverFp_inv h ..
  · split
    · exact deliverNi_inv h ..
    · exact h.raise ..
  · exact deliverFp_inv h ..

theorem deliverInt_inv {s : State} (h : Inv s) (frD : Reg) (rc : Bool) (w : Word) (x : FpInt) :
    InvOut (deliverInt s frD rc w x) := by
  unfold deliverInt
  dsimp only
  split
  · exact finishFp_inv h ..
  · split <;> exact finishFp_inv (h.writeFpr ..) ..

theorem deliverCompare_inv {s : State} (h : Inv s) (crfD : BitVec 3) (c : BitVec 4) (invalid : Word) :
    InvOut (deliverCompare s crfD c invalid) := finishFp_inv (h.setCrField ..) ..

/- Loads and stores. -/

theorem loadInt_inv {s : State} (h : Inv s) (w : Word) (named : List Reg) (ea : Word) (n : Nat) (conv : Word → Word)
    (rD : Reg) (base : Option Reg) : InvOut (loadInt s w named ea n conv rD base) :=
  withGprs_inv <| (guardBigEndian_inv h ..).proceed fun _ _ => (orStop_inv h _).proceed fun (_, _) hl =>
    (((h.memorySide (loadData_memorySide (orStop_eq_ok hl))).writeGpr ..).updateBase ..).advance

theorem storeInt_inv {s : State} (h : Inv s) (w : Word) (named : List Reg) (ea : Word) (n : Nat) (v : Word)
    (base : Option Reg) : InvOut (storeInt s w named ea n v base) :=
  withGprs_inv <| (guardBigEndian_inv h ..).proceed fun _ _ => (tryStore_inv h ..).proceed fun _ hs =>
    ((h.memorySide (tryStore_ok hs)).updateBase ..).advance

theorem loadSingleFp_inv {s : State} (h : Inv s) (w : Word) (named : List Reg) (ea : Word) (frD : Reg)
    (base : Option Reg) : InvOut (loadSingleFp s w named ea frD base) :=
  (guardFp_inv h).proceed fun _ _ => withGprs_inv <| (guardWordAligned_inv h ..).proceed fun _ _ =>
    (guardBigEndian_inv h ..).proceed fun _ _ => (orStop_inv h _).proceed fun (_, _) hl =>
      (((h.memorySide (loadData_memorySide (orStop_eq_ok hl))).writeFpr ..).updateBase ..).advance

theorem loadDoubleFp_inv {s : State} (h : Inv s) (w : Word) (named : List Reg) (ea : Word) (frD : Reg)
    (base : Option Reg) : InvOut (loadDoubleFp s w named ea frD base) := by
  refine (guardFp_inv h).proceed fun _ _ => withGprs_inv <| (guardWordAligned_inv h ..).proceed fun _ _ =>
    (guardBigEndian_inv h ..).proceed fun _ _ => (orStop_inv h _).proceed fun (v, t) hl => ?_
  have ht : Inv t := h.memorySide (loadDouble_memorySide (orStop_eq_ok hl))
  dsimp only
  split
  · exact ((ht.writeFpr ..).updateBase ..).advance
  · exact ht.raise ..

theorem storeSingleFp_inv {s : State} (h : Inv s) (w : Word) (named : List Reg) (ea : Word) (frS : Reg)
    (base : Option Reg) : InvOut (storeSingleFp s w named ea frS base) :=
  (guardFp_inv h).proceed fun _ _ => withGprs_inv <| (guardSingles_inv s _).proceed fun _ _ =>
    (guardWordAligned_inv h ..).proceed fun _ _ => (guardBigEndian_inv h ..).proceed fun _ _ =>
      (tryStore_inv h ..).proceed fun _ hs => ((h.memorySide (tryStore_ok hs)).updateBase ..).advance

theorem storeDoubleFp_inv {s : State} (h : Inv s) (w : Word) (named : List Reg) (ea : Word) (frS : Reg)
    (base : Option Reg) : InvOut (storeDoubleFp s w named ea frS base) :=
  (guardFp_inv h).proceed fun _ _ => withGprs_inv <| (guardTagged_inv s _).proceed fun _ _ =>
    (guardWordAligned_inv h ..).proceed fun _ _ => (guardBigEndian_inv h ..).proceed fun _ _ =>
      (orStop_inv h _).proceed fun _ hs =>
        ((h.memorySide (storeDouble_memorySide (orStop_eq_ok hs))).updateBase ..).advance

theorem blockAccess_inv {s : State} (h : Inv s) (w : Word) (named : List Reg) (ea : Word) (store : Bool)
    {k : Word → Out} (hk : ∀ pa, InvOut (k pa)) : InvOut (blockAccess s w named ea store k) :=
  withGprs_inv <| (guardBigEndian_inv h ..).proceed fun _ _ => (orStop_inv h _).proceed fun pa _ => hk pa

/- Instructions with steps of their own. -/

theorem execLmw_inv {s : State} (h : Inv s) (rD rA : Reg) (d : BitVec 16) : InvOut (execLmw rD rA d s) := by
  refine (guardForm_inv _).proceed fun _ _ => withGprs_inv <| (guardWordAligned_inv h ..).proceed fun _ _ =>
    (guardBigEndian_inv h ..).proceed fun _ _ => ?_
  have hr := h.memorySide (loadRun_memorySide s (eaD s rA d) 4 (32 - rD.toNat))
  dsimp only
  split
  · exact (hr.writeGprs ..).advance
  · exact (hr.writeGprs ..).outcome _

theorem execStmw_inv {s : State} (h : Inv s) (rS rA : Reg) (d : BitVec 16) : InvOut (execStmw rS rA d s) := by
  refine withGprs_inv <| (guardWordAligned_inv h ..).proceed fun _ _ => (guardBigEndian_inv h ..).proceed fun _ _ => ?_
  dsimp only
  split
  · exact (h.memorySide (storeWords_memorySide ..)).advance
  · exact (h.memorySide (storeWords_memorySide ..)).outcome _

theorem execLwarx_inv {s : State} (h : Inv s) (rD rA rB : Reg) : InvOut (execLwarx rD rA rB s) := by
  refine withGprs_inv <| (guardWordAligned_inv h ..).proceed fun _ _ => (guardBigEndian_inv h ..).proceed fun _ _ =>
    (orStop_inv h _).proceed fun pa _ => Inv.advance ?_
  have ht := (h.memorySide (loadAt_memorySide s (eaX s rA rB) 4 [pa])).writeGpr rD
    ((loadAt s (eaX s rA rB) 4 [pa]).1.getD 0 0)
  refine ⟨ht.mem, ht.cia, ht.msr, ht.xer, ht.fpscr, fun g hg => ?_⟩
  rw [← Option.some.inj hg]
  exact outside_and_right rfl

theorem execStwcxRc_inv {s : State} (h : Inv s) (rS rA rB : Reg) (rc : Bool) : InvOut (execStwcxRc rS rA rB rc s) := by
  refine (guardForm_inv _).proceed fun _ _ => withGprs_inv <| (guardWordAligned_inv h ..).proceed fun _ _ =>
    (guardBigEndian_inv h ..).proceed fun _ _ => (orStop_inv h _).proceed fun pa _ =>
      (Inv.setCrField ?_ ..).advance
  have ht : Inv (if conditionalStoreSucceeds s pa then writePhys s pa 4 (s.readGpr rS) else s) := by
    split
    · exact h.memorySide (writePhys_memorySide ..)
    · exact h
  exact ⟨ht.mem, ht.cia, ht.msr, ht.xer, ht.fpscr, fun _ e => by cases e⟩

theorem execDcbz_inv {s : State} (h : Inv s) (rA rB : Reg) : InvOut (execDcbz rA rB s) := by
  refine withGprs_inv <| (guardBigEndian_inv h ..).proceed fun _ _ => (orStop_inv h _).proceed fun m _ => ?_
  split
  · exact h.takeAlignment ..
  · exact (orStop_inv h _).proceed fun _ _ => (h.memorySide (writeBlock_memorySide ..)).advance

theorem invalidSpr_inv {s : State} (h : Inv s) (n : BitVec 10) : InvOut (invalidSpr s n) := by
  unfold invalidSpr
  split
  · exact h.raisePrivileged
  · exact h.raiseIllegal

theorem execMtspr_inv {s : State} (h : Inv s) (rS : Reg) (spr : BitVec 10) : InvOut (execMtspr rS spr s) := by
  unfold execMtspr
  split
  · exact invalidSpr_inv h _
  · split
    · exact invalidSpr_inv h _
    · next t ht =>
      split
      · exact h.raisePrivileged
      · exact withGprs_inv (h.writeSpr ht).advance

theorem execMfspr_inv {s : State} (h : Inv s) (rD : Reg) (spr : BitVec 10) : InvOut (execMfspr rD spr s) := by
  unfold execMfspr
  split
  · exact invalidSpr_inv h _
  · split
    · exact invalidSpr_inv h _
    · split
      · exact h.raisePrivileged
      · exact withGprs_inv (h.writeGpr ..).advance

theorem execMftb_inv {s : State} (h : Inv s) (rD : Reg) (tbr : BitVec 10) : InvOut (execMftb rD tbr s) := by
  unfold execMftb
  split_ifs
  · exact withGprs_inv (h.writeGpr ..).advance
  · exact withGprs_inv (h.writeGpr ..).advance
  · exact h.raiseIllegal

theorem execMtmsr_inv {s : State} (h : Inv s) (rS : Reg) : InvOut (execMtmsr rS s) := by
  refine (guardSupervisor_inv h).proceed fun _ _ => withGprs_inv <| (selectPower_inv ..).proceed fun p _ => ?_
  have hmsr : (s.readGpr rS &&& msrImplemented) &&& ~~~msrImplemented = 0 := outside_and_right rfl
  have hw : Inv { s with msr := s.readGpr rS &&& msrImplemented, powPending := p } := (h.withMsr hmsr).congr rfl
  have ht : Inv (openWindow s { s with msr := s.readGpr rS &&& msrImplemented, powPending := p }) := hw.openWindow s
  dsimp only
  split
  · exact .next (ht.takeException ..)
  · exact ht.advance

theorem execMcrxr_inv {s : State} (h : Inv s) (crfD : BitVec 3) : InvOut (execMcrxr crfD s) :=
  (Inv.withXer (h.setCrField ..) (outside_and_left h.xer)).advance

theorem execEsa_inv {s : State} (h : Inv s) : InvOut (execEsa s) := by
  have hmsr : ((esaNewApEe s.msr &&& ~~~msrPR) ||| msrSA) &&& ~~~msrImplemented = 0 :=
    outside_or (outside_and_left h.msr) rfl
  unfold execEsa
  split
  · exact (Inv.supervisorAccess (h.congr rfl : Inv { s with esasrr := s.msr &&& esaMask }) hmsr).advance
  · exact h.raisePrivileged

theorem execDsa_inv {s : State} (h : Inv s) : InvOut (execDsa s) :=
  (guardSupervisor_inv h).proceed fun _ _ => (h.supervisorAccess (outside_merge rfl h.msr)).advance

/-- Every instruction keeps the invariant: one case for each of the last steps that instructions share. -/
theorem exec_inv {s : State} (h : Inv s) (i : Instr) : InvOut (exec i s) := by
  cases i with
  | addi | addis | mulli | mfcr => exact withGprs_inv (h.writeGpr ..).advance
  | add | subf | addic | addicRc | subfic | addc | subfc | adde | subfe | addme | subfme | addze | subfze =>
    exact withGprs_inv (sumInto_inv h ..)
  | neg rD | mullw rD => exact withGprs_inv (finishInt_inv ((h.writeGpr ..).withOverflow ..) _ rD _)
  | mulhw rD | mulhwu rD => exact withGprs_inv (finishInt_inv (h.writeGpr ..) _ rD _)
  | divw rD | divwu rD => exact withGprs_inv (quotient_inv h _ _ _ rD ..)
  | cmpi | cmp | cmpli | cmpl => exact (guardForm_inv _).proceed fun _ _ => withGprs_inv (h.setCrField ..).advance
  | andiRc | andisRc | ori | oris | xori | xoris | and | or | xor | nand | nor | eqv | andc | orc | extsb | extsh
  | cntlzw | rlwinm | rlwnm | rlwimi | slw | srw => exact withGprs_inv (resultInto_inv h ..)
  | sraw | srawi => exact withGprs_inv (shiftRightAlgebraic_inv h ..)
  | b => exact .next (h.branchTo ..)
  | bc | bclr => exact (guardForm_inv _).proceed fun _ _ => .next ((h.withCtr _).branchTo ..)
  | bcctr => exact (guardForm_inv _).proceed fun _ _ => .next (h.branchTo ..)
  | sc => exact .next (h.takeException ..)
  | rfi => exact (guardSupervisor_inv h).proceed fun _ _ => .next h.returnFromInterrupt
  | tw | twi => exact withGprs_inv (trapIf_inv h _)
  | crand | cror | crxor | crnand | crnor | creqv | crandc | crorc => exact (h.setCrBit ..).advance
  | mcrf => exact (h.setCrField ..).advance
  | mtspr => exact execMtspr_inv h ..
  | mfspr => exact execMfspr_inv h ..
  | mftb => exact execMftb_inv h ..
  | mfmsr => exact (guardSupervisor_inv h).proceed fun _ _ => withGprs_inv (h.writeGpr ..).advance
  | mtmsr => exact execMtmsr_inv h _
  | mtcrf => exact withGprs_inv ((h.withCr _).advance)
  | mcrxr => exact execMcrxr_inv h _
  | sync | isync => exact Inv.advance (h.congr rfl)
  | eieio => exact h.advance
  | esa => exact execEsa_inv h
  | dsa => exact execDsa_inv h
  | dcbz => exact execDcbz_inv h ..
  | dcbst | icbi => exact blockAccess_inv h _ _ _ _ fun _ => (h.memorySide (mapStale_memorySide ..)).advance
  | dcbf =>
    exact blockAccess_inv h _ _ _ _ fun _ =>
      ((h.memorySide (settleBlock_memorySide ..)).memorySide (mapStale_memorySide ..)).advance
  | dcbi =>
    exact (guardSupervisor_inv h).proceed fun _ _ => blockAccess_inv h _ _ _ _ fun _ =>
      (h.memorySide (discardBlock_memorySide ..)).advance
  | dcbt | dcbtst => exact withGprs_inv h.advance
  | mtsr | mtsrin =>
    exact (guardSupervisor_inv h).proceed fun _ _ => withGprs_inv
      ((h.withSr _).openWindow s).advance
  | mfsr | mfsrin => exact (guardSupervisor_inv h).proceed fun _ _ => withGprs_inv (h.writeGpr ..).advance
  | tlbie | tlbld | tlbli =>
    exact (guardSupervisor_inv h).proceed fun _ _ => withGprs_inv ((h.withTlbs _ _).openWindow s).advance
  | tlbsync => exact (guardSupervisor_inv h).proceed fun _ _ => h.advance
  | tlbia | stfiwx | eciwx | ecowx | fsqrt | fsqrts | frsqrte => exact h.raiseIllegal
  | lbz | lbzx | lhz | lhzx | lha | lhax | lwz | lwzx | lhbrx | lwbrx => exact loadInt_inv h ..
  | lbzu | lbzux | lhzu | lhzux | lhau | lhaux | lwzu | lwzux =>
    exact (guardForm_inv _).proceed fun _ _ => loadInt_inv h ..
  | stb | stbx | sth | sthx | stw | stwx | sthbrx | stwbrx => exact storeInt_inv h ..
  | stbu | stbux | sthu | sthux | stwu | stwux => exact (guardForm_inv _).proceed fun _ _ => storeInt_inv h ..
  | lmw => exact execLmw_inv h ..
  | stmw => exact execStmw_inv h ..
  | lswi | lswx | stswi | stswx => exact h.raise ..
  | lwarx => exact execLwarx_inv h ..
  | stwcxRc => exact execStwcxRc_inv h ..
  | lfs | lfsx => exact loadSingleFp_inv h ..
  | lfsu | lfsux => exact (guardForm_inv _).proceed fun _ _ => loadSingleFp_inv h ..
  | lfd | lfdx => exact loadDoubleFp_inv h ..
  | lfdu | lfdux => exact (guardForm_inv _).proceed fun _ _ => loadDoubleFp_inv h ..
  | stfs | stfsx => exact storeSingleFp_inv h ..
  | stfsu | stfsux => exact (guardForm_inv _).proceed fun _ _ => storeSingleFp_inv h ..
  | stfd | stfdx => exact storeDoubleFp_inv h ..
  | stfdu | stfdux => exact (guardForm_inv _).proceed fun _ _ => storeDoubleFp_inv h ..
  | fadds | fsubs | fmuls | fdivs | fres | fmadds | fmsubs | fnmadds | fnmsubs =>
    exact (guardArith_inv h _).proceed fun _ _ => deliverRaw_inv h ..
  | fadd | fsub | fmul | fdiv | fmadd | fmsub | fnmadd | fnmsub => exact emulatedFp_inv h
  | frsp => exact (guardArith_inv h _).proceed fun _ _ => deliverRounded_inv h ..
  | fctiw | fctiwz => exact (guardArith_inv h _).proceed fun _ _ => deliverInt_inv h ..
  | fcmpu | fcmpo => exact (guardCompare_inv h ..).proceed fun _ _ => deliverCompare_inv h ..
  | fneg | fabs | fnabs =>
    exact (guardFp_inv h).proceed fun _ _ => (guardSingles_inv s _).proceed fun _ _ => moveFp_inv (h.writeFpr ..) _
  | fmr =>
    exact (guardFp_inv h).proceed fun _ _ => (guardTagged_inv s _).proceed fun _ _ => moveFp_inv (h.writeFpr ..) _
  | fsel =>
    exact (guardFp_inv h).proceed fun _ _ => (guardSingles_inv s _).proceed fun _ _ =>
      (guardTagged_inv s _).proceed fun _ _ => moveFp_inv (h.writeFpr ..) _
  | mffs => exact (guardFp_inv h).proceed fun _ _ => moveFp_inv (h.writeFpr ..) _
  | mcrfs => exact (guardFp_inv h).proceed fun _ _ => finishFp_inv (h.setCrField ..) ..
  | mtfsfi | mtfsb0 | mtfsb1 => exact (guardFp_inv h).proceed fun _ _ => finishFp_inv h ..
  | mtfsf =>
    exact (guardFp_inv h).proceed fun _ _ => (guardTagged_inv s _).proceed fun _ _ => finishFp_inv h ..

/- The fetch and the run of an instruction (spec/60_exceptions.md R781). -/

theorem Inv.takeInstrMiss {s : State} (h : Inv s) (key : Bool) : Inv (takeInstrMiss key s) :=
  (h.congr rfl : Inv { s with imiss := s.cia, missIsData := false }).takeException ..

theorem fetchAllowed_inv {s : State} (h : Inv s) (noExecute denied : Bool) (pa : Word) :
    InvTry (fetchAllowed s noExecute denied pa) := by
  unfold fetchAllowed
  split
  · exact .error (h.raise ..)
  · exact .ok pa

theorem fetchRegion_inv {s : State} (h : Inv s) : InvTry (fetchRegion s) := by
  unfold fetchRegion
  dsimp only
  split
  · exact .error (.next (h.takeInstrMiss _))
  · exact fetchAllowed_inv h ..

theorem fetchPage_inv {s : State} (h : Inv s) : InvTry (fetchPage s) := by
  unfold fetchPage
  dsimp only
  split
  · exact fetchAllowed_inv h ..
  · split
    · exact .error (.next (h.takeInstrMiss _))
    · exact fetchAllowed_inv h ..

theorem translateFetch_inv {s : State} (h : Inv s) : InvTry (translateFetch s) := by
  unfold translateFetch
  split
  · exact .ok _
  · split
    · exact fetchAllowed_inv h ..
    · exact .error (.fault _)
    · split
      · exact fetchRegion_inv h
      · exact fetchPage_inv h

theorem fetch_inv {s : State} (h : Inv s) : InvTry (fetch s) := by
  unfold fetch
  split
  · exact .error (.refused _)
  · split
    · exact .ok _
    · next o ho => exact .error ((translateFetch_inv h).of_error ho)

theorem traceAfter_inv {o : Out} (h : InvOut o) (before : State) (i : Instr) : InvOut (traceAfter before i o) := by
  cases o with
  | next t =>
    unfold traceAfter
    dsimp only
    split
    · exact .next ((h.of_next rfl).takeException ..)
    · exact h
  | fault f => exact .fault f
  | refused r => exact .refused r

theorem executeWord_inv {s : State} (h : Inv s) (w : Word) : InvOut (executeWord s w) := by
  unfold executeWord
  split
  · exact traceAfter_inv (exec_inv h _) ..
  · exact h.raiseIllegal
  · exact .fault _
  · exact .fault _

theorem runInstruction_inv {s : State} (h : Inv s) : InvOut (runInstruction s) := by
  refine (fetch_inv h).proceed fun w _ => ?_
  split
  · exact h.raise ..
  · exact executeWord_inv h w

/- The environment and the boundary (spec/60_exceptions.md R780, R820). -/

theorem Inv.tick {s : State} (h : Inv s) : Inv (tick s) := by
  rw [tick_rest]
  exact h.congr rfl

theorem Inv.applyEvent {s : State} (h : Inv s) (e : Event) : Inv (applyEvent s e) := by
  cases e with
  | tick => exact h.tick
  | int | smi | tben | sreset | mcp | tea => exact h.congr rfl
  | hreset level =>
    have ht : Inv { s with pins := { s.pins with hreset := level } } := h.congr rfl
    dsimp only [Machine.applyEvent]
    split
    · exact ht.hardReset
    · exact ht
  | bus e => exact h.memorySide (applyBus_memorySide s e)

theorem Inv.applyEvents {s : State} (h : Inv s) (es : List Event) : Inv (es.foldl Machine.applyEvent s) := by
  induction es generalizing s with
  | nil => exact h
  | cons e rest ih => exact ih (h.applyEvent e)

theorem Inv.beginStep {s : State} (h : Inv s) : Inv (beginStep s) := by
  unfold Machine.beginStep
  rw [recogniseTea_rest]
  have ht : Inv { s with env := s.env.tail, draws := s.draws + 1, taken := none } := h.congr rfl
  exact (ht.applyEvents (s.env.headD [])).congr rfl

theorem Inv.machineCheck {s : State} (h : Inv s) : Inv (machineCheck s) := by
  have ht : Inv { s with mcheckPending := false } := h.congr rfl
  unfold Machine.machineCheck
  dsimp only
  split
  · exact ht.takeException ..
  · exact ht.congr rfl

theorem Inv.watchdogReset {s : State} (h : Inv s) : Inv (watchdogReset s) := by
  have ht : Inv { s with wdtResetPending := false, wdtPending := false, tcr := { s.tcr with ws := false } } :=
    h.congr rfl
  exact ht.takeException ..

/-- The state a boundary ends in, or runs the instruction at CIA in. -/
def Boundary.state : Boundary → State
  | .ends s => s
  | .runs s => s

theorem atInstruction_inv {s : State} (h : Inv s) : Inv (atInstruction s).state := by
  unfold atInstruction
  split
  · exact h
  · split
    · exact h
    · split
      · exact h.congr rfl
      · exact h

theorem atBoundary_inv {s : State} (h : Inv s) : Inv (atBoundary s).state := by
  have hdeferred : Inv { s with deferred := takeable s } := h.congr rfl
  unfold atBoundary
  split_ifs
  · exact h.hardReset
  · exact h
  · exact h.machineCheck
  · exact (h.congr rfl : Inv { s with sresetPending := false }).takeException ..
  · exact h.watchdogReset
  · split
    · exact h.takeException ..
    · dsimp only
      split
      · exact atInstruction_inv hdeferred
      · exact hdeferred

theorem step_inv {s : State} (h : Inv s) : InvOut (step s) := by
  have hb := atBoundary_inv h.beginStep
  unfold step cycle
  split
  · next t ht => exact .next (ht ▸ hb : Inv (Boundary.ends t).state)
  · next t ht => exact runInstruction_inv (ht ▸ hb : Inv (Boundary.runs t).state)

/-- Settles O59: the boundary, the fetch and each instruction keep the invariant. -/
theorem stepKeepsInvariant : Obligations.StepKeepsInvariant :=
  fun _ _ h hstep => (step_inv h).of_next hstep

end Sys2Proof.Machine

/-!
The floating-point moves (O20).
-/
namespace Sys2Proof.Machine

/- Data as bits. -/

theorem magnitudeMask_getLsbD (i : Nat) : (0x7FFFFFFF#32).getLsbD i = decide (i < 31) := by
  have h : 0x7FFFFFFF#32 = (BitVec.allOnes 31).setWidth 32 := rfl
  rw [h, BitVec.getLsbD_setWidth, BitVec.getLsbD_allOnes]
  by_cases hi : i < 31
  · simp [hi, show i < 32 by omega]
  · simp [hi]

theorem signMask_getLsbD (i : Nat) : (0x80000000#32).getLsbD i = decide (i = 31) := by
  have h : 0x80000000#32 = BitVec.twoPow 32 31 := rfl
  rw [h, BitVec.getLsbD_twoPow]
  by_cases hi : i = 31
  · simp [hi]
  · simp [hi, Ne.symm hi]

theorem getLsbD_withSign (b : Bool) (w : Word) (i : Nat) (hi : i < 32) :
    (BitVec.ofBool b ++ w.extractLsb' 0 31).getLsbD i = if i = 31 then b else w.getLsbD i := by
  rw [BitVec.getLsbD_append]
  by_cases h : i < 31
  · simp [h, show i ≠ 31 by omega]
  · obtain rfl : i = 31 := by omega
    simp

/-- A word with a sign of its own and the other bits of a datum is determined bit by bit. -/
theorem eq_withSign {v w : Word} {b : Bool} (hsign : v.getLsbD 31 = b) (hrest : ∀ i < 31, v.getLsbD i = w.getLsbD i) :
    v = BitVec.ofBool b ++ w.extractLsb' 0 31 := by
  apply BitVec.eq_of_getLsbD_eq
  intro i hi
  rw [getLsbD_withSign b w i hi]
  split
  · next h => rw [h, hsign]
  · exact hrest i (by omega)

theorem fpNegate_eq (w : Word) : fpNegate w = BitVec.ofBool (!w.getLsbD 31) ++ w.extractLsb' 0 31 := by
  refine eq_withSign ?_ fun i hi => ?_
  · simp [fpNegate]
  · simp [fpNegate, signMask_getLsbD, show i ≠ 31 by omega]

theorem clearSign_eq (w : Word) : w &&& 0x7FFFFFFF = BitVec.ofBool false ++ w.extractLsb' 0 31 := by
  refine eq_withSign ?_ fun i hi => ?_
  · simp
  · simp [magnitudeMask_getLsbD, hi]

theorem setSign_eq (w : Word) : w ||| 0x80000000 = BitVec.ofBool true ++ w.extractLsb' 0 31 := by
  refine eq_withSign ?_ fun i hi => ?_
  · simp
  · simp [signMask_getLsbD, show i ≠ 31 by omega]

/-- The magnitude of a datum as an integer: exponent and fraction. -/
theorem magnitude_eq (w : Word) : (w &&& 0x7FFFFFFF).toNat = 2 ^ 23 * fpExp w + fpFrac w := by
  have hm : (w &&& 0x7FFFFFFF).toNat = w.toNat % 2 ^ 31 := by
    rw [BitVec.toNat_and]
    exact Nat.and_two_pow_sub_one_eq_mod w.toNat 31
  rw [hm]
  simp only [fpExp, fpFrac, BitVec.extractLsb'_toNat, Nat.shiftRight_eq_div_pow]
  omega

/-- `frA >= 0.0` (spec/42_floating_point.md R454): no NaN, and a positive datum or a zero. -/
theorem fpNotLess_iff (w : Word) :
    fpNotLess w = true ↔ fpIsNan w = false ∧ (fpNeg w = false ∨ fpIsZero w = true) := by
  have hzero : fpIsZero w = true ↔ (w &&& 0x7FFFFFFF).toNat = 0 := by
    rw [magnitude_eq]
    simp only [fpIsZero, Bool.and_eq_true, beq_iff_eq]
    omega
  rw [hzero]
  unfold fpNotLess fpOrder
  generalize (w &&& 0x7FFFFFFF).toNat = m
  rw [Bool.and_eq_true, Bool.not_eq_true', decide_eq_true_eq]
  refine and_congr_right fun _ => ?_
  cases fpNeg w
  · simp
  · simp

/- What a move leaves (spec/42_floating_point.md R450). -/

theorem crField_eq_crBits (w : Word) :
    w.extractLsb' 28 4 = crBits (ibmBit w 0) (ibmBit w 1) (ibmBit w 2) (ibmBit w 3) := by
  apply BitVec.eq_of_getLsbD_eq
  intro i hi
  obtain ⟨h3, h2, h1, h0⟩ := crBits_getLsbD (ibmBit w 0) (ibmBit w 1) (ibmBit w 2) (ibmBit w 3)
  match i, hi with
  | 0, _ => rw [h0]; simp [ibmBit]
  | 1, _ => rw [h1]; simp [ibmBit]
  | 2, _ => rw [h2]; simp [ibmBit]
  | 3, _ => rw [h3]; simp [ibmBit]

theorem recordCr1_after (rc : Bool) (s : State) : Cr1After rc s (recordCr1 rc s) := by
  cases rc with
  | false => exact rfl
  | true =>
    have h := crFieldIs_setCrField s 1 (ibmBit s.fpscr 0) (ibmBit s.fpscr 1) (ibmBit s.fpscr 2) (ibmBit s.fpscr 3)
    rw [← crField_eq_crBits] at h
    exact h

/-- A move writes frD with its tags and CR1, and leaves the FPSCR. -/
theorem moveFp_result (rc : Bool) (s : State) (frD : Reg) (w : Word) (single : Bool) :
    ∃ t, FloatResult (moveFp rc (s.writeFpr frD w single)) s t frD w single rc ∧ t.fpscr = s.fpscr := by
  set u := recordCr1 rc (s.writeFpr frD w single) with hu
  have hcr : u = { s.writeFpr frD w single with cr := u.cr } := by cases rc <;> rfl
  have hdata (r : Reg) : u.fprData r = (s.writeFpr frD w single).fprData r := by rw [hcr]; rfl
  have hsp (r : Reg) : u.spTag r = (s.writeFpr frD w single).spTag r := by rw [hcr]; rfl
  have hlt (r : Reg) : u.ltTag r = (s.writeFpr frD w single).ltTag r := by rw [hcr]; rfl
  have hcr1 : Cr1After rc (s.writeFpr frD w single) u := recordCr1_after rc _
  refine ⟨{ u with cia := s.cia + 4 }, ⟨?_, ?_, ?_, ?_, rfl, ?_, ?_, ?_, ?_⟩, ?_⟩
  · show advance u = _
    rw [hcr]
    rfl
  · exact (hdata frD).trans (fprData_writeFpr_same ..)
  · exact (hsp frD).trans (spTag_writeFpr_same ..)
  · exact (hlt frD).trans (ltTag_writeFpr_same ..)
  · exact hcr1
  · exact fun r hr => ⟨(hdata r).trans (fprData_writeFpr_other s frD r w single hr),
      (hsp r).trans (spTag_writeFpr_other s frD r w single hr),
      (hlt r).trans (ltTag_writeFpr_other s frD r w single hr)⟩
  · intro a
    rw [hcr]
    rfl
  · rw [hcr]
    rfl
  · show u.fpscr = s.fpscr
    rw [hcr]
    rfl

theorem guardSingles_single {s : State} {r : Reg} {k : Unit → Out} (h : s.isSingle r = true) :
    proceed (guardSingles s [r]) k = k () := by
  simp [guardSingles, h]

theorem guardTagged_tagged {s : State} {r : Reg} {k : Unit → Out} (h : s.isTagged r = true) :
    proceed (guardTagged s r) k = k () := by
  simp [guardTagged, h]

/-- An instruction that comes to a move leaves what the move does. -/
theorem move_of_eq {i : Instr} {s : State} {rc single : Bool} {frD : Reg} {v w : Word}
    (h : exec i s = moveFp rc (s.writeFpr frD v single)) (hv : v = w) :
    ∃ t, FloatResult (exec i s) s t frD w single rc ∧ t.fpscr = s.fpscr := by
  rw [h, ← hv]
  exact moveFp_result ..

/-- Settles O20: each move passes its guards and ends as `moveFp_result` says. -/
theorem floatMoves : Obligations.FloatMoves := by
  intro s frD frA frB frC rc hfp
  refine ⟨fun htag => ?_, fun hsingle => ⟨?_, ?_, ?_⟩, fun hsingle => ?_⟩
  · exact move_of_eq (i := .fmr frD frB rc) ((guardFp_on hfp).trans (guardTagged_tagged htag)) rfl
  · exact move_of_eq (i := .fneg frD frB rc) ((guardFp_on hfp).trans (guardSingles_single hsingle)) (fpNegate_eq _)
  · exact move_of_eq (i := .fabs frD frB rc) ((guardFp_on hfp).trans (guardSingles_single hsingle)) (clearSign_eq _)
  · exact move_of_eq (i := .fnabs frD frB rc) ((guardFp_on hfp).trans (guardSingles_single hsingle)) (setSign_eq _)
  · intro a source htag
    have hsrc : (if fpNotLess a then frC else frB) = source := if_congr (fpNotLess_iff a) rfl rfl
    have hfsel : exec (.fsel frD frA frB frC rc) s =
        moveFp rc (s.writeFpr frD (s.fprData source) (s.spTag source)) := by
      rw [← hsrc] at htag ⊢
      exact (guardFp_on hfp).trans ((guardSingles_single hsingle).trans (guardTagged_tagged htag))
    exact move_of_eq hfsel rfl

end Sys2Proof.Machine

/-!
Reads and writes of registers as they stand, the segment registers and the TLB instructions (O47, O48).
-/
namespace Sys2Proof.Machine

/- Guards, reads and windows. -/

/-- Registers that may be used may be used in part. -/
theorem gprsUsable_mono {s : State} {rs qs : List Reg} (h : s.gprsUsable rs = true) (hsub : qs ⊆ rs) :
    s.gprsUsable qs = true := by
  simp only [State.gprsUsable, Bool.or_eq_true, List.all_eq_true] at h ⊢
  exact h.imp_right fun hall r hr => hall r (hsub hr)

/-- A guarded instruction in supervisor mode with usable registers is its body. -/
theorem supervisor_body {s : State} {rs : List Reg} {o : Out} (hpr : s.prView = false) (hu : s.gprsUsable rs = true) :
    proceed (guardSupervisor s) (fun _ => withGprs s rs o) = o :=
  (guardSupervisor_supervisor hpr).trans (withGprs_of_usable hu)

/-- An instruction that comes to the write of a word to rD computes that word. -/
theorem computes_of_eq {i : Instr} {s : State} {rD : Reg} {v w : Word} (h : exec i s = advance (s.writeGpr rD v))
    (hv : v = w) : Computes i s rD w false none none := by
  subst hv
  have hc := writeAdvance_computes rD v s
  rw [← h] at hc
  exact hc

/-- Only reserved fields are free where a register is read back (log entry 42). -/
theorem readBack_kept (s : State) (kept v : Word) : s.readBack kept v &&& kept = v &&& kept := by
  have hfree : (s.draw .reservedField &&& ~~~kept) &&& kept = 0 := by
    rw [BitVec.and_assoc, BitVec.and_comm (~~~kept), BitVec.and_not_self]
    exact BitVec.and_zero
  unfold State.readBack merge
  rw [BitVec.and_or_distrib_right, hfree, BitVec.and_assoc, BitVec.and_self]
  exact BitVec.or_zero

theorem reads_of_eq {i : Instr} {s : State} {rD : Reg} {kept v : Word}
    (h : exec i s = advance (s.writeGpr rD (s.readBack kept v))) : Reads i s rD kept v :=
  ⟨s.readBack kept v, readBack_kept s kept v, computes_of_eq h rfl⟩

theorem vector_get_set {α : Type} {n : Nat} (v : Vector α n) (i : Nat) (hi : i < n) (x : α) (k : Fin n) :
    (v.set i x hi).get k = if k.val = i then x else v.get k := by
  rw [Vector.get_eq_getElem, Vector.getElem_set, Vector.get_eq_getElem]
  exact if_congr eq_comm rfl rfl

/-- A window is opened by a write of the segment registers that changes them. -/
theorem ctx_withSr_eq (s : State) (v : Vector Word 16) : ({ s with sr := v } : State).ctx = s.ctx ↔ v = s.sr :=
  ⟨congrArg SyncCtx.sr, fun h => by rw [h]⟩

/-- A window is opened by a write of the TLBs that changes them. -/
theorem ctx_withTlbs_eq (s : State) (i d : Vector TlbEntry 32) :
    ({ s with itlb := i, dtlb := d } : State).ctx = s.ctx ↔ i = s.itlb ∧ d = s.dtlb :=
  ⟨fun h => ⟨congrArg SyncCtx.itlb h, congrArg SyncCtx.dtlb h⟩, fun ⟨hi, hd⟩ => by rw [hi, hd]⟩

theorem openWindow_withTlbs (s : State) (i d : Vector TlbEntry 32) :
    openWindow s { s with itlb := i, dtlb := d } = { s with
      itlb := i, dtlb := d, windows := if i = s.itlb ∧ d = s.dtlb then s.windows else s.ctx :: s.windows } := by
  rw [openWindow_eq]
  exact congrArg (fun w => { s with itlb := i, dtlb := d, windows := w }) (if_congr (ctx_withTlbs_eq s i d) rfl rfl)

/- Segment registers (spec/46_memory_control.md R690 to R693). -/

theorem topFour_eq_ofNat (w : Word) : w.extractLsb' 28 4 = BitVec.ofNat 4 (w.toNat / 2 ^ 28) := by
  apply BitVec.eq_of_toNat_eq
  rw [BitVec.extractLsb'_toNat, BitVec.toNat_ofNat, Nat.shiftRight_eq_div_pow]

/-- What `mtsr` and `mtsrin` leave. -/
theorem writeSr_effect {i : Instr} {s : State} {n : BitVec 4} {v : Word} (h : exec i s = advance (writeSr s n v)) :
    ∃ t, exec i s = .next t ∧ (∀ k : Fin 16, t.sr.get k = if k = n.toFin then v else s.sr.get k) ∧
      (t.windows = if t.sr = s.sr then s.windows else s.ctx :: s.windows) ∧
      t = { s with sr := t.sr, windows := t.windows, cia := s.cia + 4 } := by
  unfold writeSr at h
  rw [openWindow_eq] at h
  refine ⟨_, h, fun k => ?_, ?_, rfl⟩
  · exact (vector_get_set s.sr n.toNat n.isLt v k).trans (if_congr Fin.ext_iff.symm rfl rfl)
  · exact if_congr (ctx_withSr_eq s _) rfl rfl

/-- Settles O47: each instruction passes its guards and writes or reads the segment register it names. -/
theorem segmentRegisterMoves : Obligations.SegmentRegisterMoves := by
  intro s r rB n hu hpr m writes
  have hm : (s.readGpr rB).extractLsb' 28 4 = m := topFour_eq_ofNat _
  have hur : s.gprsUsable [r] = true := gprsUsable_mono hu (by simp)
  refine ⟨writeSr_effect (supervisor_body hpr hur), writeSr_effect ?_, reads_of_eq (supervisor_body hpr hur),
    reads_of_eq ?_⟩
  · rw [← hm]
    exact supervisor_body hpr hu
  · rw [← hm]
    exact supervisor_body hpr hu

/- The TLB instructions (spec/46_memory_control.md R694 to R697). -/

theorem tlbSet_toNat (ea : Word) : (tlbSet ea).toNat = ea.toNat / 2 ^ 12 % 16 := by
  rw [tlbSet, BitVec.extractLsb'_toNat, Nat.shiftRight_eq_div_pow]

/-- Both ways of the set are cleared and no other entry. -/
theorem invalidateSet_get (tlb : Vector TlbEntry 32) (set : BitVec 4) (k : Fin 32) :
    (invalidateSet tlb set).get k = if k.val / 2 = set.toNat then { tlb.get k with valid := false } else tlb.get k := by
  have h0 : (tlbIndex set false).val = 2 * set.toNat := rfl
  have h1 : (tlbIndex set true).val = 2 * set.toNat + 1 := rfl
  unfold invalidateSet
  dsimp only
  rw [vector_get_set, vector_get_set]
  by_cases hk1 : k.val = (tlbIndex set true).val
  · rw [if_pos hk1, if_pos (by omega), Fin.ext hk1]
  · rw [if_neg hk1]
    by_cases hk0 : k.val = (tlbIndex set false).val
    · rw [if_pos hk0, if_pos (by omega), Fin.ext hk0]
    · rw [if_neg hk0, if_neg (by omega)]

theorem compareWord_vsid (vsid : BitVec 24) (ea : Word) : (compareWord vsid ea).extractLsb' 7 24 = vsid := by
  apply BitVec.eq_of_getLsbD_eq
  intro i hi
  have h6 : ¬ 7 + i < 6 := by omega
  have h7 : ¬ 7 + i - 6 < 1 := by omega
  have h8 : 7 + i - 6 - 1 = i := by omega
  simp only [compareWord, BitVec.getLsbD_extractLsb', BitVec.getLsbD_append, h6, h7, h8, hi, decide_true, Bool.true_and,
    if_true, if_false]

/-- The segment the miss hardware uses, by its number. -/
theorem missVsid_eq (s : State) (ea : Word) :
    missVsid s ea =
      (s.sr.get (if protectionOnly s then 0 else (ea.extractLsb' 28 4).toFin)).setWidth 24 := by
  unfold missVsid srVsid State.srFor
  cases protectionOnly s
  · exact BitVec.eq_of_toNat_eq rfl
  · exact BitVec.eq_of_toNat_eq rfl

theorem tlbLoadPlace_val (s : State) (ea : Word) :
    (tlbLoadPlace s ea).val =
      (if protectionOnly s then (Config.poFormat.setOf ea).toNat else ea.toNat / 2 ^ 12 % 16) * 2 +
        (if ibmBit s.srr1 14 then 1 else 0) := by
  rw [← tlbSet_toNat]
  unfold tlbLoadPlace tlbIndex
  cases protectionOnly s <;> cases ibmBit s.srr1 14 <;> simp [Nat.mul_comm]

/-- A loaded entry at its place, and every other entry as it was. -/
theorem loadedEntry_get (s : State) (missed ea : Word) (old : Vector TlbEntry 32) (k : Fin 32) :
    (old.set (tlbLoadPlace s ea).val (loadedEntry s (compareWord (missVsid s missed) missed) ea)
        (tlbLoadPlace s ea).isLt).get k =
      if k.val = (if protectionOnly s then (Config.poFormat.setOf ea).toNat else ea.toNat / 2 ^ 12 % 16) * 2 +
          (if ibmBit s.srr1 14 then 1 else 0) then
        { valid := true
          vsid := (s.sr.get (if protectionOnly s then 0 else (missed.extractLsb' 28 4).toFin)).setWidth 24
          page := ea.extractLsb' 12 20, pte1 := s.rpa }
      else old.get k := by
  rw [vector_get_set, tlbLoadPlace_val, loadedEntry, compareWord_vsid, missVsid_eq]

/-- Settles O48: each instruction passes its guards; what the TLBs hold then is said by `invalidateSet_get` and
`loadedEntry_get`. -/
theorem tlbInstructions : Obligations.TlbInstructions := by
  intro s rB hu hpr set cleared place loaded opened
  have hset : (tlbSet (s.readGpr rB)).toNat = set := tlbSet_toNat _
  have hcleared (tlb : Vector TlbEntry 32) : cleared tlb (invalidateSet tlb (tlbSet (s.readGpr rB))) := fun k => by
    rw [invalidateSet_get, hset]
  refine ⟨guardSupervisor_supervisor hpr, ?_, ?_, ?_⟩
  · exact ⟨_, (supervisor_body hpr hu).trans (congrArg advance (openWindow_withTlbs s _ _)), hcleared _, hcleared _, rfl,
      rfl⟩
  · exact ⟨_, (supervisor_body hpr hu).trans (congrArg advance (openWindow_withTlbs s s.itlb _)),
      fun k => loadedEntry_get s s.dmiss .., rfl, rfl⟩
  · exact ⟨_, (supervisor_body hpr hu).trans (congrArg advance (openWindow_withTlbs s _ s.dtlb)),
      fun k => loadedEntry_get s s.imiss .., rfl, rfl⟩

end Sys2Proof.Machine

/-!
The special registers: what `mfspr` reads and `mtspr` leaves, register by register (O35), and the timers (O36).
-/
namespace Sys2Proof.Machine

/- The two moves, past their checks (spec/45_processor_control.md R620 to R622). -/

theorem mfspr_eq {s : State} {rD : Reg} {n : BitVec 10} {r : Spr} {v : Word} (hu : s.gprsUsable [rD] = true)
    (hp : n.getLsbD 4 = true → s.prView = false) (hn : sprOfNumber n.toNat = some r) (hv : readSpr s r = some v) :
    exec (.mfspr rD n) s = advance (s.writeGpr rD v) := by
  have hallowed : ¬ (sprIsSupervisor n && s.prView) = true := by
    rw [Bool.and_eq_true]
    exact fun ⟨h4, hpr⟩ => absurd (hp h4) (by simp [hpr])
  change execMfspr rD n s = _
  simp only [execMfspr, hn, hv, if_neg hallowed]
  exact withGprs_of_usable hu

theorem mtspr_eq {s t : State} {rS : Reg} {n : BitVec 10} {r : Spr} (hu : s.gprsUsable [rS] = true)
    (hp : n.getLsbD 4 = true → s.prView = false) (hn : sprOfNumber n.toNat = some r)
    (ht : writeSpr s (s.readGpr rS) r = some t) : exec (.mtspr rS n) s = advance t := by
  have hallowed : ¬ (sprIsSupervisor n && s.prView) = true := by
    rw [Bool.and_eq_true]
    exact fun ⟨h4, hpr⟩ => absurd (hp h4) (by simp [hpr])
  change execMtspr rS n s = _
  simp only [execMtspr, hn, ht, if_neg hallowed]
  exact withGprs_of_usable hu

/- The registers that hold a word as it stands. -/

/-- The register is a stored word that `mfspr` reads: no time base, no computed or constant register, and not TCR. -/
def Spr.stands : Spr → Bool
  | .tbl | .tbu | .pvr | .dcmp | .hash1 | .hash2 | .icmp | .tcr | .hid1 => false
  | _ => true

/-- The number of a register (spec/10_state.md R70). -/
def Spr.number : Spr → BitVec 10
  | .xer => 1 | .lr => 8 | .ctr => 9 | .dsisr => 18 | .dar => 19 | .dec => 22 | .sdr1 => 25 | .srr0 => 26 | .srr1 => 27
  | .sprg k => 272 + BitVec.ofNat 10 k.val
  | .tbl => 284 | .tbu => 285 | .pvr => 287
  | .ibat k => 528 + BitVec.ofNat 10 k.val
  | .dbat k => 536 + BitVec.ofNat 10 k.val
  | .dmiss => 976 | .dcmp => 977 | .hash1 => 978 | .hash2 => 979 | .imiss => 980 | .icmp => 981 | .rpa => 982
  | .tcr => 984 | .ibr => 986 | .esasrr => 987 | .sebr => 990 | .ser => 991 | .hid0 => 1008 | .hid1 => 1009
  | .iabr => 1010 | .sp => 1021 | .lt => 1022

/-- The bits of a register that read back as stored (log entry 42). -/
def Spr.kept : Spr → Word
  | .sdr1 => 0xFFFF01FF
  | .ibat k => if k.val % 2 = 0 then 0xFFFE1FFF else 0xFFFE007B ||| 1#32 <<< ibatNeBit ||| 1#32 <<< ibatSeBit
  | .dbat k => if k.val % 2 = 0 then 0xFFFE1FFF else 0xFFFE007B
  | .rpa => 0xFFFFF1FB
  | _ => 0xFFFFFFFF

/-- The word a register holds; 0 for those that hold none as it stands. -/
def Spr.value (r : Spr) (s : State) : Word :=
  match r with
  | .xer => s.xer | .lr => s.lr | .ctr => s.ctr | .dsisr => s.dsisr | .dar => s.dar | .dec => s.dec | .sdr1 => s.sdr1
  | .srr0 => s.srr0 | .srr1 => s.srr1
  | .sprg k => s.sprg.get k
  | .ibat k => s.ibat.get k
  | .dbat k => s.dbat.get k
  | .dmiss => s.dmiss | .imiss => s.imiss | .rpa => s.rpa | .ibr => s.ibr | .esasrr => s.esasrr | .sebr => s.sebr
  | .ser => s.ser | .hid0 => s.hid0 | .iabr => s.iabr | .sp => s.sp | .lt => s.lt
  | .tbl | .tbu | .pvr | .dcmp | .hash1 | .hash2 | .icmp | .tcr | .hid1 => 0

/-- The row of the statement's table for a register. -/
def Spr.row (r : Spr) : SprRow := { num := r.number, kept := r.kept, value := r.value }

/-- The registers of the statement's table before the IBATs. -/
def firstSprs : List Spr :=
  [.xer, .lr, .ctr, .dsisr, .dar, .dec, .sdr1, .srr0, .srr1, .sprg 0, .sprg 1, .sprg 2, .sprg 3]

/-- The registers of the statement's table after the DBATs. -/
def lastSprs : List Spr := [.dmiss, .imiss, .rpa, .ibr, .esasrr, .sebr, .ser, .hid0, .iabr, .sp, .lt]

/-- The registers of the statement's table, in its order. -/
def tableSprs : List Spr :=
  firstSprs ++ (List.finRange 8).map Spr.ibat ++ (List.finRange 8).map Spr.dbat ++ lastSprs

theorem specialRegisters_eq : specialRegisters = tableSprs.map Spr.row := by
  unfold tableSprs specialRegisters
  rw [List.map_append, List.map_append, List.map_append, List.map_map, List.map_map]
  refine congrArg₂ _ (congrArg₂ _ (congrArg₂ _ ?_ ?_) ?_) ?_
  · rfl
  · exact List.map_congr_left fun k _ => rfl
  · exact List.map_congr_left fun k _ => rfl
  · rfl

/-- Every row of the table is the row of a register that holds its word as it stands. -/
theorem row_of_mem {p : SprRow} (h : p ∈ specialRegisters) : ∃ r : Spr, r.stands = true ∧ p = r.row := by
  rw [specialRegisters_eq] at h
  obtain ⟨r, hr, rfl⟩ := List.mem_map.mp h
  have hall : ∀ r ∈ tableSprs, r.stands = true := by decide
  exact ⟨r, hall r hr, rfl⟩

theorem sprOfNumber_number (r : Spr) : sprOfNumber r.number.toNat = some r := by
  cases r with
  | sprg k => revert k; decide
  | ibat k => revert k; decide
  | dbat k => revert k; decide
  | _ => rfl

theorem Spr.number_injective {q r : Spr} (h : q.number = r.number) : q = r := by
  have hq := sprOfNumber_number q
  rw [h, sprOfNumber_number r] at hq
  exact (Option.some.inj hq).symm

/- What a read gives (R623). -/

theorem ibatKept_eq (k : Fin 8) : ibatKept k = (Spr.ibat k).kept := by
  unfold ibatKept batKept Spr.kept
  by_cases h : k.val % 2 = 0
  · simp [h, maskIf]
  · simp [maskIf, show k.val % 2 = 1 by omega, BitVec.or_assoc]

/-- A read gives the word a register holds, but for reserved fields. -/
theorem readSpr_kept (s : State) {r : Spr} (h : r.stands = true) :
    ∃ w, readSpr s r = some w ∧ w &&& r.kept = r.value s &&& r.kept := by
  cases r with
  | sdr1 => exact ⟨_, rfl, readBack_kept ..⟩
  | rpa => exact ⟨_, rfl, readBack_kept ..⟩
  | dbat k => exact ⟨_, rfl, readBack_kept ..⟩
  | ibat k => exact ⟨_, rfl, by rw [ibatKept_eq]; exact readBack_kept ..⟩
  | tbl | tbu | pvr | dcmp | hash1 | hash2 | icmp | tcr | hid1 => cases h
  | _ => exact ⟨_, rfl, rfl⟩

/- What a write leaves (R623). -/

theorem writeSpr_some (s : State) (v : Word) {r : Spr} (h : r.stands = true) (hd : r ≠ .dmiss) (hi : r ≠ .imiss) :
    ∃ t, writeSpr s v r = some t := by
  cases r with
  | tbl | tbu | pvr | dcmp | hash1 | hash2 | icmp | tcr | hid1 => cases h
  | dmiss => exact absurd rfl hd
  | imiss => exact absurd rfl hi
  | _ => exact ⟨_, rfl⟩

/-- A write opens at most one window, on the context it found. -/
theorem writeSpr_windows {s t : State} {v : Word} {r : Spr} (h : writeSpr s v r = some t) :
    ∀ c ∈ t.windows, c ∈ s.windows ∨ c = s.ctx := by
  have hopen (u : State) (hu : u.windows = s.windows) : ∀ c ∈ (openWindow s u).windows, c ∈ s.windows ∨ c = s.ctx := by
    rw [openWindow_eq, hu]
    dsimp only
    split
    · exact fun c hc => .inl hc
    · exact fun c hc => (List.mem_cons.mp hc).symm
  cases r <;> simp only [writeSpr, Option.some.injEq, reduceCtorEq] at h <;> subst h
  case sdr1 | ibat | hid0 | iabr => exact hopen _ rfl
  all_goals exact fun c hc => .inl hc

/-- A write of a register that holds its word as it stands changes the registers of the table, the latch of the
decrementer and the windows only. -/
theorem writeSpr_frame {s t : State} {v : Word} {r : Spr} (hs : r.stands = true) (h : writeSpr s v r = some t) :
    t = { s with
      xer := t.xer, lr := t.lr, ctr := t.ctr, dsisr := t.dsisr, dar := t.dar, dec := t.dec, sdr1 := t.sdr1
      srr0 := t.srr0, srr1 := t.srr1, sprg := t.sprg, ibat := t.ibat, dbat := t.dbat, rpa := t.rpa, ibr := t.ibr
      esasrr := t.esasrr, sebr := t.sebr, ser := t.ser, hid0 := t.hid0, iabr := t.iabr, sp := t.sp, lt := t.lt
      decPending := t.decPending, windows := t.windows } := by
  cases r <;> simp only [writeSpr, Option.some.injEq, reduceCtorEq] at h <;> subst h
  case tbl | tbu | tcr | hid1 => cases hs
  case sdr1 | ibat | hid0 | iabr => rw [openWindow_eq]
  all_goals rfl

/-- What a write of register `r` leaves in each field: `v` where the field is that register, else what it held. -/
structure SprWritten (s t : State) (v : Word) (r : Spr) : Prop where
  xer : t.xer = if r = .xer then v &&& xerKept else s.xer
  lr : t.lr = if r = .lr then v else s.lr
  ctr : t.ctr = if r = .ctr then v else s.ctr
  dsisr : t.dsisr = if r = .dsisr then v else s.dsisr
  dar : t.dar = if r = .dar then v else s.dar
  dec : t.dec = if r = .dec then v else s.dec
  sdr1 : t.sdr1 = if r = .sdr1 then v else s.sdr1
  srr0 : t.srr0 = if r = .srr0 then v else s.srr0
  srr1 : t.srr1 = if r = .srr1 then v else s.srr1
  sprg : ∀ k, t.sprg.get k = if r = .sprg k then v else s.sprg.get k
  ibat : ∀ k, t.ibat.get k = if r = .ibat k then v else s.ibat.get k
  dbat : ∀ k, t.dbat.get k = if r = .dbat k then v else s.dbat.get k
  dmiss : t.dmiss = s.dmiss
  imiss : t.imiss = s.imiss
  rpa : t.rpa = if r = .rpa then v else s.rpa
  ibr : t.ibr = if r = .ibr then v else s.ibr
  esasrr : t.esasrr = if r = .esasrr then v else s.esasrr
  sebr : t.sebr = if r = .sebr then v else s.sebr
  ser : t.ser = if r = .ser then v else s.ser
  hid0 : t.hid0 = if r = .hid0 then v else s.hid0
  iabr : t.iabr = if r = .iabr then v else s.iabr
  sp : t.sp = if r = .sp then v else s.sp
  lt : t.lt = if r = .lt then v else s.lt

/-- One element of a vector written, as the fields of `SprWritten` say it. -/
theorem get_set_ctor {n : Nat} (c : Fin n → Spr) (hc : Function.Injective c) (w : Vector Word n) (i : Fin n) (v : Word)
    (k : Fin n) : (w.set i.val v i.isLt).get k = if c i = c k then v else w.get k := by
  rw [vector_get_set]
  exact if_congr ⟨fun h => congrArg c (Fin.ext h.symm), fun h => congrArg Fin.val (hc h).symm⟩ rfl rfl

theorem writeSpr_written {s t : State} {v : Word} {r : Spr} (h : writeSpr s v r = some t) : SprWritten s t v r := by
  cases r <;> simp only [writeSpr, Option.some.injEq, reduceCtorEq] at h <;> subst h
  case sprg i => constructor <;> simp [get_set_ctor Spr.sprg fun _ _ => Spr.sprg.inj]
  case ibat i => constructor <;> simp [get_set_ctor Spr.ibat fun _ _ => Spr.ibat.inj]
  case dbat i => constructor <;> simp [get_set_ctor Spr.dbat fun _ _ => Spr.dbat.inj]
  case sdr1 | hid0 | iabr => rw [openWindow_eq]; constructor <;> intros <;> rfl
  all_goals constructor <;> intros <;> rfl

/-- After a write of `r` each register holds `v` (of XER its kept bits) where it is `r`, else what it held. -/
theorem value_after_write {s t : State} {v : Word} {r : Spr} (h : SprWritten s t v r) (q : Spr) (hd : r ≠ .dmiss)
    (hi : r ≠ .imiss) (hs : r.stands = true) :
    q.value t = if r = q then (if q = .xer then v &&& xerKept else v) else q.value s := by
  cases q with
  | xer => exact h.xer
  | lr => exact h.lr
  | ctr => exact h.ctr
  | dsisr => exact h.dsisr
  | dar => exact h.dar
  | dec => exact h.dec
  | sdr1 => exact h.sdr1
  | srr0 => exact h.srr0
  | srr1 => exact h.srr1
  | sprg k => exact h.sprg k
  | ibat k => exact h.ibat k
  | dbat k => exact h.dbat k
  | dmiss => exact h.dmiss.trans (if_neg hd).symm
  | imiss => exact h.imiss.trans (if_neg hi).symm
  | rpa => exact h.rpa
  | ibr => exact h.ibr
  | esasrr => exact h.esasrr
  | sebr => exact h.sebr
  | ser => exact h.ser
  | hid0 => exact h.hid0
  | iabr => exact h.iabr
  | sp => exact h.sp
  | lt => exact h.lt
  | tbl | tbu | pvr | dcmp | hash1 | hash2 | icmp | tcr | hid1 => exact (if_neg fun e => by rw [e] at hs; cases hs).symm

/- Computed registers (spec/10_state.md R85, R86). -/

theorem hash_eq (s : State) (ea : Word) :
    primaryHash (missVsid s ea) ea =
      ((s.sr.get (if protectionOnly s then 0 else (ea.extractLsb' 28 4).toFin)).setWidth 24).setWidth 19 ^^^
        (ea.extractLsb' 12 16).setWidth 19 := by
  have hlow (w : BitVec 24) : w.extractLsb' 0 19 = w.setWidth 19 := BitVec.eq_of_toNat_eq rfl
  rw [primaryHash, missVsid_eq, hlow]

theorem sdr1View_settled {s : State} (hw : s.windows = []) : s.sdr1View = s.sdr1 := view_of_no_window s _ _ hw

/-- Settles O35: each row of the table is the row of one register, of which `readSpr_kept` and `value_after_write` say
what a read gives and what a write leaves. -/
theorem specialRegisterMoves : Obligations.SpecialRegisterMoves := by
  intro s r hu
  constructor
  · intro p hp hpr
    obtain ⟨x, hx, rfl⟩ := row_of_mem hp
    have hn : sprOfNumber x.row.num.toNat = some x := sprOfNumber_number x
    constructor
    · obtain ⟨w, hw, hkept⟩ := readSpr_kept s hx
      exact ⟨w, hkept, computes_of_eq (mfspr_eq hu hpr hn hw) rfl⟩
    · intro h976 h980
      have hd : x ≠ .dmiss := fun e => h976 (by rw [e]; rfl)
      have hi : x ≠ .imiss := fun e => h980 (by rw [e]; rfl)
      obtain ⟨t, ht⟩ := writeSpr_some s (s.readGpr r) hx hd hi
      have hcia : t.cia = s.cia := by rw [writeSpr_frame hx ht]
      have hvalue (q : Spr) : q.value { t with cia := s.cia + 4 } =
          if x = q then (if q = .xer then s.readGpr r &&& xerKept else s.readGpr r) else q.value s :=
        Eq.trans (by cases q <;> rfl) (value_after_write (writeSpr_written ht) q hd hi hx)
      have hwindows := writeSpr_windows ht
      refine ⟨{ t with cia := s.cia + 4 }, ?_, rfl, ?_, ?_, hwindows, ?_⟩
      · rw [mtspr_eq hu hpr hn ht, advance_next, hcia]
      · have hxer : x = .xer ↔ x.row.num = 1 := ⟨fun e => by rw [e]; rfl, fun e => Spr.number_injective (r := .xer) e⟩
        exact (hvalue x).trans ((if_pos rfl).trans (if_congr hxer rfl rfl))
      · intro q hq hne
        obtain ⟨y, -, rfl⟩ := row_of_mem hq
        exact (hvalue y).trans (if_neg fun e => hne (by rw [e]))
      · conv_lhs => rw [writeSpr_frame hx ht]
  · intro hpr reads vsid missed hash group compared
    have hreads {n : BitVec 10} {x : Spr} {v w : Word} (hn : sprOfNumber n.toNat = some x) (hv : readSpr s x = some v)
        (hvw : v = w) : reads n w := computes_of_eq (mfspr_eq hu (fun _ => hpr) hn hv) hvw
    have hcompared (ea : Word) : compareWord (missVsid s ea) ea = compared ea := by rw [missVsid_eq]; rfl
    refine ⟨fun hw => ⟨hreads (x := .hash1) rfl rfl ?_, hreads (x := .hash2) rfl rfl ?_⟩,
      hreads (x := .dcmp) rfl rfl (hcompared _), hreads (x := .icmp) rfl rfl (hcompared _),
      hreads (x := .pvr) rfl rfl rfl, hreads (x := .hid1) rfl rfl rfl, mtspr_eq (r := .hid1) hu (fun _ => hpr) rfl rfl⟩
    · rw [hash1, sdr1View_settled hw, hash_eq]
      rfl
    · rw [hash2, sdr1View_settled hw, hash_eq]
      rfl

/- TCR (spec/10_state.md R94). -/

theorem bitAt_getLsbD (p k : Fin 32) (b : Bool) : (bitAt p b).getLsbD k.val = (decide (k = p) && b) := by
  have hbit : (1#32 <<< p.val).getLsbD k.val = decide (k = p) := by
    have := p.isLt
    rw [← BitVec.twoPow_eq, BitVec.getLsbD_twoPow, Bool.eq_iff_iff]
    simp only [Bool.and_eq_true, decide_eq_true_eq, Fin.ext_iff]
    omega
  cases b
  · simp [bitAt, maskIf]
  · simpa [bitAt, maskIf] using hbit

/-- Fields at distinct positions do not disturb one another. -/
theorem tcrToWord_getLsbD (t : Tcr) (k : Fin 32) : (tcrToWord t).getLsbD k.val =
    if k = tcrLayout.we then t.we else if k = tcrLayout.wpHigh then t.wp.getLsbD 1
    else if k = tcrLayout.wpLow then t.wp.getLsbD 0 else if k = tcrLayout.wrc then t.wrc
    else if k = tcrLayout.ws then t.ws else false := by
  have hn := tcrLayout_distinct
  simp only [tcrPositions, List.nodup_cons, List.mem_cons, List.not_mem_nil, or_false, not_or] at hn
  obtain ⟨⟨h1, h2, h3, h4⟩, ⟨h5, h6, h7⟩, ⟨h8, h9⟩, h10, -⟩ := hn
  simp only [tcrToWord, BitVec.getLsbD_or, bitAt_getLsbD]
  split_ifs with hwe hhigh hlow hwrc hws
  · simp [hwe, h1, h2, h3, h4]
  · simp [hhigh, Ne.symm h1, h5, h6, h7]
  · simp [hlow, Ne.symm h2, Ne.symm h5, h8, h9]
  · simp [hwrc, Ne.symm h3, Ne.symm h6, Ne.symm h8, h10]
  · simp [hws, Ne.symm h4, Ne.symm h7, Ne.symm h9, Ne.symm h10]
  · simp [hwe, hhigh, hlow, hwrc, hws]

/-- `mftb` of another number than 268 and 269 is illegal (spec/45_processor_control.md R625). -/
theorem mftb_illegal (s : State) (r : Reg) {n : BitVec 10} (h268 : n ≠ 268) (h269 : n ≠ 269) :
    exec (.mftb r n) s = raiseIllegal s := by
  change execMftb r n s = _
  have hne {m : BitVec 10} (h : n ≠ m) : ¬ n.toNat = m.toNat := fun e => h (BitVec.eq_of_toNat_eq e)
  exact (if_neg (hne h268)).trans (if_neg (hne h269))

/-- Settles O36: each move passes its checks and reads or writes the timer register its number names. -/
theorem timerRegisterMoves : Obligations.TimerRegisterMoves := by
  refine ⟨tcrLayout_distinct, fun s r hu => ?_⟩
  intro v
  refine ⟨computes_of_eq (withGprs_of_usable hu) rfl, computes_of_eq (withGprs_of_usable hu) rfl,
    fun n h268 h269 => mftb_illegal s r h268 h269, fun hpr => ?_⟩
  have hwrites {n : BitVec 10} {x : Spr} {t : State} (hn : sprOfNumber n.toNat = some x)
      (ht : writeSpr s v x = some t) : exec (.mtspr r n) s = advance t := mtspr_eq hu (fun _ => hpr) hn ht
  exact ⟨hwrites (x := .tbl) rfl rfl, hwrites (x := .tbu) rfl rfl, hwrites (x := .dec) rfl rfl,
    hwrites (x := .tcr) rfl rfl, computes_of_eq (mfspr_eq (r := .tcr) hu (fun _ => hpr) rfl rfl) rfl,
    tcrToWord_getLsbD s.tcr⟩

end Sys2Proof.Machine

end

section
/-!
SUPPORT. The memory model: exception entry, alignment, translation, loads and stores, reservations, the cache instructions.
The option below has each proof run in the order of the text, as in the section before.
-/
set_option deprecated.oldSectionVars true

/-!
Bits of a word, and what an exception entry leaves (O49).
-/
namespace Sys2Proof.Machine

/- Bits of a word by their IBM numbers (spec/00_scope.md R11). -/

theorem ibmBit_or (v w : Word) (k : Nat) : ibmBit (v ||| w) k = (ibmBit v k || ibmBit w k) := BitVec.getLsbD_or

theorem ibmBit_and (v w : Word) (k : Nat) : ibmBit (v &&& w) k = (ibmBit v k && ibmBit w k) := BitVec.getLsbD_and

theorem ibmBit_maskIf (b : Bool) (m : Word) (k : Nat) : ibmBit (maskIf b m) k = (b && ibmBit m k) := by
  cases b
  · simp [maskIf, ibmBit]
  · simp [maskIf]

/-- A word masked to one bit is zero where the bit is. -/
theorem and_twoPow_ne_zero (w : Word) (i : Nat) (hi : i < 32) : (w &&& BitVec.twoPow 32 i != 0) = w.getLsbD i := by
  have hne : BitVec.twoPow 32 i ≠ 0#32 := fun e => by
    have := congrArg (fun x => x.getLsbD i) e
    simp [hi] at this
  rw [BitVec.and_twoPow]
  cases h : w.getLsbD i
  · simp
  · simpa using hne

/-- A bit of the MSR by its IBM number. -/
theorem msrBit_ibmBit (s : State) {m : Word} {k : Nat} (hk : k < 32) (hm : m = BitVec.twoPow 32 (31 - k)) :
    s.msrBit m = ibmBit s.msr k := by
  rw [hm]
  exact and_twoPow_ne_zero s.msr (31 - k) (by omega)

/- Taking an exception (spec/60_exceptions.md R740 to R745). -/

theorem isMiss_iff (e : Exception) : e.isMiss = true ↔ e = .instrMiss ∨ e = .dataLoadMiss ∨ e = .dataStoreMiss := by
  cases e <;> decide

theorem zeroPrefix_iff (e : Exception) :
    e.zeroPrefix = true ↔ e = .softReset ∨ e = .machineCheck ∨ e = .iabrMatch := by
  cases e <;> decide

theorem entryKeep_bits (e : Exception) {k : Nat} (hk : k < 32) :
    ibmBit (if e = .machineCheck then msrEntryKeep &&& ~~~msrME else msrEntryKeep) k =
      (decide (k = 15 ∨ k = 25) || decide (k = 19 ∧ e ≠ .machineCheck)) := by
  have hcheck : ∀ k < 32, ibmBit (msrEntryKeep &&& ~~~msrME) k = decide (k = 15 ∨ k = 25) := by decide
  have hother : ∀ k < 32, ibmBit msrEntryKeep k = (decide (k = 15 ∨ k = 25) || decide (k = 19)) := by decide
  by_cases he : e = .machineCheck
  · simpa [he] using hcheck k hk
  · simpa [he] using hother k hk

/-- The MSR at entry, bit by bit (R741). -/
theorem ibmBit_entryMsr (e : Exception) (old : Word) {k : Nat} (hk : k < 32) :
    ibmBit (entryMsr e old) k = true ↔
      (k = 31 ∧ ibmBit old 15 = true) ∨ (k = 14 ∧ e.isMiss = true) ∨ ((k = 15 ∨ k = 25) ∧ ibmBit old k = true) ∨
        (k = 19 ∧ e ≠ .machineCheck ∧ ibmBit old 19 = true) := by
  have hile : (old &&& msrILE != 0) = ibmBit old 15 := and_twoPow_ne_zero old 16 (by omega)
  have hle : ∀ k < 32, ibmBit msrLE k = decide (k = 31) := by decide
  have htgpr : ∀ k < 32, ibmBit msrTGPR k = decide (k = 14) := by decide
  unfold entryMsr
  simp only [ibmBit_or, ibmBit_and, ibmBit_maskIf, hile, hle k hk, htgpr k hk, entryKeep_bits e hk, Bool.or_eq_true,
    Bool.and_eq_true, decide_eq_true_eq]
  by_cases h19 : k = 19
  · subst h19
    simp only [Nat.reduceEqDiff]
    tauto
  · tauto

/-- SRR1 at a translation miss has no copy of MSR bits 0 to 3 (R766). -/
theorem entrySrr1_miss {e : Exception} (h : e.isMiss = true) (old info : Word) :
    entrySrr1 e old info = (old &&& 0x07C0FFFF) ||| info := by
  rw [entrySrr1, if_pos h, BitVec.and_assoc]
  rfl

theorem entrySrr1_other {e : Exception} (h : ¬ e.isMiss = true) (old info : Word) :
    entrySrr1 e old info = (old &&& 0x87C0FFFF) ||| info := if_neg h

/-- Settles O49: `takeException` sets the fields as `entrySrr1`, `ibmBit_entryMsr` and `vectorAddress` say; the table is
that of the offsets. -/
theorem exceptionEntry : Obligations.ExceptionEntry := by
  intro s srr0 info table
  have hoffset : ∀ p ∈ table, p.2 = p.1.offset := by decide
  refine ⟨fun e => ⟨e.offset, by cases e <;> decide⟩, ?_⟩
  intro p hp e miss t
  have hmiss : e.isMiss = true ↔ miss := isMiss_iff e
  refine ⟨rfl, fun h => entrySrr1_miss (hmiss.mpr h) _ _, fun h => entrySrr1_other (h ∘ hmiss.mp) _ _, fun k hk => ?_, ?_,
    ?_, ?_, rfl⟩
  · exact (ibmBit_entryMsr e s.msr hk).trans (by rw [hmiss])
  · rw [hoffset p hp]
    exact if_congr Iff.rfl rfl (if_congr (zeroPrefix_iff e) rfl rfl)
  · exact congrArg (s.decPending && ·) (by cases e <;> rfl)
  · exact congrArg (s.wdtPending && ·) (by cases e <;> rfl)

end Sys2Proof.Machine

/-!
Misaligned operands and little-endian mode (O28).
-/
namespace Sys2Proof.Machine

/- The instruction image in DSISR (spec/60_exceptions.md R755). -/

theorem toNat_append_add {m n : Nat} (x : BitVec m) (y : BitVec n) : (x ++ y).toNat = x.toNat * 2 ^ n + y.toNat := by
  rw [BitVec.toNat_append, ← Nat.shiftLeft_add_eq_or_of_lt y.isLt, Nat.shiftLeft_eq]

/-- The image of an instruction word: the seven bits R755 takes from its opcode, its target or source, and its base. -/
structure AlignmentImage (w : Word) (head : Nat) (r rA : Reg) : Prop where
  opcode : if opcd w = 31 then (w.extractLsb' 1 2).toNat * 32 + (w.extractLsb' 6 1).toNat * 16 + (w.extractLsb' 7 4).toNat = head
    else (w.extractLsb' 26 1).toNat * 16 + (w.extractLsb' 27 4).toNat = head
  target : fA w = r
  base : fB w = rA

theorem encD_image {op : Nat} (h : op < 64 ∧ op ≠ 31) (r rA : Reg) (d : BitVec 16) :
    AlignmentImage (encD (BitVec.ofNat 6 op) r rA d) (op % 2 * 16 + op / 2 % 16) r rA := by
  obtain ⟨hop, hne⟩ := h
  have hr := r.isLt
  have hA := rA.isLt
  have hd := d.isLt
  have hw : (encD (BitVec.ofNat 6 op) r rA d).toNat = ((op * 2 ^ 5 + r.toNat) * 2 ^ 5 + rA.toNat) * 2 ^ 16 + d.toNat := by
    simp only [encD, toNat_append_add, BitVec.toNat_ofNat, Nat.mod_eq_of_lt (show op < 2 ^ 6 from hop)]
  generalize encD (BitVec.ofNat 6 op) r rA d = w at hw
  have hopcd : opcd w ≠ 31 := fun e => by
    have := congrArg BitVec.toNat e
    simp only [opcd, BitVec.extractLsb'_toNat, Nat.shiftRight_eq_div_pow, hw] at this
    change _ = 31 at this
    omega
  refine ⟨?_, ?_, ?_⟩
  · rw [if_neg hopcd]
    simp only [BitVec.extractLsb'_toNat, Nat.shiftRight_eq_div_pow, hw]
    omega
  · apply BitVec.eq_of_toNat_eq
    simp only [fA, BitVec.extractLsb'_toNat, Nat.shiftRight_eq_div_pow, hw]
    omega
  · apply BitVec.eq_of_toNat_eq
    simp only [fB, BitVec.extractLsb'_toNat, Nat.shiftRight_eq_div_pow, hw]
    omega

theorem encX_image {xo : Nat} (h : xo < 1024) (r rA rB : Reg) (last : Bool) :
    AlignmentImage (encX 31 r rA rB (BitVec.ofNat 10 xo) last) (xo % 4 * 32 + xo / 32 % 2 * 16 + xo / 64) r rA := by
  have hr := r.isLt
  have hA := rA.isLt
  have hB := rB.isLt
  have hlast := Bool.toNat_le last
  have hw : (encX 31 r rA rB (BitVec.ofNat 10 xo) last).toNat =
      ((((31 * 2 ^ 5 + r.toNat) * 2 ^ 5 + rA.toNat) * 2 ^ 5 + rB.toNat) * 2 ^ 10 + xo) * 2 ^ 1 + last.toNat := by
    simp only [encX, toNat_append_add, BitVec.toNat_ofNat, Nat.mod_eq_of_lt (show xo < 2 ^ 10 from h), BitVec.toNat_ofBool]
    rfl
  generalize encX 31 r rA rB (BitVec.ofNat 10 xo) last = w at hw
  have hopcd : opcd w = 31 := by
    apply BitVec.eq_of_toNat_eq
    simp only [opcd, BitVec.extractLsb'_toNat, Nat.shiftRight_eq_div_pow, hw]
    change _ = 31
    omega
  refine ⟨?_, ?_, ?_⟩
  · rw [if_pos hopcd]
    simp only [BitVec.extractLsb'_toNat, Nat.shiftRight_eq_div_pow, hw]
    omega
  · apply BitVec.eq_of_toNat_eq
    simp only [fA, BitVec.extractLsb'_toNat, Nat.shiftRight_eq_div_pow, hw]
    omega
  · apply BitVec.eq_of_toNat_eq
    simp only [fB, BitVec.extractLsb'_toNat, Nat.shiftRight_eq_div_pow, hw]
    omega

/-- The alignment exception for an operand at `ea`, with what DSISR has of the instruction. -/
def AlignmentTaken (o : Out) (s : State) (r rA : Reg) (ea : Word) (head : Nat) (knownA : Bool) : Prop :=
  ∃ dsisr : Word, dsisr.toNat / 2 ^ 10 = head ∧ dsisr.toNat / 32 % 32 = r.toNat ∧
    (knownA = true → dsisr.toNat % 32 = rA.toNat) ∧ Raises o .alignment 0 { s with dsisr := dsisr, dar := ea }

theorem takeAlignment_taken {w : Word} {head : Nat} {r rA : Reg} (h : AlignmentImage w head r rA) (s : State) (ea : Word)
    (knownA : Bool) : AlignmentTaken (takeAlignment s w true knownA ea) s r rA ea head knownA := by
  obtain ⟨hop, hr, hA⟩ := h
  have hrlt := r.isLt
  refine ⟨alignmentDsisr s w true knownA, ?_, ?_, fun hk => ?_, rfl⟩
  all_goals
    simp only [alignmentDsisr, toNat_append_add, beq_iff_eq, if_true, hr]
    generalize hy : BitVec.toNat (if knownA = true then fB w else BitVec.extractLsb' 0 5 (s.draw .dsisrAlign)) = y
    have hylt : y < 2 ^ 5 := hy ▸ BitVec.isLt _
  · have h15 : (0 : BitVec 15).toNat = 0 := rfl
    have h2 : (0 : BitVec 2).toNat = 0 := rfl
    split_ifs at hop ⊢ <;> omega
  · omega
  · rw [if_pos hk, hA] at hy
    omega

/- The guards of the accesses (spec/20_memory.md R151, R155, R157). -/

/-- What the guards make of an operand that must be a multiple of `m`, with LE = 1 of `n`. -/
def AccessGuarded (o : Out) (s : State) (r rA : Reg) (m n : Nat) (ea : Word) (head : Nat) (knownA : Bool) : Prop :=
  (ea.toNat % m ≠ 0 ∨ (s.leView = true ∧ ea.toNat % n ≠ 0) → AlignmentTaken o s r rA ea head knownA) ∧
  (ea.toNat % m = 0 → ea.toNat % n = 0 → s.leView = true → o = .refused .littleEndianMode)

theorem guardBigEndian_little {s : State} {w : Word} {known : Bool} {ea : Word} {k : Unit → Out} (bad : Bool)
    (h : s.leView = true) : proceed (guardBigEndian s w known bad ea) k =
      if bad then takeAlignment s w true known ea else .refused .littleEndianMode := by
  simp [guardBigEndian, h]

theorem lowBits_eq_zero_iff (ea : Word) : ea.extractLsb' 0 2 = 0 ↔ ea.toNat % 4 = 0 := by
  rw [← BitVec.toNat_inj, BitVec.extractLsb'_toNat]
  rfl

theorem guardWordAligned_misaligned {s : State} {w : Word} {known : Bool} {ea : Word} {k : Unit → Out}
    (h : ea.toNat % 4 ≠ 0) : proceed (guardWordAligned s w known ea) k = takeAlignment s w true known ea := by
  have : (ea.extractLsb' 0 2 == 0) = false := beq_false_of_ne fun e => h ((lowBits_eq_zero_iff ea).mp e)
  rw [guardWordAligned, this]
  rfl

/-- The guard of little-endian mode alone: integer loads and stores. -/
theorem guardBigEndian_access {s : State} {w : Word} {head n : Nat} {r rA : Reg} (hw : AlignmentImage w head r rA)
    (known : Bool) (ea : Word) (k : Unit → Out) :
    AccessGuarded (proceed (guardBigEndian s w known (!isAligned ea n) ea) k) s r rA 1 n ea head known := by
  refine ⟨fun h => ?_, fun _ hn hle => ?_⟩
  · obtain ⟨hle, hn⟩ := h.resolve_left (by omega)
    rw [guardBigEndian_little _ hle, if_pos (by simpa [isAligned] using hn)]
    exact takeAlignment_taken hw s ea known
  · rw [guardBigEndian_little _ hle, if_neg (by simpa [isAligned] using hn)]

/-- Both guards: the floating-point forms, `lwarx` and `stwcx.`. -/
theorem guardWordAligned_access {s : State} {w : Word} {head n : Nat} {r rA : Reg} (hw : AlignmentImage w head r rA)
    (known bad : Bool) (ea : Word) (k : Unit → Out) (hbad : ea.toNat % 4 = 0 → (bad = true ↔ ea.toNat % n ≠ 0)) :
    AccessGuarded (proceed (guardWordAligned s w known ea) fun _ => proceed (guardBigEndian s w known bad ea) k)
      s r rA 4 n ea head known := by
  by_cases h4 : ea.toNat % 4 = 0
  · rw [guardWordAligned_aligned ((lowBits_eq_zero_iff ea).mpr h4)]
    refine ⟨fun h => ?_, fun _ hn hle => ?_⟩
    · obtain ⟨hle, hn⟩ := h.resolve_left (not_not_intro h4)
      rw [guardBigEndian_little _ hle, if_pos ((hbad h4).mpr hn)]
      exact takeAlignment_taken hw s ea known
    · rw [guardBigEndian_little _ hle, if_neg fun hb => (hbad h4).mp hb hn]
  · rw [guardWordAligned_misaligned h4]
    exact ⟨fun _ => takeAlignment_taken hw s ea known, fun h => absurd h h4⟩

/-- A multiple access: both guards, and no operand passes with LE = 1. -/
theorem guardMultiple_taken {s : State} {w : Word} {head : Nat} {r rA : Reg} (hw : AlignmentImage w head r rA) (ea : Word)
    (k : Unit → Out) (h : ea.toNat % 4 ≠ 0 ∨ s.leView = true) :
    AlignmentTaken (proceed (guardWordAligned s w true ea) fun _ => proceed (guardBigEndian s w true true ea) k)
      s r rA ea head true := by
  by_cases h4 : ea.toNat % 4 = 0
  · rw [guardWordAligned_aligned ((lowBits_eq_zero_iff ea).mpr h4),
      guardBigEndian_little _ (h.resolve_left (not_not_intro h4))]
    exact takeAlignment_taken hw s ea true
  · rw [guardWordAligned_misaligned h4]
    exact takeAlignment_taken hw s ea true

/-- A cache instruction stops with LE = 1. -/
theorem guardBigEndian_refuses {s : State} {w : Word} {ea : Word} {k : Unit → Out} (h : s.leView = true) :
    proceed (guardBigEndian s w false false ea) k = .refused .littleEndianMode := guardBigEndian_little false h

/- The four forms of an instruction (spec/43_load_store.md R480). -/

/-- A `(rA|0)` operand needs no more registers than one that names rA. -/
theorem usable_or0 {s : State} {src tail : List Reg} {rA : Reg} (h : s.gprsUsable (src ++ rA :: tail) = true) :
    s.gprsUsable (src ++ namedOr0 rA ++ tail) = true := by
  refine gprsUsable_mono h ?_
  unfold namedOr0
  split <;> simp

/-- The guards of the forms of one load or store: `i` with a displacement, `x` with an index, `u` and `ux` their update
forms. -/
def FormsGuarded (s : State) (r rA rB : Reg) (d : BitVec 16) (m n : Nat) (i u x ux : Instr) (op opU xo xoU : Nat)
    (loads fp : Bool) : Prop :=
  (s.gprsUsable (if fp then [rA] else [r, rA]) = true →
    AccessGuarded (exec i s) s r rA m n (eaD s rA d) (op % 2 * 16 + op / 2 % 16) false ∧
    (rA ≠ 0 → loads = false ∨ rA ≠ r →
      AccessGuarded (exec u s) s r rA m n (eaDU s rA d) (opU % 2 * 16 + opU / 2 % 16) true)) ∧
  (s.gprsUsable (if fp then [rA, rB] else [r, rA, rB]) = true →
    AccessGuarded (exec x s) s r rA m n (eaX s rA rB) (xo % 4 * 32 + xo / 32 % 2 * 16 + xo / 64) false ∧
    (rA ≠ 0 → loads = false ∨ rA ≠ r →
      AccessGuarded (exec ux s) s r rA m n (eaXU s rA rB) (xoU % 4 * 32 + xoU / 32 % 2 * 16 + xoU / 64) true))

/-- Where the four forms share a body and the body is guarded, they are guarded. -/
theorem formsGuarded_of_body {s : State} {r rA rB : Reg} {d : BitVec 16} {m n : Nat} {i u x ux : Instr}
    {op opU xo xoU : Nat} {loads fp ok : Bool} (body : Word → List Reg → Word → Option Reg → Out)
    (hbody : ∀ w head named ea base, AlignmentImage w head r rA → s.gprsUsable named = true →
      AccessGuarded (body w named ea base) s r rA m n ea head base.isSome)
    (hok : rA ≠ 0 → loads = false ∨ rA ≠ r → ok = true)
    (hop : (op < 64 ∧ op ≠ 31) ∧ (opU < 64 ∧ opU ≠ 31) ∧ xo < 1024 ∧ xoU < 1024)
    (hi : exec i s = body (encD (BitVec.ofNat 6 op) r rA d) ((if fp then [] else [r]) ++ namedOr0 rA) (eaD s rA d) none)
    (hu : exec u s = proceed (guardForm ok) fun _ =>
      body (encD (BitVec.ofNat 6 opU) r rA d) ((if fp then [] else [r]) ++ [rA]) (eaDU s rA d) (some rA))
    (hx : exec x s = body (encX 31 r rA rB (BitVec.ofNat 10 xo) false) ((if fp then [] else [r]) ++ namedOr0 rA ++ [rB])
      (eaX s rA rB) none)
    (hux : exec ux s = proceed (guardForm ok) fun _ =>
      body (encX 31 r rA rB (BitVec.ofNat 10 xoU) false) ((if fp then [] else [r]) ++ [rA, rB]) (eaXU s rA rB) (some rA)) :
    FormsGuarded s r rA rB d m n i u x ux op opU xo xoU loads fp := by
  obtain ⟨hD, hDU, hX, hXU⟩ := hop
  have hone : (if fp then [rA] else [r, rA]) = (if fp then [] else [r]) ++ [rA] := by cases fp <;> rfl
  have htwo : (if fp then [rA, rB] else [r, rA, rB]) = (if fp then [] else [r]) ++ [rA, rB] := by cases fp <;> rfl
  unfold FormsGuarded
  rw [hone, htwo]
  refine ⟨fun hg => ⟨?_, fun h0 hl => ?_⟩, fun hg => ⟨?_, fun h0 hl => ?_⟩⟩
  · rw [hi]
    exact hbody _ _ _ _ none (encD_image hD ..) (by simpa using usable_or0 hg)
  · rw [hu, guardForm_true (hok h0 hl)]
    exact hbody _ _ _ _ (some rA) (encD_image hDU ..) hg
  · rw [hx]
    exact hbody _ _ _ _ none (encX_image hX ..) (usable_or0 hg)
  · rw [hux, guardForm_true (hok h0 hl)]
    exact hbody _ _ _ _ (some rA) (encX_image hXU ..) hg

theorem updateOk_of_ne {rA : Reg} (h : rA ≠ 0) : updateOk rA = true := by simpa [updateOk] using h

theorem updateLoadOk_of_ne {rD rA : Reg} (h : rA ≠ 0) (hne : rA ≠ rD) : updateLoadOk rD rA = true := by
  simpa [updateLoadOk] using ⟨h, hne⟩

theorem isTagged_of_use {s : State} {r : Reg} (h : s.isSingle r = true ∨ s.isIntTagged r = true) : s.isTagged r = true := by
  unfold State.isSingle State.isIntTagged at h
  unfold State.isTagged
  revert h
  cases s.spTag r <;> cases s.ltTag r <;> decide

/- The bodies of the loads and stores. -/

section
variable {s : State} {w : Word} {named : List Reg} {r rA : Reg} {head : Nat} (hw : AlignmentImage w head r rA)
  (hu : s.gprsUsable named = true) (ea : Word) (base : Option Reg)
include hw hu

theorem loadInt_guarded (n : Nat) (conv : Word → Word) (rD : Reg) :
    AccessGuarded (loadInt s w named ea n conv rD base) s r rA 1 n ea head base.isSome := by
  rw [loadInt, withGprs_of_usable hu]
  exact guardBigEndian_access hw ..

theorem storeInt_guarded (n : Nat) (v : Word) :
    AccessGuarded (storeInt s w named ea n v base) s r rA 1 n ea head base.isSome := by
  rw [storeInt, withGprs_of_usable hu]
  exact guardBigEndian_access hw ..

theorem loadSingleFp_guarded (hfp : s.msrBit msrFP = true) :
    AccessGuarded (loadSingleFp s w named ea r base) s r rA 4 4 ea head base.isSome := by
  rw [loadSingleFp, guardFp_on hfp, withGprs_of_usable hu]
  exact guardWordAligned_access hw _ _ _ _ (by simp)

theorem loadDoubleFp_guarded (hfp : s.msrBit msrFP = true) :
    AccessGuarded (loadDoubleFp s w named ea r base) s r rA 4 8 ea head base.isSome := by
  rw [loadDoubleFp, guardFp_on hfp, withGprs_of_usable hu]
  exact guardWordAligned_access hw _ _ _ _ (by simp [isAligned])

theorem storeSingleFp_guarded (hfp : s.msrBit msrFP = true) (hs : s.isSingle r = true) :
    AccessGuarded (storeSingleFp s w named ea r base) s r rA 4 4 ea head base.isSome := by
  rw [storeSingleFp, guardFp_on hfp, withGprs_of_usable hu, guardSingles_single hs]
  exact guardWordAligned_access hw _ _ _ _ (by simp)

theorem storeDoubleFp_guarded (hfp : s.msrBit msrFP = true) (hs : s.isTagged r = true) :
    AccessGuarded (storeDoubleFp s w named ea r base) s r rA 4 8 ea head base.isSome := by
  rw [storeDoubleFp, guardFp_on hfp, withGprs_of_usable hu, guardTagged_tagged hs]
  exact guardWordAligned_access hw _ _ _ _ (by simp [isAligned])

end

/-- A cache instruction with usable registers stops with LE = 1. -/
theorem blockAccess_little {s : State} {w : Word} {named : List Reg} {ea : Word} {store : Bool} {k : Word → Out}
    (hu : s.gprsUsable named = true) (hle : s.leView = true) :
    blockAccess s w named ea store k = .refused .littleEndianMode := by
  rw [blockAccess, withGprs_of_usable hu, guardBigEndian_refuses hle]

/-- Settles O28: every form comes, past the guards before it, to the guards of a body above. -/
theorem misalignedOperands : Obligations.MisalignedOperands := by
  intro s r rA rB d eaD' eaX' eaDU' eaXU' opD opX traps stops access multiple forms
  have hloadOk (h0 : rA ≠ 0) (hl : true = false ∨ rA ≠ r) : updateLoadOk r rA = true :=
    updateLoadOk_of_ne h0 (hl.resolve_left nofun)
  have hok {p : Prop} (h0 : rA ≠ 0) (_ : p) : updateOk rA = true := updateOk_of_ne h0
  have hload (n : Nat) (conv : Word → Word) (w head named ea base) (hw : AlignmentImage w head r rA)
      (hu : s.gprsUsable named = true) := loadInt_guarded hw hu ea base n conv r
  have hstore (n : Nat) (w head named ea base) (hw : AlignmentImage w head r rA)
      (hu : s.gprsUsable named = true) := storeInt_guarded hw hu ea base n (s.readGpr r)
  refine ⟨fun hle => by simp [fetch, hle], ?_, ?_, ?_, ?_, ?_, ?_, ?_, fun hfp => ⟨?_, ?_, fun hs => ?_, fun hs => ?_⟩,
    fun hu => ?_, fun hu => ?_, fun hu => ?_⟩
  · exact formsGuarded_of_body _ (hload 1 id) hloadOk (by decide) rfl rfl rfl rfl
  · exact formsGuarded_of_body _ (hload 2 id) hloadOk (by decide) rfl rfl rfl rfl
  · exact formsGuarded_of_body _ (hload 2 signHalf) hloadOk (by decide) rfl rfl rfl rfl
  · exact formsGuarded_of_body _ (hload 4 id) hloadOk (by decide) rfl rfl rfl rfl
  · exact formsGuarded_of_body _ (hstore 1) hok (by decide) rfl rfl rfl rfl
  · exact formsGuarded_of_body _ (hstore 2) hok (by decide) rfl rfl rfl rfl
  · exact formsGuarded_of_body _ (hstore 4) hok (by decide) rfl rfl rfl rfl
  · exact formsGuarded_of_body (fun w named ea base => loadSingleFp s w named ea r base)
      (fun _ _ _ ea base hw hu => loadSingleFp_guarded hw hu ea base hfp) hok (by decide) rfl rfl rfl rfl
  · exact formsGuarded_of_body (fun w named ea base => loadDoubleFp s w named ea r base)
      (fun _ _ _ ea base hw hu => loadDoubleFp_guarded hw hu ea base hfp) hok (by decide) rfl rfl rfl rfl
  · exact formsGuarded_of_body (fun w named ea base => storeSingleFp s w named ea r base)
      (fun _ _ _ ea base hw hu => storeSingleFp_guarded hw hu ea base hfp hs) hok (by decide) rfl rfl rfl rfl
  · exact formsGuarded_of_body (fun w named ea base => storeDoubleFp s w named ea r base)
      (fun _ _ _ ea base hw hu => storeDoubleFp_guarded hw hu ea base hfp (isTagged_of_use hs)) hok (by decide)
      rfl rfl rfl rfl
  · have hnamed : s.gprsUsable (r :: 31 :: namedOr0 rA) = true := by simpa using usable_or0 (src := [r, 31]) hu
    refine ⟨fun hlt h => ?_, fun h => ?_⟩
    · change AlignmentTaken (execLmw r rA d s) ..
      rw [execLmw, guardForm_true (by simpa [lmwOk] using hlt)]
      dsimp only
      rw [withGprs_of_usable hnamed]
      exact guardMultiple_taken (encD_image (op := 46) (by decide) ..) _ _ h
    · change AlignmentTaken (execStmw r rA d s) ..
      rw [execStmw]
      dsimp only
      rw [withGprs_of_usable hnamed]
      exact guardMultiple_taken (encD_image (op := 47) (by decide) ..) _ _ h
  · have hnamed : s.gprsUsable (r :: namedOr0 rA ++ [rB]) = true := usable_or0 (src := [r]) hu
    refine ⟨?_, ?_, ?_, ?_, ?_, ?_⟩
    · exact loadInt_guarded (encX_image (xo := 790) (by decide) ..) hnamed _ none 2 reverseHalf r
    · exact loadInt_guarded (encX_image (xo := 534) (by decide) ..) hnamed _ none 4 reverseBytes r
    · exact storeInt_guarded (encX_image (xo := 918) (by decide) ..) hnamed _ none 2 _
    · exact storeInt_guarded (encX_image (xo := 662) (by decide) ..) hnamed _ none 4 _
    · change AccessGuarded (execLwarx r rA rB s) ..
      rw [execLwarx]
      dsimp only
      rw [withGprs_of_usable hnamed]
      exact guardWordAligned_access (encX_image (xo := 20) (by decide) ..) _ _ _ _ (by simp)
    · change AccessGuarded (execStwcxRc r rA rB true s) ..
      rw [execStwcxRc, guardForm_true rfl]
      dsimp only
      rw [withGprs_of_usable hnamed]
      exact guardWordAligned_access (encX_image (xo := 150) (by decide) ..) _ _ _ _ (by simp)
  · have hnamed : s.gprsUsable (namedOr0 rA ++ [rB]) = true := usable_or0 (src := []) hu
    refine ⟨blockAccess_little hnamed, blockAccess_little hnamed, blockAccess_little hnamed, fun hle => ?_,
      fun hpr hle => ?_⟩
    · exact (withGprs_of_usable hnamed).trans (guardBigEndian_refuses hle)
    · exact (guardSupervisor_supervisor hpr).trans (blockAccess_little hnamed hle)

end Sys2Proof.Machine

/-!
Block and page translation, data accesses and instruction fetches (O51, O52).
-/
namespace Sys2Proof.Machine

/- What an instruction sees with no context change open (spec/70_reset_and_hazards.md R841). -/

section
variable {s : State} (hw : s.windows = [])
include hw

theorem prView_settled : s.prView = ibmBit s.msr 17 :=
  (view_of_no_window s _ _ hw).trans (msrBit_ibmBit s (by omega) rfl)

theorem apView_settled : s.apView = ibmBit s.msr 8 :=
  (view_of_no_window s _ _ hw).trans (msrBit_ibmBit s (by omega) rfl)

theorem irView_settled : s.irView = ibmBit s.msr 26 :=
  (view_of_no_window s _ _ hw).trans (msrBit_ibmBit s (by omega) rfl)

theorem srView_settled (n : BitVec 4) : s.srView n = s.sr.get n.toFin := view_of_no_window s _ _ hw

theorem hid0View_settled : s.hid0View = s.hid0 := view_of_no_window s _ _ hw

theorem ibatView_settled : s.ibatView = s.ibat.get := funext fun _ => view_of_no_window s _ _ hw

theorem itlbView_settled : s.itlbView = s.itlb.get := funext fun _ => view_of_no_window s _ _ hw

theorem dtlbView_settled : s.dtlbView = s.dtlb.get := funext fun _ => view_of_no_window s _ _ hw

theorem accessAsUser_settled :
    accessAsUser s = (ibmBit s.msr 17 || (ibmBit s.msr 8 && decide (Config.apRule = .asUser))) := by
  rw [accessAsUser, prView_settled hw, apView_settled hw]
  rfl

end

/- Block address translation (spec/20_memory.md R172, R173). -/

theorem extract_two_eq_iff (w : Word) {n : Nat} (hn : n < 4) : w.extractLsb' 0 2 = BitVec.ofNat 2 n ↔ w.toNat % 4 = n := by
  rw [← BitVec.toNat_inj, BitVec.extractLsb'_toNat, BitVec.toNat_ofNat, Nat.mod_eq_of_lt (show n < 2 ^ 2 from hn)]
  rfl

theorem blockLengthMask_getLsbD {i : Nat} (hi : i < 32) : (0x0FFE0000 : Word).getLsbD i = decide (17 ≤ i ∧ i < 28) := by
  revert hi; revert i; decide

theorem blockNumberMask_getLsbD {i : Nat} (hi : i < 32) : (0xFFFE0000 : Word).getLsbD i = decide (17 ≤ i) := by
  revert hi; revert i; decide

theorem batMask_getLsbD (upper : Word) {i : Nat} (hi : i < 32) :
    (batMask upper).getLsbD i = (decide (17 ≤ i ∧ i < 28) && upper.getLsbD (i - 15)) := by
  simp only [batMask, BitVec.getLsbD_and, BitVec.getLsbD_shiftLeft, blockLengthMask_getLsbD hi]
  by_cases h : 17 ≤ i ∧ i < 28
  · simp [h, hi, show ¬ i < 15 by omega]
  · simp [h]

/-- The block length mask as a number. -/
theorem batMask_eq (upper : Word) : batMask upper = BitVec.ofNat 32 (upper.toNat / 4 % 2 ^ 11 * 2 ^ 17) := by
  apply BitVec.eq_of_getLsbD_eq
  intro i hi
  rw [batMask_getLsbD upper hi, BitVec.getLsbD_ofNat, ← Nat.shiftLeft_eq, Nat.testBit_shiftLeft, Nat.testBit_mod_two_pow,
    show (4 : Nat) = 2 ^ 2 from rfl, ← Nat.shiftRight_eq_div_pow, Nat.testBit_shiftRight]
  by_cases h : 17 ≤ i ∧ i < 28
  · simp [h, hi, show i - 17 < 11 by omega, show 2 + (i - 17) = i - 15 by omega, BitVec.getLsbD]
  · by_cases h17 : 17 ≤ i
    · simp [h, show ¬ i - 17 < 11 by omega]
    · simp [h17]

theorem batMatches_iff (bats : Fin 8 → Word) (user : Bool) (ea : Word) (k : Fin 4) :
    batMatches bats user ea k = true ↔
      (∀ j, j < 15 → ibmBit (batMask (batUpper bats k)) j = false → ibmBit ea j = ibmBit (batUpper bats k) j) ∧
        ibmBit (batUpper bats k) (if user then 31 else 30) = true := by
  have hvalid : (batUpper bats k).getLsbD (if user then 0 else 1) = ibmBit (batUpper bats k) (if user then 31 else 30) := by
    cases user <;> rfl
  unfold batMatches
  dsimp only
  rw [Bool.and_eq_true, hvalid, beq_iff_eq]
  generalize batUpper bats k = upper
  have hbit (i : Nat) (hi : i < 32) : ((ea ^^^ upper) &&& (0xFFFE0000 &&& ~~~batMask upper)).getLsbD i =
      ((ea.getLsbD i ^^ upper.getLsbD i) && (decide (17 ≤ i) && !(batMask upper).getLsbD i)) := by
    rw [BitVec.getLsbD_and, BitVec.getLsbD_and, BitVec.getLsbD_xor, BitVec.getLsbD_not, blockNumberMask_getLsbD hi,
      decide_eq_true hi, Bool.true_and]
  refine and_congr_left fun _ => ⟨fun h j hj hm => ?_, fun h => BitVec.eq_of_getLsbD_eq fun i hi => ?_⟩
  · have hj' := hbit (31 - j) (by omega)
    rw [h, show (batMask upper).getLsbD (31 - j) = false from hm, decide_eq_true (show 17 ≤ 31 - j by omega)] at hj'
    simpa [ibmBit] using hj'
  · rw [hbit i hi]
    by_cases h17 : 17 ≤ i
    · have hi' := h (31 - i) (by omega)
      simp only [ibmBit, show 31 - (31 - i) = i by omega] at hi'
      cases hm : (batMask upper).getLsbD i
      · simp [hi' hm]
      · simp
    · simp [h17]

theorem batAddress_eq (upper lower ea : Word) :
    batAddress upper lower ea =
      (lower &&& ~~~batMask upper &&& 0xFFFE0000) ||| (ea &&& batMask upper) ||| (ea &&& 0x0001FFFF) := by
  have htop : ∀ i < 32, (0xF0000000 : Word).getLsbD i = decide (28 ≤ i) := by decide
  unfold batAddress
  dsimp only
  apply BitVec.eq_of_getLsbD_eq
  intro i hi
  simp only [BitVec.getLsbD_or, BitVec.getLsbD_and, BitVec.getLsbD_not, batMask_getLsbD upper hi, htop i hi,
    blockLengthMask_getLsbD hi, blockNumberMask_getLsbD hi]
  by_cases h28 : 28 ≤ i
  · simp [h28, hi, show ¬ i < 28 by omega, show 17 ≤ i by omega]
  · by_cases h17 : 17 ≤ i
    · simp [h28, h17, hi, show i < 28 by omega]
    · simp [h28, h17]

theorem mem_batHits (bats : Fin 8 → Word) (user : Bool) (ea : Word) (k : Fin 4) :
    k ∈ batHits bats user ea ↔ batMatches bats user ea k = true := by
  have hall : k ∈ [0, 1, 2, 3] := by revert k; decide
  simp only [batHits, List.mem_filter, hall, true_and]

theorem batHits_single {bats : Fin 8 → Word} {user : Bool} {ea : Word} {k : Fin 4} (hk : batMatches bats user ea k = true)
    (hother : ∀ j, j ≠ k → ¬ batMatches bats user ea j = true) : batHits bats user ea = [k] := by
  have hmem := mem_batHits bats user ea
  have hnodup : (batHits bats user ea).Nodup := List.Nodup.filter _ (by decide)
  have hone : ∀ j ∈ batHits bats user ea, j = k := fun j hj => by
    by_contra hne
    exact hother j hne ((hmem j).mp hj)
  have hin := (hmem k).mpr hk
  match h : batHits bats user ea with
  | [] => simp [h] at hin
  | [a] => rw [hone a (by simp [h])]
  | a :: b :: rest =>
    rw [h] at hone hnodup
    have hab : a = b := (hone a (by simp)).trans (hone b (by simp)).symm
    simp [hab] at hnodup

theorem batHits_many {bats : Fin 8 → Word} {user : Bool} {ea : Word} {j k : Fin 4} (hne : j ≠ k)
    (hj : batMatches bats user ea j = true) (hk : batMatches bats user ea k = true) :
    ∃ a b rest, batHits bats user ea = a :: b :: rest := by
  have hj' := (mem_batHits bats user ea j).mpr hj
  have hk' := (mem_batHits bats user ea k).mpr hk
  match h : batHits bats user ea with
  | [] => simp [h] at hj'
  | [a] =>
    rw [h, List.mem_singleton] at hj' hk'
    exact absurd (hj'.trans hk'.symm) hne
  | a :: b :: rest => exact ⟨a, b, rest, rfl⟩

theorem batHits_none {bats : Fin 8 → Word} {user : Bool} {ea : Word}
    (h : ∀ k, ¬ batMatches bats user ea k = true) : batHits bats user ea = [] :=
  List.eq_nil_iff_forall_not_mem.mpr fun k hk => h k ((mem_batHits bats user ea k).mp hk)

theorem batDenied_eq (lower : Word) (store : Bool) :
    batDenied lower store = (decide (lower.toNat % 4 = 0) || (store && decide (lower.toNat % 4 ≠ 2))) := by
  have h0 := extract_two_eq_iff lower (n := 0) (by omega)
  have h2 := extract_two_eq_iff lower (n := 2) (by omega)
  rw [Bool.eq_iff_iff]
  simp only [batDenied, Bool.or_eq_true, Bool.and_eq_true, beq_iff_eq, bne_iff_ne, decide_eq_true_eq]
  exact or_congr h0 (and_congr_right fun _ => not_congr h2)

theorem wiBits_eq (w : Word) : wiBits w = (ibmBit w 25 || ibmBit w 26) := by
  have hmask : ∀ i < 32, (0x00000060 : Word).getLsbD i = (decide (i = 6) || decide (i = 5)) := by decide
  have hbit (i : Nat) (hi : i < 32) :
      (w &&& 0x00000060).getLsbD i = (w.getLsbD i && (decide (i = 6) || decide (i = 5))) := by
    rw [BitVec.getLsbD_and, hmask i hi]
  rw [Bool.eq_iff_iff, wiBits, bne_iff_ne, Bool.or_eq_true]
  refine ⟨fun hne => by_contra fun hnot => hne (BitVec.eq_of_getLsbD_eq fun i hi => ?_), fun h e => ?_⟩
  · rw [not_or, Bool.not_eq_true, Bool.not_eq_true] at hnot
    obtain ⟨h25 : w.getLsbD 6 = false, h26 : w.getLsbD 5 = false⟩ := hnot
    rw [hbit i hi]
    by_cases h6 : i = 6
    · rw [h6, h25]; rfl
    · by_cases h5 : i = 5
      · rw [h5, h26]; rfl
      · simp [h6, h5]
  · have h6 := hbit 6 (by omega)
    have h5 := hbit 5 (by omega)
    rw [e] at h6 h5
    rcases h with h | h
    · rw [show w.getLsbD 6 = true from h] at h6
      simp at h6
    · rw [show w.getLsbD 5 = true from h] at h5
      simp at h5

/- The TLBs (spec/20_memory.md R175, R176, R182). -/

theorem pageHit_iff (sr ea : Word) (e : TlbEntry) : pageHit (srVsid sr) ea e = true ↔
    e.valid = true ∧ e.vsid = sr.setWidth 24 ∧ e.page.extractLsb' 4 12 = ea.extractLsb' 16 12 := by
  have hv : srVsid sr = sr.setWidth 24 := BitVec.eq_of_toNat_eq rfl
  simp only [pageHit, hv, Bool.and_eq_true, beq_iff_eq, and_assoc]

theorem regionHit_iff (sr ea : Word) (e : TlbEntry) : regionHit (srVsid sr) ea e = true ↔
    e.valid = true ∧ e.vsid = sr.setWidth 24 ∧ e.page.extractLsb' 5 15 = ea.extractLsb' 17 15 := by
  have hv : srVsid sr = sr.setWidth 24 := BitVec.eq_of_toNat_eq rfl
  simp only [regionHit, hv, Bool.and_eq_true, beq_iff_eq, and_assoc]

theorem tlbLookup_none {s : State} {tlb : Fin 32 → TlbEntry} {set : BitVec 4} {hit : TlbEntry → Bool}
    (h0 : ¬ hit (tlb (tlbIndex set false)) = true) (h1 : ¬ hit (tlb (tlbIndex set true)) = true) :
    tlbLookup s tlb set hit = none := by
  simp [tlbLookup, h0, h1]

theorem tlbLookup_one {s : State} {tlb : Fin 32 → TlbEntry} {set : BitVec 4} {hit : TlbEntry → Bool} (w : Bool)
    (h : hit (tlb (tlbIndex set w)) = true) (h' : ¬ hit (tlb (tlbIndex set (!w))) = true) :
    tlbLookup s tlb set hit = some (tlb (tlbIndex set w)) := by
  cases w
  · simp only [Bool.not_false] at h'
    simp [tlbLookup, h, h']
  · simp only [Bool.not_true] at h'
    simp [tlbLookup, h, h']

theorem pageDenied_eq (key : Bool) (pte : Word) (store : Bool) : pageDenied key pte store =
    decide ((key = true ∧ pte.toNat % 4 = 0) ∨
      (store = true ∧ ((key = true ∧ pte.toNat % 4 ≠ 2) ∨ pte.toNat % 4 = 3))) := by
  have h0 := extract_two_eq_iff pte (n := 0) (by omega)
  have h2 := extract_two_eq_iff pte (n := 2) (by omega)
  have h3 := extract_two_eq_iff pte (n := 3) (by omega)
  rw [Bool.eq_iff_iff, decide_eq_true_eq]
  cases key
  · simp only [pageDenied, Bool.false_eq_true, if_false, Bool.and_eq_true, beq_iff_eq, false_and, false_or]
    exact and_congr_right fun _ => h3
  · simp only [pageDenied, if_true, Bool.or_eq_true, Bool.and_eq_true, beq_iff_eq, bne_iff_ne, true_and]
    refine or_congr h0 (and_congr_right fun _ => (not_congr h2).trans ?_)
    omega

theorem pageAddress_eq (pte ea : Word) :
    pageAddress pte ea = BitVec.ofNat 32 (pte.toNat / 2 ^ 12 * 2 ^ 12 + ea.toNat % 2 ^ 12) := by
  have hhigh : ∀ i < 32, (0xFFFFF000 : Word).getLsbD i = decide (12 ≤ i) := by decide
  have hlow : ∀ i < 32, (0x00000FFF : Word).getLsbD i = decide (i < 12) := by decide
  apply BitVec.eq_of_getLsbD_eq
  intro i hi
  rw [BitVec.getLsbD_ofNat, Nat.mul_comm, Nat.testBit_two_pow_mul_add _ (Nat.mod_lt _ (by omega))]
  simp only [pageAddress, BitVec.getLsbD_or, BitVec.getLsbD_and, hhigh i hi, hlow i hi]
  by_cases h : i < 12
  · rw [if_pos h, Nat.testBit_mod_two_pow]
    simp [h, hi, show ¬ 12 ≤ i by omega, BitVec.getLsbD]
  · rw [if_neg h, Nat.testBit_div_two_pow, show i - 12 + 12 = i by omega]
    simp [h, hi, show 12 ≤ i by omega, BitVec.getLsbD]

/- Data accesses (spec/20_memory.md R170). -/

theorem translateData_of_mapping {s : State} {ea : Word} {store : Bool} {m : Mapping}
    (h : dataMapping s ea store = .ok m) : translateData s ea store =
      if m.denied then .error (.dsi true false store ea)
      else if m.needsChange then .error (.miss true m.key ea) else .ok m.pa := by
  rw [translateData, h]
  rfl

theorem translateData_of_stop {s : State} {ea : Word} {store : Bool} {e : AccessStop}
    (h : dataMapping s ea store = .error e) : translateData s ea store = .error e := by
  rw [translateData, h]

theorem dataMapping_real {s : State} (h : s.msrBit msrDR = false) (ea : Word) (store : Bool) :
    dataMapping s ea store = .ok { pa := ea, wi := false, denied := false, needsChange := false, key := false } := by
  simp [dataMapping, h]

section
variable {s : State} {ea : Word} {store : Bool} (hdr : s.msrBit msrDR = true)
include hdr

theorem dataMapping_block {k : Fin 4} (h : batHits s.dbat.get (accessAsUser s) ea = [k]) :
    dataMapping s ea store = .ok
      { pa := batAddress (batUpper s.dbat.get k) (batLower s.dbat.get k) ea, wi := wiBits (batLower s.dbat.get k)
        denied := batDenied (batLower s.dbat.get k) store, needsChange := false, key := false } := by
  simp [dataMapping, hdr, h]

theorem dataMapping_manyBlocks {j k : Fin 4} {rest : List (Fin 4)}
    (h : batHits s.dbat.get (accessAsUser s) ea = j :: k :: rest) :
    dataMapping s ea store = .error (.fault .multipleBatMatch) := by
  simp [dataMapping, hdr, h]

theorem dataMapping_noBlock (h : batHits s.dbat.get (accessAsUser s) ea = []) :
    dataMapping s ea store =
      if protectionOnly s then regionMapping s (accessAsUser s) ea store else pageMapping s (accessAsUser s) ea store := by
  simp [dataMapping, hdr, h]

end

/-- Settles O51: the branches of `dataMapping` by the DBATs that match and by what the DTLB holds. -/
theorem dataTranslation : Obligations.DataTranslation := by
  intro s ea store hw user sr key mask hits entry found area region wi maps stops plain
  have hdr : s.msrBit msrDR = ibmBit s.msr 27 := msrBit_ibmBit s (by omega) rfl
  have huser : accessAsUser s = user := accessAsUser_settled hw
  have hhits (k : Fin 4) : batMatches s.dbat.get (accessAsUser s) ea k = true ↔ hits k := by
    rw [batMatches_iff, batMask_eq, huser]
    rfl
  have hfound (w : Bool) : pageHit (srVsid sr) ea (s.dtlb.get (tlbIndex (tlbSet ea) w)) = true ↔ found w :=
    pageHit_iff ..
  have hregion (w : Bool) : regionHit (srVsid (s.sr.get 0)) ea
      (s.dtlb.get (tlbIndex (Config.poFormat.setOf ea) w)) = true ↔ region w := regionHit_iff ..
  have hmaps {m : Mapping} (h : dataMapping s ea store = .ok m) : maps m := ⟨h, translateData_of_mapping h⟩
  have hstops {e : AccessStop} (h : dataMapping s ea store = .error e) : stops e := ⟨h, translateData_of_stop h⟩
  refine ⟨fun h => hmaps (dataMapping_real (hdr.trans h) ea store), fun h => ?_⟩
  have hon := hdr.trans h
  have hnoBlock (hnone : ∀ k, ¬ hits k) :=
    dataMapping_noBlock (store := store) hon (batHits_none fun k => (not_congr (hhits k)).mpr (hnone k))
  refine ⟨fun k hk hother => hmaps ?_, fun j k hne hj hk => hstops ?_, fun hnone hpo => ⟨fun h0 h1 => hstops ?_,
    fun w hr hn => hmaps ?_⟩, fun hnone hpo => ⟨fun ht => hstops ?_, fun ht h0 h1 => hstops ?_, fun w ht hf hn => hmaps ?_⟩⟩
  · rw [dataMapping_block hon (batHits_single ((hhits k).mpr hk) fun j hj => (not_congr (hhits j)).mpr (hother j hj)),
      batAddress_eq, wiBits_eq, batDenied_eq, batMask_eq]
    rfl
  · obtain ⟨a, b, rest, hab⟩ := batHits_many hne ((hhits j).mpr hj) ((hhits k).mpr hk)
    exact dataMapping_manyBlocks hon hab
  · rw [hnoBlock hnone, if_pos hpo, regionMapping, dtlbView_settled hw,
      tlbLookup_none ((not_congr (hregion false)).mpr h0) ((not_congr (hregion true)).mpr h1), huser]
    rfl
  · rw [hnoBlock hnone, if_pos hpo, regionMapping, dtlbView_settled hw, hid0View_settled hw,
      tlbLookup_one w ((hregion w).mpr hr) ((not_congr (hregion !w)).mpr hn), huser]
    rfl
  · rw [hnoBlock hnone, if_neg (ne_true_of_eq_false hpo), pageMapping]
    exact if_pos ht
  · rw [hnoBlock hnone, if_neg (ne_true_of_eq_false hpo), pageMapping, dtlbView_settled hw, State.srFor,
      tlbLookup_none ((not_congr (hfound false)).mpr h0) ((not_congr (hfound true)).mpr h1), huser]
    exact if_neg (ne_true_of_eq_false ht)
  · rw [hnoBlock hnone, if_neg (ne_true_of_eq_false hpo), pageMapping, dtlbView_settled hw, State.srFor,
      tlbLookup_one w ((hfound w).mpr hf) ((not_congr (hfound !w)).mpr hn), huser]
    refine (if_neg (ne_true_of_eq_false ht)).trans ?_
    dsimp only
    rw [pageDenied_eq, pageAddress_eq, wiBits_eq]
    rfl

/- Instruction fetches (spec/20_memory.md R152, R170). -/

section
variable {s : State} (hle : s.leView = false)
include hle

theorem fetch_of_translated {pa : Word} (h : translateFetch s = .ok pa) : fetch s = .ok (fetchWord s pa) := by
  simp [fetch, hle, h]

theorem fetch_of_stop {o : Out} (h : translateFetch s = .error o) : fetch s = .error o := by
  simp [fetch, hle, h]

/-- A fetch that translates is made, or ends in ISI where it may not be executed or read (spec/60_exceptions.md R753). -/
theorem fetch_guarded {noExecute denied : Bool} {pa : Word} (h : translateFetch s = fetchAllowed s noExecute denied pa) :
    (noExecute = false ∧ denied = false → fetch s = .ok (fetchWord s pa)) ∧
    (noExecute = true ∨ denied = true → ∃ o, fetch s = .error o ∧
      Raises o .isi ((if noExecute then 0x10000000 else 0) ||| (if denied then 0x08000000 else 0)) s) := by
  refine ⟨fun ⟨hn, hd⟩ => fetch_of_translated hle (h.trans ?_), fun hor => ⟨_, fetch_of_stop hle (h.trans ?_), rfl⟩⟩
  · rw [hn, hd]
    rfl
  · exact if_pos (by simpa using hor)

end

section
variable {s : State} (hir : s.irView = true)
include hir

theorem translateFetch_block {k : Fin 4} (h : ibatHits s = [k]) :
    translateFetch s = fetchAllowed s ((batLower s.ibatView k).getLsbD ibatNeBit) (batDenied (batLower s.ibatView k) false)
      (batAddress (batUpper s.ibatView k) (batLower s.ibatView k) s.cia) := by
  simp [translateFetch, hir, h]

theorem translateFetch_manyBlocks {j k : Fin 4} {rest : List (Fin 4)} (h : ibatHits s = j :: k :: rest) :
    translateFetch s = .error (.fault .multipleBatMatch) := by
  simp [translateFetch, hir, h]

theorem translateFetch_noBlock (h : ibatHits s = []) :
    translateFetch s = if protectionOnly s then fetchRegion s else fetchPage s := by
  simp [translateFetch, hir, h]

end

/-- Settles O52: the branches of `translateFetch` by the IBATs that match and by what the ITLB holds. -/
theorem instructionFetch : Obligations.InstructionFetch := by
  intro s hw hle ea user sr key mask hits entry found area region guarded
  have hir : s.irView = ibmBit s.msr 26 := irView_settled hw
  have huser : s.prView = user := prView_settled hw
  have hbats : s.ibatView = s.ibat.get := ibatView_settled hw
  have hhits (k : Fin 4) : batMatches s.ibatView s.prView ea k = true ↔ hits k := by
    rw [batMatches_iff, batMask_eq, huser, hbats]
    rfl
  have hfound (w : Bool) : pageHit (srVsid sr) ea (s.itlb.get (tlbIndex (tlbSet ea) w)) = true ↔ found w :=
    pageHit_iff ..
  have hregion (w : Bool) : regionHit (srVsid (s.sr.get 0)) ea
      (s.itlb.get (tlbIndex (Config.poFormat.setOf ea) w)) = true ↔ region w := regionHit_iff ..
  have hsr0 : s.srView 0 = s.sr.get 0 := srView_settled hw 0
  refine ⟨fun h => fetch_of_translated hle (if_pos (by rw [hir, h]; rfl)), fun h => ?_⟩
  have hon := hir.trans h
  have hnoBlock (hnone : ∀ k, ¬ hits k) :=
    translateFetch_noBlock hon (batHits_none fun k => (not_congr (hhits k)).mpr (hnone k))
  refine ⟨fun k hk hother => fetch_guarded hle ?_, fun j k hne hj hk => fetch_of_stop hle ?_,
    fun hnone hpo => ⟨fun h0 h1 => fetch_of_stop hle ?_, fun w hr hn => fetch_guarded hle ?_⟩,
    fun hnone hpo => ⟨fun ht => fetch_guarded hle ?_, fun ht h0 h1 => fetch_of_stop hle ?_,
      fun w ht hf hn => fetch_guarded hle ?_⟩⟩
  · rw [translateFetch_block hon (batHits_single ((hhits k).mpr hk) fun j hj => (not_congr (hhits j)).mpr (hother j hj)),
      batAddress_eq, batDenied_eq, batMask_eq, hbats, Bool.false_and, Bool.or_false]
    rfl
  · obtain ⟨a, b, rest, hab⟩ := batHits_many hne ((hhits j).mpr hj) ((hhits k).mpr hk)
    exact translateFetch_manyBlocks hon hab
  · rw [hnoBlock hnone, if_pos hpo, fetchRegion, itlbView_settled hw, hsr0,
      tlbLookup_none ((not_congr (hregion false)).mpr h0) ((not_congr (hregion true)).mpr h1), huser]
    rfl
  · rw [hnoBlock hnone, if_pos hpo, fetchRegion, itlbView_settled hw, hsr0,
      tlbLookup_one w ((hregion w).mpr hr) ((not_congr (hregion !w)).mpr hn)]
  · rw [hnoBlock hnone, if_neg (ne_true_of_eq_false hpo), fetchPage, srView_settled hw]
    exact if_pos ht
  · rw [hnoBlock hnone, if_neg (ne_true_of_eq_false hpo), fetchPage, itlbView_settled hw, srView_settled hw,
      tlbLookup_none ((not_congr (hfound false)).mpr h0) ((not_congr (hfound true)).mpr h1), huser]
    exact if_neg (ne_true_of_eq_false ht)
  · rw [hnoBlock hnone, if_neg (ne_true_of_eq_false hpo), fetchPage, itlbView_settled hw, srView_settled hw,
      tlbLookup_one w ((hfound w).mpr hf) ((not_congr (hfound !w)).mpr hn), huser]
    refine (if_neg (ne_true_of_eq_false ht)).trans ?_
    dsimp only
    rw [pageDenied_eq, pageAddress_eq]
    have hkey (k : Bool) (n : Nat) :
        decide ((k = true ∧ n = 0) ∨ (false = true ∧ ((k = true ∧ n ≠ 2) ∨ n = 3))) = (k && decide (n = 0)) := by simp
    rw [hkey]
    rfl

end Sys2Proof.Machine

/-!
Integer loads: what each part of a load sees and what the whole leaves (O22).
-/
namespace Sys2Proof.Machine

/- Bytes and words (spec/20_memory.md R150). -/

theorem ofNat_shift_byte (n : Nat) (b : Byte) :
    BitVec.ofNat 32 n <<< 8 ||| b.setWidth 32 = BitVec.ofNat 32 (256 * n + b.toNat) := by
  have hb := b.isLt
  apply BitVec.eq_of_toNat_eq
  have hlow : (b.setWidth 32).toNat = b.toNat := by
    rw [BitVec.toNat_setWidth, Nat.mod_eq_of_lt (by omega)]
  have hhigh : (BitVec.ofNat 32 n <<< 8).toNat = (n % 2 ^ 24) <<< 8 := by
    rw [BitVec.toNat_shiftLeft, BitVec.toNat_ofNat, Nat.shiftLeft_eq, Nat.shiftLeft_eq]
    omega
  rw [BitVec.toNat_or, hlow, hhigh, ← Nat.shiftLeft_add_eq_or_of_lt hb, BitVec.toNat_ofNat, Nat.shiftLeft_eq]
  omega

theorem wordOfBE_eq (bs : List Byte) : wordOfBE bs = BitVec.ofNat 32 (bigEndian bs) := by
  have h (n : Nat) : bs.foldl (fun (acc : Word) b => (acc <<< 8) ||| b.setWidth 32) (BitVec.ofNat 32 n) =
      BitVec.ofNat 32 (bs.foldl (fun n b => 256 * n + b.toNat) n) := by
    induction bs generalizing n with
    | nil => rfl
    | cons b rest ih => rw [List.foldl_cons, List.foldl_cons, ofNat_shift_byte, ih]
  exact h 0

theorem signHalf_wordOfBE (bs : List Byte) :
    signHalf (wordOfBE bs) = (BitVec.ofNat 16 (bigEndian bs)).signExtend 32 := by
  have h : (wordOfBE bs).extractLsb' 0 16 = BitVec.ofNat 16 (bigEndian bs) := by
    apply BitVec.eq_of_toNat_eq
    rw [wordOfBE_eq, BitVec.extractLsb'_toNat, BitVec.toNat_ofNat, BitVec.toNat_ofNat]
    omega
  rw [signHalf, h]

theorem byte_div (n : Nat) (b : Byte) : (256 * n + b.toNat) / 256 = n := by
  have := b.isLt
  omega

theorem byte_mod (n : Nat) (b : Byte) : (256 * n + b.toNat) % 256 = b.toNat := by
  have := b.isLt
  omega

theorem reverseHalf_wordOfBE {bs : List Byte} (h : bs.length = 2) :
    reverseHalf (wordOfBE bs) = BitVec.ofNat 32 (bigEndian bs.reverse) := by
  obtain ⟨b0, b1, rfl⟩ := List.length_eq_two.mp h
  have h0 := b0.isLt
  have h1 := b1.isLt
  have hw : bigEndian [b0, b1] = 256 * b0.toNat + b1.toNat := by simp [bigEndian]
  have hr : bigEndian [b0, b1].reverse = 256 * b1.toNat + b0.toNat := by simp [bigEndian]
  have d0 : (256 * b0.toNat + b1.toNat) % 2 ^ 32 / 2 ^ 0 % 2 ^ 8 = b1.toNat := by omega
  have d1 : (256 * b0.toNat + b1.toNat) % 2 ^ 32 / 2 ^ 8 % 2 ^ 8 = b0.toNat := by omega
  apply BitVec.eq_of_toNat_eq
  simp only [reverseHalf, wordOfBE_eq, toNat_append_add, BitVec.extractLsb'_toNat, Nat.shiftRight_eq_div_pow,
    BitVec.toNat_ofNat, hw, hr, d0, d1, show (0 : BitVec 16).toNat = 0 from rfl]
  omega

theorem reverseBytes_wordOfBE {bs : List Byte} (h : bs.length = 4) :
    reverseBytes (wordOfBE bs) = BitVec.ofNat 32 (bigEndian bs.reverse) := by
  obtain ⟨b0, b1, b2, b3, rfl⟩ : ∃ b0 b1 b2 b3, bs = [b0, b1, b2, b3] := by
    match bs, h with
    | [b0, b1, b2, b3], _ => exact ⟨b0, b1, b2, b3, rfl⟩
  have h0 := b0.isLt
  have h1 := b1.isLt
  have h2 := b2.isLt
  have h3 := b3.isLt
  have hw : bigEndian [b0, b1, b2, b3] =
      256 * (256 * (256 * b0.toNat + b1.toNat) + b2.toNat) + b3.toNat := by simp [bigEndian]
  have hr : bigEndian [b0, b1, b2, b3].reverse =
      256 * (256 * (256 * b3.toNat + b2.toNat) + b1.toNat) + b0.toNat := by simp [bigEndian]
  have hlt : 256 * (256 * (256 * b0.toNat + b1.toNat) + b2.toNat) + b3.toNat < 2 ^ 32 := by omega
  have d0 : (256 * (256 * (256 * b0.toNat + b1.toNat) + b2.toNat) + b3.toNat) / 2 ^ 0 % 2 ^ 8 = b3.toNat := by
    rw [Nat.pow_zero, Nat.div_one, show 2 ^ 8 = 256 from rfl, byte_mod]
  have d1 : (256 * (256 * (256 * b0.toNat + b1.toNat) + b2.toNat) + b3.toNat) / 2 ^ 8 % 2 ^ 8 = b2.toNat := by
    rw [show 2 ^ 8 = 256 from rfl, byte_div, byte_mod]
  have d2 : (256 * (256 * (256 * b0.toNat + b1.toNat) + b2.toNat) + b3.toNat) / 2 ^ 16 % 2 ^ 8 = b1.toNat := by
    rw [show 2 ^ 16 = 256 * 256 from rfl, show 2 ^ 8 = 256 from rfl, ← Nat.div_div_eq_div_mul, byte_div, byte_div,
      byte_mod]
  have d3 : (256 * (256 * (256 * b0.toNat + b1.toNat) + b2.toNat) + b3.toNat) / 2 ^ 24 % 2 ^ 8 = b0.toNat := by
    rw [show 2 ^ 24 = 256 * 256 * 256 from rfl, show 2 ^ 8 = 256 from rfl, ← Nat.div_div_eq_div_mul,
      ← Nat.div_div_eq_div_mul, byte_div, byte_div, byte_div, Nat.mod_eq_of_lt h0]
  apply BitVec.eq_of_toNat_eq
  simp only [reverseBytes, wordOfBE_eq, toNat_append_add, BitVec.extractLsb'_toNat, Nat.shiftRight_eq_div_pow,
    BitVec.toNat_ofNat, hw, hr, Nat.mod_eq_of_lt hlt, d0, d1, d2, d3]
  omega

/- The TEA conditions and what does not depend on them (spec/60_exceptions.md R752). -/

/-- The state with other TEA conditions. -/
def State.withTea (s : State) (next unrecognised : Bool) : State :=
  { s with teaNext := next, teaUnrecognised := unrecognised }

/-- `t` is `u` but for the TEA conditions. -/
def TeaOnly (u t : State) : Prop := t = u.withTea t.teaNext t.teaUnrecognised

theorem TeaOnly.intro (u : State) (n r : Bool) : TeaOnly u (u.withTea n r) := rfl

theorem TeaOnly.refl (s : State) : TeaOnly s s := rfl

theorem TeaOnly.trans {s t u : State} (h : TeaOnly s t) (h' : TeaOnly t u) : TeaOnly s u := by
  rw [h', h]
  rfl

theorem loadedAt_teaOnly (s : State) (pa : Word) : TeaOnly s (loadedAt s pa) := rfl

/-- Another master's write to RAM (spec/60_exceptions.md R803). -/
theorem busWrite_ram {s : State} {a : Word} (h : s.isRam a = true) (v : Byte) :
    busWrite s a v = if snooping s then forgetCached (writeBus s a v) a 1
      else { writeBus s a v with cached := (a.toNat, readByte s a) :: (writeBus s a v).cached } := if_pos h

theorem busWrite_noRam {s : State} {a : Word} (h : ¬ s.isRam a = true) (v : Byte) : busWrite s a v = s := if_neg h

theorem snoopReservation_withTea (s : State) (a : Word) (n r : Bool) :
    snoopReservation (s.withTea n r) a = (snoopReservation s a).withTea n r :=
  (apply_ite (fun t => State.withTea t n r) ((snooping s && s.reserve == some (a &&& granuleMask)) = true)
    { s with reserve := none } s).symm

theorem busWrite_withTea (s : State) (a : Word) (v : Byte) (n r : Bool) :
    busWrite (s.withTea n r) a v = (busWrite s a v).withTea n r := by
  by_cases h : s.isRam a = true
  · rw [busWrite_ram h, busWrite_ram (s := s.withTea n r) h, apply_ite (fun t => State.withTea t n r)]
    rfl
  · rw [busWrite_noRam h, busWrite_noRam (s := s.withTea n r) h]

theorem applyBus_withTea (s : State) (e : BusEvent) (n r : Bool) : TeaOnly (applyBus s e) (applyBus (s.withTea n r) e) := by
  cases e with
  | teaLoad => rfl
  | claim a =>
    change TeaOnly _ (snoopReservation (s.withTea n r) a)
    rw [snoopReservation_withTea]
    exact .intro ..
  | write a v =>
    change TeaOnly _ (snoopReservation (busWrite (s.withTea n r) a v) a)
    rw [busWrite_withTea, snoopReservation_withTea]
    exact .intro ..

theorem TeaOnly.between {u t : State} (h : TeaOnly u t) : TeaOnly (Machine.between u) (Machine.between t) := by
  have hfold (es : List BusEvent) : ∀ u t, TeaOnly u t → TeaOnly (es.foldl applyBus u) (es.foldl applyBus t) := by
    induction es with
    | nil => exact fun _ _ h => h
    | cons e rest ih =>
      intro u t h
      rw [List.foldl_cons, List.foldl_cons, h]
      exact ih _ _ (applyBus_withTea ..)
  have hamid : t.amid = u.amid := by rw [h]; rfl
  unfold Machine.between
  rw [hamid]
  refine hfold _ _ _ ?_
  rw [h]
  rfl

theorem TeaOnly.gaps {u t : State} (h : TeaOnly u t) (k : Nat) : TeaOnly (Machine.gaps u k) (Machine.gaps t k) := by
  induction k generalizing u t with
  | zero => exact h
  | succ k ih => exact ih h.between

/-- What a load may see does not depend on the TEA conditions. -/
theorem TeaOnly.sees {u t : State} (h : TeaOnly u t) {pa : Word} {b : Byte} (hs : Sees t pa b) : Sees u pa b := by
  rw [h] at hs
  exact hs

/-- Which address answers with TEA does not depend on the TEA conditions. -/
theorem TeaOnly.answersTea {u t : State} (h : TeaOnly u t) (pa : Word) : t.answersTea pa = u.answersTea pa := by
  rw [h]
  rfl

/- What one part of a load sees (spec/20_memory.md R165, spec/60_exceptions.md R803). -/

theorem drawFrom_mem {α : Type} (s : State) (site : UndefSite) (x : α) (others : List α) :
    s.drawFrom site x others = x ∨ s.drawFrom site x others ∈ others := by
  unfold State.drawFrom
  cases h : (x :: others)[(s.draw site).toNat % (others.length + 1)]? with
  | none => exact .inl rfl
  | some y => exact List.mem_cons.mp (List.mem_of_getElem? h)

theorem loadByte_sees (s : State) (ea pa : Word) : Sees s pa (loadByte s ea pa) := by
  unfold loadByte
  split
  · next h => exact .inl h
  · dsimp only
    split
    · exact .inr (.inl rfl)
    · refine .inr ((drawFrom_mem ..).imp id fun h => ?_)
      obtain ⟨e, he, hv⟩ := List.mem_map.mp h
      obtain ⟨hm, ha⟩ := List.mem_filter.mp he
      rw [← hv, ← of_decide_eq_true ha]
      exact hm

theorem placesFrom_getD (pa : Word) {n k : Nat} (hk : k < n) : (placesFrom pa n).getD k 0 = pa + BitVec.ofNat 32 k := by
  simp [placesFrom, hk]

@[simp] theorem placesFrom_length (pa : Word) (n : Nat) : (placesFrom pa n).length = n := by simp [placesFrom]

theorem mem_placesFrom {pa a : Word} {n : Nat} : a ∈ placesFrom pa n ↔ ∃ k < n, a = pa + BitVec.ofNat 32 k := by
  simp [placesFrom, eq_comm]

/-- A load of one part: its bytes, and the TEA conditions it leaves. -/
theorem loadAt_single_sees (s : State) (ea pa : Word) {n : Nat} (hn : 0 < n) :
    ∃ bs, (loadAt s ea n [pa]).1 = [wordOfBE bs] ∧ SeesAll s 0 (fun _ => 0) (placesFrom pa n) bs ∧
      TeaLoaded 0 (placesFrom pa n) s (loadedAt s pa) := by
  have hpa : pa ∈ placesFrom pa n := mem_placesFrom.mpr ⟨0, hn, by simp⟩
  have hcomes : TeaComes s 0 ↔ s.teaNext = true := by simp [TeaComes]
  have htea (h : NoTea s 0 (placesFrom pa n)) : loadTea s pa = false := by
    obtain ⟨hno, hanswers⟩ := h
    rw [hcomes, Bool.not_eq_true] at hno
    rw [loadTea, hno, hanswers pa hpa]
    rfl
  refine ⟨if loadTea s pa then (List.range n).map fun k => freeByte s (ea + BitVec.ofNat 32 (n * 0 + k))
      else (List.range n).map fun k => loadByte s (ea + BitVec.ofNat 32 k) (pa + BitVec.ofNat 32 k), ?_, ⟨?_, fun h k hk => ?_⟩,
    rfl, fun h => ?_, fun h => ?_, fun h => ?_⟩
  · rw [loadAt_single]
    split
    · rfl
    · rfl
  · split <;> simp
  · rw [placesFrom_length] at hk
    rw [htea h, placesFrom_getD pa hk]
    have hb : (if false = true then (List.range n).map fun k => freeByte s (ea + BitVec.ofNat 32 (n * 0 + k))
        else (List.range n).map fun k => loadByte s (ea + BitVec.ofNat 32 k) (pa + BitVec.ofNat 32 k)).getD k 0 =
        loadByte s (ea + BitVec.ofNat 32 k) (pa + BitVec.ofNat 32 k) := by simp [hk]
    rw [hb]
    exact loadByte_sees s _ _
  · rw [hcomes] at h
    simp [loadedAt, loadTea, h]
  · simp [loadedAt, h]
  · simp [loadedAt, htea h]

/- A load in parts of one byte (spec/20_memory.md R156, R161). -/

theorem between_amid_tail (s : State) : (between s).amid = s.amid.tail := by
  obtain ⟨_, _, _, _, _, h⟩ := between_frame s
  rw [h]

theorem between_answersTea (s : State) (a : Word) : (between s).answersTea a = s.answersTea a := by
  obtain ⟨_, _, _, _, _, h⟩ := between_frame s
  rw [h]
  rfl

theorem teaComes_succ (s : State) (pa : Word) (m : Nat) :
    TeaComes s (m + 1) ↔ s.teaNext = true ∨ TeaComes (between (loadedAt s pa)) m := by
  have hamid : (between (loadedAt s pa)).amid = s.amid.tail := between_amid_tail _
  unfold TeaComes
  rw [between_teaNext, hamid]
  cases h : s.amid with
  | nil => simp [h]
  | cons es rest => simp [h]

theorem loadParts_cons_cons (s : State) (ea pa pa' : Word) (size : Nat) (rest : List Word) :
    loadParts s ea size (pa :: pa' :: rest) =
      { words := loadPhys s ea pa size ::
          (loadParts (between (loadedAt s pa)) (ea + BitVec.ofNat 32 size) size (pa' :: rest)).words
        tea := loadTea s pa || (loadParts (between (loadedAt s pa)) (ea + BitVec.ofNat 32 size) size (pa' :: rest)).tea
        reached := (loadParts (between (loadedAt s pa)) (ea + BitVec.ofNat 32 size) size (pa' :: rest)).reached } := rfl

/-- The state before the next part is, but for the TEA conditions, what the gap leaves. -/
theorem between_loadedAt_teaOnly (s : State) (pa : Word) : TeaOnly (between s) (between (loadedAt s pa)) :=
  (loadedAt_teaOnly s pa).between

theorem loadParts_reached (s : State) (ea pa : Word) (size : Nat) (rest : List Word) :
    TeaOnly (gaps s rest.length) (loadParts s ea size (pa :: rest)).reached ∧
    (loadParts s ea size (pa :: rest)).reached.teaNext = false ∧
    (loadParts s ea size (pa :: rest)).reached.teaUnrecognised =
      (s.teaUnrecognised || (loadParts s ea size (pa :: rest)).tea) := by
  induction rest generalizing s ea pa with
  | nil => exact ⟨rfl, rfl, by simp [loadParts, loadedAt]⟩
  | cons pa' rest ih =>
    obtain ⟨hreached, hnext, hun⟩ := ih (between (loadedAt s pa)) (ea + BitVec.ofNat 32 size) pa'
    rw [loadParts_cons_cons]
    refine ⟨((between_loadedAt_teaOnly s pa).gaps rest.length).trans hreached, hnext, hun.trans ?_⟩
    rw [between_teaUnrecognised]
    exact Bool.or_assoc ..

/-- A transaction of a part ends with TEA where one was to come or comes in a gap, or where an address answers so. -/
theorem loadParts_tea (s : State) (ea pa : Word) (size : Nat) (rest : List Word) :
    (loadParts s ea size (pa :: rest)).tea = true ↔
      TeaComes s rest.length ∨ ∃ a ∈ pa :: rest, s.answersTea a = true := by
  induction rest generalizing s ea pa with
  | nil => simp [loadParts, loadTea, TeaComes]
  | cons pa' rest ih =>
    have hmap (a : Word) : (between (loadedAt s pa)).answersTea a = s.answersTea a :=
      ((between_loadedAt_teaOnly s pa).answersTea a).trans (between_answersTea s a)
    rw [loadParts_cons_cons, List.length_cons, teaComes_succ s pa, Bool.or_eq_true, ih]
    simp only [loadTea, Bool.or_eq_true, hmap, List.mem_cons, exists_eq_or_imp]
    tauto

/-- The bytes of a load in parts of one byte, each seen in the state its part finds. -/
theorem loadParts_bytes (s : State) (ea : Word) (pas : List Word) :
    ∃ bs : List Byte, (loadParts s ea 1 pas).words = bs.map (·.setWidth 32) ∧ bs.length = pas.length ∧
      ∀ k, k < pas.length → Sees (gaps s k) (pas.getD k 0) (bs.getD k 0) := by
  induction pas generalizing s ea with
  | nil => exact ⟨[], rfl, rfl, fun k hk => absurd hk (Nat.not_lt_zero k)⟩
  | cons pa rest ih =>
    have hword : loadPhys s ea pa 1 = (loadByte s ea pa).setWidth 32 := by simp [loadPhys, wordOfBE]
    cases rest with
    | nil =>
      refine ⟨[loadByte s ea pa], by simp [loadParts, hword], rfl, fun k hk => ?_⟩
      obtain rfl : k = 0 := by simpa using hk
      exact loadByte_sees s ea pa
    | cons pa' rest =>
      obtain ⟨bs, hwords, hlen, hsees⟩ := ih (between (loadedAt s pa)) (ea + BitVec.ofNat 32 1)
      refine ⟨loadByte s ea pa :: bs, by rw [loadParts_cons_cons, hword, hwords]; rfl, by simp [hlen], fun k hk => ?_⟩
      cases k with
      | zero => exact loadByte_sees s ea pa
      | succ k => exact ((between_loadedAt_teaOnly s pa).gaps k).sees (hsees k (Nat.lt_of_succ_lt_succ hk))

/- The load of one operand (spec/20_memory.md R150, R156). -/

theorem offset_succ (ea : Word) (k : Nat) : ea + BitVec.ofNat 32 (k + 1) = ea + BitVec.ofNat 32 1 + BitVec.ofNat 32 k := by
  simpa using partAddress_succ ea 1 k

/-- The translations of successive bytes, the first apart. -/
theorem forall_range_succ {p : Nat → Word → Prop} {n : Nat} {places : List Word}
    (h : List.Forall₂ p (List.range (n + 1)) places) :
    ∃ pa rest, places = pa :: rest ∧ p 0 pa ∧ List.Forall₂ (fun k => p (k + 1)) (List.range n) rest := by
  rw [List.range_succ_eq_map] at h
  obtain ⟨pa, rest, h0, hrest, rfl⟩ := List.forall₂_cons_left_iff.mp h
  exact ⟨pa, rest, rfl, h0, List.forall₂_map_left_iff.mp hrest⟩

theorem partAddresses_of_places {s : State} {ea : Word} {store : Bool} {n : Nat} {places : List Word}
    (h : List.Forall₂ (fun k pa => translateData s (ea + BitVec.ofNat 32 k) store = .ok pa) (List.range n) places) :
    partAddresses s ea 1 store n = (places, none) := by
  induction n generalizing ea places with
  | zero => rw [List.forall₂_nil_left_iff.mp h]; rfl
  | succ n ih =>
    obtain ⟨pa, rest, rfl, h0, hrest⟩ := forall_range_succ h
    rw [partAddresses_ok 1 n (by simpa using h0), ih (hrest.imp fun k pa hk => by rwa [← offset_succ])]

/-- An access stops at its first part that does not translate. -/
theorem partAddresses_stop_at {s : State} {ea : Word} {size : Nat} {store : Bool} {k n : Nat} {e : AccessStop} (hk : k < n)
    (hok : ∀ j, j < k → ∃ pa, translateData s (ea + BitVec.ofNat 32 (size * j)) store = .ok pa)
    (he : translateData s (ea + BitVec.ofNat 32 (size * k)) store = .error e) :
    (partAddresses s ea size store n).2 = some e := by
  induction k generalizing ea n with
  | zero =>
    obtain ⟨n, rfl⟩ : ∃ m, n = m + 1 := ⟨n - 1, by omega⟩
    rw [partAddresses_error size n (by simpa using he)]
  | succ k ih =>
    obtain ⟨n, rfl⟩ : ∃ m, n = m + 1 := ⟨n - 1, by omega⟩
    obtain ⟨pa, hpa⟩ := hok 0 (Nat.succ_pos k)
    rw [partAddresses_ok size n (by simpa using hpa)]
    simp only [partAddress_succ] at he
    exact ih (by omega) (fun j hj => by simpa only [partAddress_succ] using hok (j + 1) (by omega)) he

/-- A load of bytes one by one. -/
theorem loadAt_bytes (s : State) (ea pa : Word) (rest : List Word) :
    ∃ bs : List Byte, (loadAt s ea 1 (pa :: rest)).1 = bs.map (·.setWidth 32) ∧
      SeesAll s rest.length id (pa :: rest) bs ∧
      TeaLoaded rest.length (pa :: rest) s (loadAt s ea 1 (pa :: rest)).2 := by
  obtain ⟨bs, hwords, hlen, hsees⟩ := loadParts_bytes s ea (pa :: rest)
  obtain ⟨-, hnext, hun⟩ := loadParts_reached s ea pa 1 rest
  have htea := loadParts_tea s ea pa 1 rest
  have hfree : freeParts s ea 1 (pa :: rest).length =
      ((List.range (pa :: rest).length).map fun j => freeByte s (ea + BitVec.ofNat 32 (1 * j + 0))).map (·.setWidth 32) := by
    simp [freeParts, wordOfBE]
  have hno (h : NoTea s rest.length (pa :: rest)) : (loadParts s ea 1 (pa :: rest)).tea = false := by
    obtain ⟨hcomes, hanswers⟩ := h
    rw [Bool.eq_false_iff, ne_eq, htea, not_or]
    exact ⟨hcomes, fun ⟨a, ha, hat⟩ => ne_true_of_eq_false (hanswers a ha) hat⟩
  refine ⟨if (loadParts s ea 1 (pa :: rest)).tea then
      (List.range (pa :: rest).length).map fun j => freeByte s (ea + BitVec.ofNat 32 (1 * j + 0))
    else bs, ?_, ⟨?_, fun h k hk => ?_⟩, hnext, fun h => ?_, fun h => ?_, fun h => ?_⟩
  · simp only [loadAt]
    split
    · exact hfree
    · exact hwords
  · split
    · simp
    · exact hlen
  · rw [hno h]
    exact hsees k hk
  · exact hun.trans (by rw [htea.mpr (.inl h), Bool.or_true])
  · exact hun.trans (by rw [h, Bool.true_or])
  · exact hun.trans (by rw [hno h, Bool.or_false])

theorem not_isAligned {ea : Word} {n : Nat} (h : ¬ ea.toNat % n = 0) : isAligned ea n = false :=
  Bool.eq_false_iff.mpr fun ha => h ((isAligned_iff ea n).mp ha)

theorem loadData_misaligned_ok {s t : State} {ea : Word} {n : Nat} {ws : List Word} (ha : ¬ ea.toNat % n = 0)
    (h : loadAll s ea 1 n = .ok (ws, t)) : loadData s ea n = .ok (ws.foldl (fun acc v => acc <<< 8 ||| v) 0, t) := by
  simp [loadData, not_isAligned ha, h]

theorem loadData_misaligned_error {s : State} {ea : Word} {n : Nat} {e : AccessStop} (ha : ¬ ea.toNat % n = 0)
    (h : loadAll s ea 1 n = .error e) : loadData s ea n = .error e := by
  simp [loadData, not_isAligned ha, h]

/-- A load whose operand has places: the big-endian value of bytes it may see. -/
theorem loadData_sees {s : State} {ea : Word} {n : Nat} {places : List Word} (hn : 0 < n)
    (hp : Places s ea n false places) :
    ∃ bs t, loadData s ea n = .ok (wordOfBE bs, t) ∧ bs.length = n ∧
      SeesAll s (lastPart ea n) (fun k => if ea.toNat % n = 0 then 0 else k) places bs ∧
      TeaLoaded (lastPart ea n) places s t ∧ TeaOnly (gaps s (lastPart ea n)) t := by
  unfold Places at hp
  by_cases ha : ea.toNat % n = 0
  · rw [if_pos ha] at hp
    obtain ⟨pa, hpa, rfl⟩ := hp
    obtain ⟨bs, hword, hsees, htea⟩ := loadAt_single_sees s ea pa hn
    simp only [lastPart, ha, if_true]
    refine ⟨bs, loadedAt s pa, ?_, hsees.1.trans (placesFrom_length pa n), hsees, htea, loadedAt_teaOnly s pa⟩
    rw [loadData_aligned hn ha hpa, hword]
    simp
  · rw [if_neg ha] at hp
    have haddr := partAddresses_of_places hp
    have hlen : places.length = n := hp.length_eq.symm.trans List.length_range
    obtain ⟨pa, rest, rfl⟩ : ∃ pa rest, places = pa :: rest := by
      cases places with
      | nil => exact absurd hlen (by simp; omega)
      | cons pa rest => exact ⟨pa, rest, rfl⟩
    have hrest : rest.length = n - 1 := by
      rw [← hlen]
      rfl
    obtain ⟨bs, hwords, hsees, htea⟩ := loadAt_bytes s ea pa rest
    simp only [lastPart, ha, if_false, ← hrest]
    have hall : loadAll s ea 1 n = .ok (bs.map (·.setWidth 32), (loadAt s ea 1 (pa :: rest)).2) := by
      simp only [loadAll, loadRun, haddr, hwords]
    refine ⟨bs, _, (loadData_misaligned_ok ha hall).trans ?_, hsees.1.trans hlen, hsees, htea,
      (loadParts_reached s ea pa 1 rest).1⟩
    rw [List.foldl_map]
    rfl

/-- A load that stops does so at its first part that does not translate. -/
theorem loadData_stops {s : State} {ea : Word} {n k : Nat} {e : AccessStop} (hk : k < n) (ha : ea.toNat % n = 0 → k = 0)
    (hok : ∀ j, j < k → ∃ pa, translateData s (ea + BitVec.ofNat 32 j) false = .ok pa)
    (he : translateData s (ea + BitVec.ofNat 32 k) false = .error e) : loadData s ea n = .error e := by
  by_cases h : ea.toNat % n = 0
  · obtain rfl := ha h
    have := partAddresses_stop_at (size := n) (n := 1) Nat.zero_lt_one (fun j hj => absurd hj (Nat.not_lt_zero j))
      (by simpa using he)
    simp [loadData, (isAligned_iff ea n).mpr h, Nat.div_self hk, loadAll, loadRun, this]
  · have := partAddresses_stop_at (size := 1) hk (by simpa using hok) (by simpa using he)
    exact loadData_misaligned_error h (by simp [loadAll, loadRun, this])

/- What the write of the datum and of the base leaves (spec/43_load_store.md R480). -/

theorem writeGpr_rest (s : State) (r : Reg) (v : Word) :
    s.writeGpr r v = { s with gpr := (s.writeGpr r v).gpr, tgpr := (s.writeGpr r v).tgpr } := by
  unfold State.writeGpr
  split <;> rfl

/-- A write of a register that may be used leaves the bank not in use. -/
theorem writeGpr_sameBank {u t : State} {r : Reg} (v : Word) (h : SameBank u t) (hmsr : t.msr = u.msr)
    (hu : t.gprsUsable [r] = true) : SameBank u (t.writeGpr r v) := by
  have hbit : u.msrBit msrTGPR = t.msrBit msrTGPR := by rw [State.msrBit, State.msrBit, hmsr]
  have huse : t.usesTgpr r = t.msrBit msrTGPR := by
    cases hb : t.msrBit msrTGPR
    · simp [State.usesTgpr, hb]
    · simpa [State.usesTgpr, State.gprsUsable, hb] using hu
  unfold SameBank at h ⊢
  unfold State.writeGpr
  rw [huse]
  rw [hbit] at h ⊢
  split <;> rename_i hb
  · rwa [if_pos hb] at h
  · rwa [if_neg hb] at h

theorem updateBase_rest (s : State) (base : Option Reg) (ea : Word) : updateBase s base ea =
    { s with gpr := (updateBase s base ea).gpr, tgpr := (updateBase s base ea).tgpr } := by
  cases base with
  | none => rfl
  | some rA => exact writeGpr_rest s rA ea

theorem updateBase_base {s : State} {base : Option Reg} {rA : Reg} (ea : Word) (h : base = some rA) :
    (updateBase s base ea).readGpr rA = ea := by
  rw [h]
  exact readGpr_writeGpr_same ..

theorem updateBase_other {s : State} {base : Option Reg} {r : Reg} (ea : Word) (h : base ≠ some r) :
    (updateBase s base ea).readGpr r = s.readGpr r := by
  cases base with
  | none => rfl
  | some rA => exact readGpr_writeGpr_other s rA r ea fun e => h (by rw [e])

theorem updateBase_sameBank {u t : State} {base : Option Reg} (ea : Word) (h : SameBank u t) (hmsr : t.msr = u.msr)
    (hu : t.gprsUsable base.toList = true) : SameBank u (updateBase t base ea) := by
  cases base with
  | none => exact h
  | some rA => exact writeGpr_sameBank ea h hmsr hu

theorem gprsUsable_congr {s t : State} (h : t.msr = s.msr) (rs : List Reg) : t.gprsUsable rs = s.gprsUsable rs := by
  rw [State.gprsUsable, State.gprsUsable, State.msrBit, State.msrBit, h]

theorem TeaOnly.registers {u t : State} (h : TeaOnly u t) : t.gpr = u.gpr ∧ t.tgpr = u.tgpr ∧ t.msr = u.msr := by
  rw [h]
  exact ⟨rfl, rfl, rfl⟩

/-- The end of an integer load. -/
theorem loaded_of_writes {u t : State} {rD : Reg} {base : Option Reg} (h : TeaOnly u t) (v ea : Word)
    (hu : u.gprsUsable (rD :: base.toList) = true) (hbase : base ≠ some rD) :
    Loaded rD v base ea u { updateBase (t.writeGpr rD v) base ea with cia := (updateBase (t.writeGpr rD v) base ea).cia + 4 } := by
  obtain ⟨hgpr, htgpr, hmsr⟩ := h.registers
  have hread (r : Reg) : t.readGpr r = u.readGpr r := readGpr_of_eq hgpr htgpr hmsr r
  have hbank : SameBank u t := by
    unfold SameBank
    split
    · exact hgpr
    · exact htgpr
  have huse (rs : List Reg) (hsub : rs ⊆ rD :: base.toList) {w : State} (hw : w.msr = u.msr) : w.gprsUsable rs = true :=
    (gprsUsable_congr hw rs).trans (gprsUsable_mono hu hsub)
  have hmsr' : (t.writeGpr rD v).msr = u.msr := (writeGpr_msr ..).trans hmsr
  refine ⟨?_, fun rA hA => updateBase_base ea hA, fun r hr hb => ?_, ?_, ?_⟩
  · exact (updateBase_other ea hbase).trans (readGpr_writeGpr_same t rD v)
  · exact (updateBase_other ea hb).trans ((readGpr_writeGpr_other t rD r v hr).trans (hread r))
  · exact updateBase_sameBank ea (writeGpr_sameBank v hbank hmsr (huse [rD] (by simp) hmsr)) hmsr'
      (huse base.toList (by simp) hmsr')
  · rw [updateBase_rest, writeGpr_rest, h]
    rfl

/-- What an integer load does: the value of `f` on the bytes its parts see, or the stop of its first part that does not
translate. -/
def LoadsAs (o : Out) (s : State) (rD : Reg) (n : Nat) (ea : Word) (base : Option Reg) (f : List Byte → Word) : Prop :=
  (∀ places, Places s ea n false places →
    ∃ bs t, o = .next t ∧ SeesAll s (lastPart ea n) (fun k => if ea.toNat % n = 0 then 0 else k) places bs ∧
      TeaLoaded (lastPart ea n) places s t ∧ Loaded rD (f bs) base ea (gaps s (lastPart ea n)) t) ∧
  ∀ k e, k < n → (ea.toNat % n = 0 → k = 0) →
    (∀ j, j < k → ∃ pa, translateData s (ea + BitVec.ofNat 32 j) false = .ok pa) →
    translateData s (ea + BitVec.ofNat 32 k) false = .error e → o = e.outcome s

/-- The TEA conditions a load leaves are those of every state that agrees with its own. -/
theorem TeaLoaded.congr {m : Nat} {places : List Word} {s t t' : State} (h : TeaLoaded m places s t)
    (hn : t'.teaNext = t.teaNext) (hr : t'.teaUnrecognised = t.teaUnrecognised) : TeaLoaded m places s t' := by
  unfold TeaLoaded at h ⊢
  rwa [hn, hr]

/-- An integer load past its guards. -/
theorem loadInt_eq {s : State} {named : List Reg} (hu : s.gprsUsable named = true) (hle : s.leView = false) (w ea : Word)
    (n : Nat) (conv : Word → Word) (rD : Reg) (base : Option Reg) :
    loadInt s w named ea n conv rD base = proceed (orStop s (loadData s ea n)) fun (v, t) =>
      advance (updateBase (t.writeGpr rD (conv v)) base ea) := by
  rw [loadInt, withGprs_of_usable hu, guardBigEndian_big hle]

theorem loadInt_loads {s : State} {named : List Reg} {rD : Reg} {base : Option Reg} {n : Nat} {conv : Word → Word}
    {f : List Byte → Word} (w ea : Word) (hle : s.leView = false) (hn : 0 < n) (hu : s.gprsUsable named = true)
    (hsub : rD :: base.toList ⊆ named) (hbase : base ≠ some rD)
    (hconv : ∀ bs : List Byte, bs.length = n → conv (wordOfBE bs) = f bs) :
    LoadsAs (loadInt s w named ea n conv rD base) s rD n ea base f := by
  rw [loadInt_eq hu hle]
  refine ⟨fun places hp => ?_, fun k e hk ha hok he => ?_⟩
  · obtain ⟨bs, t, hload, hlen, hsees, htea, ht⟩ := loadData_sees hn hp
    have huse : (gaps s (lastPart ea n)).gprsUsable (rD :: base.toList) = true :=
      (gprsUsable_congr (gaps_msr ..) _).trans (gprsUsable_mono hu hsub)
    refine ⟨bs, _, by rw [hload]; rfl, hsees, htea.congr ?_ ?_, ?_⟩
    · rw [updateBase_rest, writeGpr_rest]
    · rw [updateBase_rest, writeGpr_rest]
    · rw [hconv bs hlen]
      exact loaded_of_writes ht _ ea huse hbase
  · rw [loadData_stops hk ha hok he]
    rfl

/-- Settles O22: each form is an integer load past its guards; what is left is how its datum is made of its bytes. -/
theorem integerLoads : Obligations.IntegerLoads := by
  intro s rD rA rB d hu hle eaD' eaX' eaDU' eaXU' zero sign little loads
  have hD : s.gprsUsable (rD :: namedOr0 rA) = true := by
    simpa using usable_or0 (src := [rD]) (tail := []) (gprsUsable_mono hu (by simp))
  have hX : s.gprsUsable (rD :: namedOr0 rA ++ [rB]) = true := usable_or0 (src := [rD]) hu
  have hDU : s.gprsUsable [rD, rA] = true := gprsUsable_mono hu (by simp)
  have hzero {n : Nat} (bs : List Byte) (_ : bs.length = n) : id (wordOfBE bs) = zero bs := wordOfBE_eq bs
  have hsign {n : Nat} (bs : List Byte) (_ : bs.length = n) : signHalf (wordOfBE bs) = sign bs := signHalf_wordOfBE bs
  have plainD {n : Nat} {conv : Word → Word} {f : List Byte → Word} (w : Word) (hn : 0 < n)
      (hc : ∀ bs : List Byte, bs.length = n → conv (wordOfBE bs) = f bs) :=
    loadInt_loads (rD := rD) (base := none) w eaD' hle hn hD (by simp) nofun hc
  have plainX {n : Nat} {conv : Word → Word} {f : List Byte → Word} (w : Word) (hn : 0 < n)
      (hc : ∀ bs : List Byte, bs.length = n → conv (wordOfBE bs) = f bs) :=
    loadInt_loads (rD := rD) (base := none) w eaX' hle hn hX (by simp) nofun hc
  refine ⟨plainD _ (by omega) hzero, plainX _ (by omega) hzero, plainD _ (by omega) hzero, plainX _ (by omega) hzero,
    plainD _ (by omega) hsign, plainX _ (by omega) hsign, plainD _ (by omega) hzero, plainX _ (by omega) hzero,
    plainX _ (by omega) fun bs h => reverseHalf_wordOfBE h, plainX _ (by omega) fun bs h => reverseBytes_wordOfBE h,
    fun h0 hne => ?_⟩
  have hok : updateLoadOk rD rA = true := updateLoadOk_of_ne h0 hne
  have hbase : some rA ≠ some rD := fun e => hne (Option.some.inj e)
  have updateD {i : Instr} {n : Nat} {conv : Word → Word} {f : List Byte → Word} (w : Word)
      (hi : exec i s = proceed (guardForm (updateLoadOk rD rA)) fun _ => loadInt s w [rD, rA] eaDU' n conv rD (some rA))
      (hn : 0 < n) (hc : ∀ bs : List Byte, bs.length = n → conv (wordOfBE bs) = f bs) :
      LoadsAs (exec i s) s rD n eaDU' (some rA) f := by
    rw [hi, guardForm_true hok]
    exact loadInt_loads w eaDU' hle hn hDU (by simp) hbase hc
  have updateX {i : Instr} {n : Nat} {conv : Word → Word} {f : List Byte → Word} (w : Word)
      (hi : exec i s = proceed (guardForm (updateLoadOk rD rA)) fun _ =>
        loadInt s w [rD, rA, rB] eaXU' n conv rD (some rA))
      (hn : 0 < n) (hc : ∀ bs : List Byte, bs.length = n → conv (wordOfBE bs) = f bs) :
      LoadsAs (exec i s) s rD n eaXU' (some rA) f := by
    rw [hi, guardForm_true hok]
    exact loadInt_loads w eaXU' hle hn hu (by simp) hbase hc
  exact ⟨updateD _ rfl (by omega) hzero, updateX _ rfl (by omega) hzero, updateD _ rfl (by omega) hzero,
    updateX _ rfl (by omega) hzero, updateD _ rfl (by omega) hsign, updateX _ rfl (by omega) hsign,
    updateD _ rfl (by omega) hzero, updateX _ rfl (by omega) hzero⟩

end Sys2Proof.Machine

/-!
Stores and other masters' writes: what each leaves of memory and of the records beside it (spec/20_memory.md R150, R165,
R202, R220, spec/60_exceptions.md R803).
-/
namespace Sys2Proof.Machine

/- Addresses. -/

theorem mem_placesFrom_iff {pa a : Word} {n : Nat} (hn : n ≤ 2 ^ 32) : a ∈ placesFrom pa n ↔ (a - pa).toNat < n := by
  have ha := a.isLt
  have hp := pa.isLt
  rw [mem_placesFrom]
  constructor
  · rintro ⟨k, hk, rfl⟩
    simp only [BitVec.toNat_sub, BitVec.toNat_add, BitVec.toNat_ofNat]
    omega
  · intro h
    refine ⟨(a - pa).toNat, h, ?_⟩
    rw [BitVec.ofNat_toNat, BitVec.setWidth_eq, BitVec.add_comm, BitVec.sub_add_cancel]

theorem kindAt_congr {s t : State} (h : t.map = s.map) (a : Word) : t.kindAt a = s.kindAt a := by
  rw [State.kindAt, State.kindAt, h]

theorem isRam_congr {s t : State} (h : t.map = s.map) (a : Word) : t.isRam a = s.isRam a := by
  rw [State.isRam, State.isRam, kindAt_congr h]

/-- One thing stands in the whole of a block of 32 bytes. -/
theorem kindAt_sameBlock (s : State) {a b : Word} (h : a.toNat / 32 = b.toNat / 32) : s.kindAt a = s.kindAt b := by
  have hb : a.extractLsb' 5 27 = b.extractLsb' 5 27 := by
    apply BitVec.eq_of_toNat_eq
    rw [BitVec.extractLsb'_toNat, BitVec.extractLsb'_toNat, Nat.shiftRight_eq_div_pow, Nat.shiftRight_eq_div_pow]
    exact congrArg (· % 2 ^ 27) h
  have hc : (fun r : Region => r.covers a) = fun r => r.covers b := by
    funext r
    rw [Region.covers, Region.covers, hb]
  rw [State.kindAt, State.kindAt, hc]

theorem isRam_sameBlock (s : State) {a b : Word} (h : a.toNat / 32 = b.toNat / 32) : s.isRam a = s.isRam b := by
  rw [State.isRam, State.isRam, kindAt_sameBlock s h]

/-- A word masked to a multiple of a power of two. -/
theorem and_highMask_eq (a m : Word) (k : Nat) (hm : ∀ i < 32, m.getLsbD i = decide (k ≤ i)) :
    a &&& m = BitVec.ofNat 32 (a.toNat / 2 ^ k * 2 ^ k) := by
  apply BitVec.eq_of_getLsbD_eq
  intro i hi
  rw [BitVec.getLsbD_and, hm i hi, BitVec.getLsbD_ofNat, ← Nat.shiftLeft_eq, Nat.testBit_shiftLeft]
  by_cases h : k ≤ i
  · rw [Nat.testBit_div_two_pow, show i - k + k = i by omega]
    simp [h, hi, BitVec.getLsbD]
  · simp [h]

theorem wordAlign_eq (a : Word) : wordAlign a = BitVec.ofNat 32 (a.toNat / 4 * 4) :=
  and_highMask_eq a 0xFFFFFFFC 2 (by decide)

theorem blockAlign_eq (a : Word) : blockAlign a = BitVec.ofNat 32 (a.toNat / 32 * 32) :=
  and_highMask_eq a 0xFFFFFFE0 5 (by decide)

theorem granule_eq (a : Word) : a &&& granuleMask = BitVec.ofNat 32 (a.toNat / 32 * 32) :=
  and_highMask_eq a granuleMask 5 (by decide)

theorem wordAlign_eq_iff {a b : Word} : wordAlign a = wordAlign b ↔ a.toNat / 4 = b.toNat / 4 := by
  have ha := a.isLt
  have hb := b.isLt
  rw [wordAlign_eq, wordAlign_eq, ← BitVec.toNat_inj, BitVec.toNat_ofNat, BitVec.toNat_ofNat]
  omega

/-- The bytes of an aligned operand stand in one word. -/
theorem sameWord_of_mem_placesFrom {pa a : Word} {n : Nat} (hn : n ∣ 4) (hp : pa.toNat % n = 0) (h : a ∈ placesFrom pa n) :
    a.toNat / 4 = pa.toNat / 4 := by
  obtain ⟨k, hk, rfl⟩ := mem_placesFrom.mp h
  have hlt := pa.isLt
  have hn4 : n = 1 ∨ n = 2 ∨ n = 4 := by
    have := Nat.le_of_dvd (by omega) hn
    interval_cases n <;> revert hn <;> decide
  rw [BitVec.toNat_add, BitVec.toNat_ofNat]
  rcases hn4 with rfl | rfl | rfl <;> omega

theorem isRam_placesFrom (s : State) {pa a : Word} {n : Nat} (hn : n ∣ 4) (hp : pa.toNat % n = 0)
    (h : a ∈ placesFrom pa n) : s.isRam a = s.isRam pa :=
  isRam_sameBlock s (by have := sameWord_of_mem_placesFrom hn hp h; omega)

/- A store of this core. -/

theorem readByte_congr {s t : State} (h : t.mem = s.mem) (a : Word) : readByte t a = readByte s a := by
  rw [readByte, readByte, h]

theorem writePhys_noRam {s : State} {pa : Word} (h : ¬ s.isRam pa = true) (n : Nat) (v : Word) :
    writePhys s pa n v = { s with teaUnrecognised := s.teaUnrecognised || s.answersTea pa } := if_neg h

theorem writePhys_ram {s : State} {pa : Word} (h : s.isRam pa = true) (n : Nat) (v : Word) :
    writePhys s pa n v = forgetCached (writeAs .stored s pa n v) pa n := if_pos h

theorem mem_forgetCached {s : State} {pa : Word} {n : Nat} (hn : n ≤ 2 ^ 32) {e : Host.Cell} :
    e ∈ (forgetCached s pa n).cached ↔ e ∈ s.cached ∧ BitVec.ofNat 32 e.1 ∉ placesFrom pa n := by
  rw [mem_placesFrom_iff hn, Nat.not_lt]
  simp [forgetCached]

/-- The copies a store leaves. -/
theorem mem_writePhys_cached {s : State} {pa : Word} {n : Nat} (hn : n ≤ 2 ^ 32) (v : Word) {e : Host.Cell} :
    e ∈ (writePhys s pa n v).cached ↔ e ∈ s.cached ∧ (s.isRam pa = true → BitVec.ofNat 32 e.1 ∉ placesFrom pa n) := by
  by_cases h : s.isRam pa = true
  · rw [writePhys_ram h, mem_forgetCached hn]
    simp [h, writeAs]
  · rw [writePhys_noRam h]
    simp [h]

theorem mem_staleOf {phase : StalePhase} {addr old new : Word} {e : StaleWord} :
    e ∈ staleOf phase addr old new ↔ old ≠ new ∧ e = { addr, old, phase } := by
  unfold staleOf
  split <;> simp [*]

/-- The records a store adds: the word it replaces where that changes (R220). -/
theorem writePhys_stale (s : State) (pa : Word) (n : Nat) (v : Word) : ∃ l, (writePhys s pa n v).stale = l ++ s.stale ∧
    ∀ e, e ∈ l ↔ readWordAt (writePhys s pa n v) pa ≠ readWordAt s pa ∧
      e = { addr := wordAlign pa, old := readWordAt s pa, phase := .stored } := by
  by_cases h : s.isRam pa = true
  · have hread : readWordAt (writePhys s pa n v) pa =
        readWordAt { s with mem := setBytes s.mem pa (bytesBE n v) } pa := by
      rw [writePhys_ram h]
      rfl
    refine ⟨_, by rw [writePhys_ram h]; rfl, fun e => ?_⟩
    rw [hread, mem_staleOf, ne_comm]
  · refine ⟨[], by rw [writePhys_noRam h]; rfl, fun e => ?_⟩
    have hread : readWordAt (writePhys s pa n v) pa = readWordAt s pa := by
      rw [writePhys_noRam h]
      rfl
    simp [hread]

theorem writePhys_tea (s : State) (pa : Word) (n : Nat) (v : Word) : (writePhys s pa n v).teaUnrecognised =
    if s.isRam pa then s.teaUnrecognised else s.teaUnrecognised || s.answersTea pa := by
  by_cases h : s.isRam pa = true
  · rw [writePhys_ram h, if_pos h]
    rfl
  · rw [writePhys_noRam h, if_neg h]

/-- Nothing answers with TEA where the map has no absent area. -/
theorem answersTea_of_kind {s : State} {pa : Word} (h : s.kindAt pa ≠ some .absent) : s.answersTea pa = false := by
  unfold State.answersTea
  rw [beq_false_of_ne h]
  rfl

/-- A store changes memory and what follows it only. -/
theorem writePhys_stopped (s : State) (pa : Word) (n : Nat) (v : Word) : StoppedStore s (writePhys s pa n v) := by
  by_cases h : s.isRam pa = true
  · rw [writePhys_ram h]
    rfl
  · rw [writePhys_noRam h]
    rfl

theorem StoppedStore.trans {s t u : State} (h : StoppedStore s t) (h' : StoppedStore t u) : StoppedStore s u := by
  unfold StoppedStore at h h'
  rw [h', h]
  rfl

theorem StoppedStore.symm {s t : State} (h : StoppedStore s t) : StoppedStore t s := by
  unfold StoppedStore at h
  rw [h]
  rfl

/- Another master's write. -/

theorem snoopReservation_rest (s : State) (a : Word) :
    snoopReservation s a = { s with reserve := (snoopReservation s a).reserve } := by
  unfold snoopReservation
  split <;> rfl

/-- A snooped access ends or keeps the reservation whatever memory and what follows it hold. -/
theorem StoppedStore.snoopReservation {s t : State} (h : StoppedStore s t) (a : Word) :
    StoppedStore (Machine.snoopReservation s a) (Machine.snoopReservation t a) := by
  have hr : (Machine.snoopReservation t a).reserve = (Machine.snoopReservation s a).reserve := by
    have hs : snooping t = snooping s := by rw [h]; rfl
    have hr : t.reserve = s.reserve := by rw [h]
    unfold Machine.snoopReservation
    rw [hs, hr]
    split
    · rfl
    · exact hr
  rw [snoopReservation_rest t, snoopReservation_rest s, hr, h]
  rfl

theorem busWrite_stopped (s : State) (a : Word) (v : Byte) : StoppedStore s (busWrite s a v) := by
  by_cases h : s.isRam a = true
  · rw [busWrite_ram h]
    split <;> rfl
  · rw [busWrite_noRam h]
    rfl

theorem StoppedStore.applyBus {s t : State} (h : StoppedStore s t) (e : BusEvent) :
    StoppedStore (Machine.applyBus s e) (Machine.applyBus t e) := by
  cases e with
  | write a v => exact (((busWrite_stopped s a v).symm.trans h).trans (busWrite_stopped t a v)).snoopReservation a
  | claim a => exact h.snoopReservation a
  | teaLoad =>
    unfold StoppedStore at h
    rw [h]
    rfl

theorem bytesBE_one (v : Byte) : bytesBE 1 (v.setWidth 32) = [v] := by
  have hv := v.isLt
  have h : (v.setWidth 32).extractLsb' (8 * (1 - 1 - 0)) 8 = v := by
    apply BitVec.eq_of_toNat_eq
    rw [BitVec.extractLsb'_toNat, BitVec.toNat_setWidth, Nat.mod_eq_of_lt (show v.toNat < 2 ^ 32 by omega)]
    exact Nat.mod_eq_of_lt hv
  exact congrArg (fun b => [b]) h

/-- A write on the bus changes its byte of RAM. -/
theorem busWrite_readByte {s : State} (hm : s.mem.wf = true) (addr a : Word) (v : Byte) :
    readByte (busWrite s addr v) a = if s.isRam addr = true ∧ a = addr then v else readByte s a := by
  by_cases h : s.isRam addr = true
  · have hmem : (busWrite s addr v).mem = s.mem.set addr.toNat v := by
      rw [busWrite_ram h, apply_ite State.mem]
      show (if _ then setBytes s.mem addr (bytesBE 1 (v.setWidth 32)) else setBytes s.mem addr (bytesBE 1 (v.setWidth 32))) = _
      rw [ite_self, bytesBE_one]
      rfl
    unfold readByte
    rw [hmem]
    by_cases ha : a = addr
    · rw [if_pos ⟨h, ha⟩, ha]
      exact Memory.get_set_same s.mem 0 addr.toNat v hm
    · rw [if_neg fun hc => ha hc.2]
      exact Memory.get_set_other _ _ _ _ fun e => ha (BitVec.eq_of_toNat_eq e)
  · rw [busWrite_noRam h, if_neg fun hc => h hc.1]

/-- The copies a write on the bus leaves or makes. -/
theorem mem_busWrite_cached {s : State} {addr : Word} (h : s.isRam addr = true) (v : Byte) {e : Host.Cell} :
    e ∈ (busWrite s addr v).cached ↔
      if snooping s then e ∈ s.cached ∧ BitVec.ofNat 32 e.1 ≠ addr else e = (addr.toNat, readByte s addr) ∨ e ∈ s.cached := by
  rw [busWrite_ram h]
  split
  · rw [mem_forgetCached (by omega), mem_placesFrom]
    simp [writeBus, writeAs]
  · simp [writeBus, writeAs]

theorem busWrite_stale (s : State) (addr : Word) (v : Byte) : ∃ l, (busWrite s addr v).stale = l ++ s.stale ∧
    ∀ e ∈ l, e.phase = .pushedSynced ∧ e.addr = wordAlign addr := by
  by_cases h : s.isRam addr = true
  · rw [busWrite_ram h, apply_ite State.stale]
    refine ⟨_, ite_self _, fun e he => ?_⟩
    obtain ⟨-, rfl⟩ := mem_staleOf.mp he
    exact ⟨rfl, rfl⟩
  · exact ⟨[], by rw [busWrite_noRam h]; rfl, fun e he => absurd he List.not_mem_nil⟩

theorem snoopReservation_reads (s : State) (a : Word) : (snoopReservation s a).mem = s.mem ∧
    (snoopReservation s a).cached = s.cached ∧ (snoopReservation s a).stale = s.stale ∧
    (snoopReservation s a).teaUnrecognised = s.teaUnrecognised ∧ (snoopReservation s a).map = s.map := by
  rw [snoopReservation_rest]
  exact ⟨rfl, rfl, rfl, rfl, rfl⟩

/- Stores with writes of other masters between them (spec/20_memory.md R161). -/

/-- `t` is what stores of `bs` to `places` make of `s`, one after another, with the events `evs` of other masters between
them; `g` is what the events alone make of it. -/
structure Tracks (s g t : State) (evs : List BusEvent) (places : List Word) (bs : List Byte) : Prop where
  frame : StoppedStore g t
  map : t.map = s.map
  gapsWf : g.mem.wf = true
  wf : t.mem.wf = true
  length : places.length = bs.length
  others : ∀ a, a ∉ places ∨ s.isRam a = false → readByte t a = readByte g a
  stored : (∀ a v, BusEvent.write a v ∈ evs → a ∉ places) →
    ∀ p ∈ places.zip bs, s.isRam p.1 = true → readByte t p.1 = p.2
  kept : s.stale <:+ t.stale
  recorded : ∀ e ∈ t.stale, e ∈ s.stale ∨ (e.phase = .stored ∧ ∃ a ∈ places, e.addr = wordAlign a) ∨
    (e.phase = .pushedSynced ∧ ∃ a v, BusEvent.write a v ∈ evs ∧ e.addr = wordAlign a)
  copies : ∀ e : Host.Cell, BitVec.ofNat 32 e.1 ∉ places ∨ s.isRam (BitVec.ofNat 32 e.1) = false →
    (e ∈ t.cached ↔ e ∈ g.cached)
  settled : (∀ a v, BusEvent.write a v ∈ evs → a ∉ places) →
    ∀ e ∈ t.cached, s.isRam (BitVec.ofNat 32 e.1) = true → BitVec.ofNat 32 e.1 ∉ places
  tea : (s.teaUnrecognised = true → t.teaUnrecognised = true) ∧
    ((∀ a ∈ places, s.kindAt a ≠ some .absent) → t.teaUnrecognised = s.teaUnrecognised)

theorem Tracks.refl {s : State} (h : s.mem.wf = true) : Tracks s s s [] [] [] where
  frame := rfl
  map := rfl
  gapsWf := h
  wf := h
  length := rfl
  others _ _ := rfl
  stored _ _ hp := absurd hp List.not_mem_nil
  kept := List.suffix_refl _
  recorded _ he := .inl he
  copies _ _ := Iff.rfl
  settled _ _ _ _ := List.not_mem_nil
  tea := ⟨id, fun _ => rfl⟩

/-- The bytes of a store with their places. -/
theorem mem_zip_placesFrom {pa : Word} {n : Nat} {v : Word} {p : Word × Byte}
    (h : p ∈ (placesFrom pa n).zip (bytesBE n v)) :
    ∃ k < n, p = (pa + BitVec.ofNat 32 k, v.extractLsb' (8 * (n - 1 - k)) 8) := by
  rw [placesFrom, bytesBE, List.zip_map'] at h
  obtain ⟨k, hk, rfl⟩ := List.mem_map.mp h
  exact ⟨k, List.mem_range.mp hk, rfl⟩

/-- One more store, to places of its own. -/
theorem Tracks.write {s g t : State} {evs : List BusEvent} {places : List Word} {bs : List Byte}
    (h : Tracks s g t evs places bs) {pa : Word} {n : Nat} (v : Word) (hn : n ∣ 4) (hp : pa.toNat % n = 0)
    (hd : ∀ a ∈ places, a ∉ placesFrom pa n) :
    Tracks s g (writePhys t pa n v) evs (places ++ placesFrom pa n) (bs ++ bytesBE n v) := by
  have hn4 : n ≤ 4 := Nat.le_of_dvd (by omega) hn
  have hn0 : 0 < n := Nat.pos_of_ne_zero fun e => by simp [e] at hn
  have hpa : pa ∈ placesFrom pa n := mem_placesFrom.mpr ⟨0, hn0, by simp⟩
  have hram (a : Word) : t.isRam a = s.isRam a := isRam_congr h.map a
  have hother {a : Word} (ha : a ∉ placesFrom pa n) : readByte (writePhys t pa n v) a = readByte t a :=
    writePhys_readByte_other t pa a n v fun k hk e => ha (mem_placesFrom.mpr ⟨k, hk, e⟩)
  have hmap : (writePhys t pa n v).map = s.map := (writePhys_map ..).trans h.map
  obtain ⟨l, hl, hmem⟩ := writePhys_stale t pa n v
  refine ⟨h.frame.trans (writePhys_stopped ..), hmap, h.gapsWf, writePhys_wf t pa n v h.wf,
    by simp [h.length], fun a ha => ?_, fun hev p hmp hr => ?_, ?_, fun e he => ?_, fun e he => ?_,
    fun hev e he hr => ?_, fun htea => ?_, fun hkind => ?_⟩
  · by_cases hin : a ∈ placesFrom pa n
    · have hr : s.isRam a = false := ha.resolve_left fun hno => hno (List.mem_append_right _ hin)
      have hno : ¬ t.isRam pa = true := by
        rw [hram, ← isRam_placesFrom s hn hp hin, hr]
        exact Bool.false_ne_true
      rw [writePhys_noRam hno]
      exact h.others a (.inr hr)
    · rw [hother hin]
      exact h.others a (ha.imp_left fun hno hpl => hno (List.mem_append_left _ hpl))
  · rw [List.zip_append h.length] at hmp
    rcases List.mem_append.mp hmp with hold | hnew
    · have hpl : p.1 ∈ places := (List.of_mem_zip hold).1
      rw [hother (hd _ hpl)]
      exact h.stored (fun a v he hpa => hev a v he (List.mem_append_left _ hpa)) p hold hr
    · obtain ⟨k, hk, rfl⟩ := mem_zip_placesFrom hnew
      have hrpa : t.isRam pa = true := by
        rw [hram, ← isRam_placesFrom s hn hp (mem_placesFrom.mpr ⟨k, hk, rfl⟩)]
        exact hr
      exact writePhys_readByte_at t pa n v k hrpa h.wf (by omega) hk
  · rw [hl]
    exact h.kept.trans (List.suffix_append l t.stale)
  · rw [hl] at he
    rcases List.mem_append.mp he with hel | het
    · obtain ⟨-, rfl⟩ := (hmem e).mp hel
      exact .inr (.inl ⟨rfl, pa, List.mem_append_right _ hpa, rfl⟩)
    · exact (h.recorded e het).imp_right (.imp_left fun ⟨hph, a, ha, hea⟩ => ⟨hph, a, List.mem_append_left _ ha, hea⟩)
  · have hkeep : t.isRam pa = true → BitVec.ofNat 32 e.1 ∉ placesFrom pa n := fun hrpa hin => by
      rcases he with hno | hr
      · exact hno (List.mem_append_right _ hin)
      · rw [isRam_placesFrom s hn hp hin, ← hram, hrpa] at hr
        cases hr
    rw [mem_writePhys_cached (by omega), and_iff_left hkeep]
    exact h.copies e (he.imp_left fun hno hpl => hno (List.mem_append_left _ hpl))
  · obtain ⟨het, hkeep⟩ := (mem_writePhys_cached (by omega) v).mp he
    rw [List.mem_append, not_or]
    refine ⟨h.settled (fun a v hae hpa => hev a v hae (List.mem_append_left _ hpa)) e het hr, fun hin => hkeep ?_ hin⟩
    rw [hram, ← isRam_placesFrom s hn hp hin]
    exact hr
  · have := h.tea.1 htea
    rw [writePhys_tea, this]
    simp
  · have hquiet : t.answersTea pa = false :=
      answersTea_of_kind (by rw [kindAt_congr h.map]; exact hkind pa (List.mem_append_right _ hpa))
    rw [writePhys_tea, hquiet, Bool.or_false, ite_self]
    exact h.tea.2 fun a ha => hkind a (List.mem_append_left _ ha)

/-- More events only weaken what is said of them. -/
theorem Tracks.mono {s g t : State} {evs evs' : List BusEvent} {places : List Word} {bs : List Byte}
    (h : Tracks s g t evs places bs) (hsub : evs ⊆ evs') : Tracks s g t evs' places bs :=
  { h with
    stored := fun hev => h.stored fun a v he => hev a v (hsub he)
    recorded := fun e he => (h.recorded e he).imp_right (.imp_right fun ⟨hph, a, v, hae, hea⟩ => ⟨hph, a, v, hsub hae, hea⟩)
    settled := fun hev => h.settled fun a v he => hev a v (hsub he) }

/-- What is tracked does not depend on the reservation, the gaps to come and a TEA to come. -/
theorem Tracks.congr {s g t g' t' : State} {evs : List BusEvent} {places : List Word} {bs : List Byte}
    (h : Tracks s g t evs places bs) (hf : StoppedStore g' t') (hg : g'.mem = g.mem ∧ g'.cached = g.cached)
    (ht : t'.mem = t.mem ∧ t'.cached = t.cached ∧ t'.stale = t.stale ∧ t'.teaUnrecognised = t.teaUnrecognised ∧
      t'.map = t.map) : Tracks s g' t' evs places bs := by
  obtain ⟨hgm, hgc⟩ := hg
  obtain ⟨htm, htc, hts, htu, hmap⟩ := ht
  refine ⟨hf, hmap.trans h.map, by rw [hgm]; exact h.gapsWf, by rw [htm]; exact h.wf, h.length, fun a ha => ?_,
    fun hev p hp hr => ?_, by rw [hts]; exact h.kept, by rw [hts]; exact h.recorded, by rw [hgc, htc]; exact h.copies,
    by rw [htc]; exact h.settled, by rw [htu]; exact h.tea⟩
  · rw [readByte_congr htm, readByte_congr hgm]
    exact h.others a ha
  · rw [readByte_congr htm]
    exact h.stored hev p hp hr

theorem snoopReservation_tracks {s g t : State} {evs : List BusEvent} {places : List Word} {bs : List Byte}
    (h : Tracks s g t evs places bs) (a : Word) :
    Tracks s (snoopReservation g a) (snoopReservation t a) evs places bs := by
  obtain ⟨hgm, hgc, -⟩ := snoopReservation_reads g a
  exact h.congr (h.frame.snoopReservation a) ⟨hgm, hgc⟩ (snoopReservation_reads t a)

theorem busWrite_wf {s : State} (h : s.mem.wf = true) (a : Word) (v : Byte) : (busWrite s a v).mem.wf = true := by
  rw [← (snoopReservation_reads (busWrite s a v) a).1]
  exact applyBus_wf s (.write a v) h

theorem busWrite_tea (s : State) (a : Word) (v : Byte) : (busWrite s a v).teaUnrecognised = s.teaUnrecognised := by
  by_cases h : s.isRam a = true
  · rw [busWrite_ram h]
    split <;> rfl
  · rw [busWrite_noRam h]

/-- One more write of another master. -/
theorem Tracks.busWrite {s g t : State} {evs : List BusEvent} {places : List Word} {bs : List Byte}
    (h : Tracks s g t evs places bs) (addr : Word) (v : Byte) (hev : BusEvent.write addr v ∈ evs) :
    Tracks s (Machine.busWrite g addr v) (Machine.busWrite t addr v) evs places bs := by
  have hgmap : g.map = t.map := by rw [h.frame]
  have hram (a : Word) : t.isRam a = s.isRam a := isRam_congr h.map a
  have hgram (a : Word) : g.isRam a = t.isRam a := isRam_congr hgmap a
  have hsnoop : snooping g = snooping t := by rw [h.frame]; rfl
  have hread (a : Word) := busWrite_readByte h.wf addr a v
  have hgread (a : Word) := busWrite_readByte h.gapsWf addr a v
  have hmap : (Machine.busWrite t addr v).map = t.map := by rw [busWrite_stopped t addr v]
  obtain ⟨l, hl, hrec⟩ := busWrite_stale t addr v
  refine ⟨((busWrite_stopped g addr v).symm.trans h.frame).trans (busWrite_stopped t addr v), hmap.trans h.map,
    busWrite_wf h.gapsWf addr v, busWrite_wf h.wf addr v, h.length, fun a ha => ?_, fun hno p hp hr => ?_, ?_,
    fun e he => ?_, fun e he => ?_, fun hno e he hr => ?_, by rw [busWrite_tea]; exact h.tea⟩
  · rw [hread, hgread, hgram, h.others a ha]
  · have hne : p.1 ≠ addr := fun e => hno addr v hev (e ▸ (List.of_mem_zip hp).1)
    rw [hread, if_neg fun hc => hne hc.2]
    exact h.stored hno p hp hr
  · rw [hl]
    exact h.kept.trans (List.suffix_append l t.stale)
  · rw [hl] at he
    rcases List.mem_append.mp he with hel | het
    · obtain ⟨hph, hea⟩ := hrec e hel
      exact .inr (.inr ⟨hph, addr, v, hev, hea⟩)
    · exact h.recorded e het
  · by_cases hr : t.isRam addr = true
    · rw [mem_busWrite_cached hr, mem_busWrite_cached ((hgram addr).trans hr), hsnoop, h.copies e he]
      split
      · exact Iff.rfl
      · have hsame (h1 : e.1 = addr.toNat) : readByte t addr = readByte g addr := by
          rw [h1, BitVec.ofNat_toNat, BitVec.setWidth_eq] at he
          exact h.others addr he
        exact or_congr_left ⟨fun h1 => h1.trans (by rw [hsame (by rw [h1])]), fun h1 => h1.trans (by rw [hsame (by rw [h1])])⟩
    · rw [busWrite_noRam hr, busWrite_noRam (by rwa [hgram])]
      exact h.copies e he
  · by_cases hrt : t.isRam addr = true
    · rw [mem_busWrite_cached hrt] at he
      split at he
      · exact h.settled hno e he.1 hr
      · rcases he with rfl | he
        · rw [BitVec.ofNat_toNat, BitVec.setWidth_eq]
          exact hno addr v hev
        · exact h.settled hno e he hr
    · rw [busWrite_noRam hrt] at he
      exact h.settled hno e he hr

/-- One more event of another master. -/
theorem Tracks.event {s g t : State} {evs : List BusEvent} {places : List Word} {bs : List Byte}
    (h : Tracks s g t evs places bs) (e : BusEvent) :
    Tracks s (applyBus g e) (applyBus t e) (evs ++ [e]) places bs := by
  have hm := h.mono (List.subset_append_left evs [e])
  cases e with
  | teaLoad => exact hm.congr (h.frame.applyBus .teaLoad) ⟨rfl, rfl⟩ ⟨rfl, rfl, rfl, rfl, rfl⟩
  | claim a => exact snoopReservation_tracks hm a
  | write a v => exact snoopReservation_tracks (hm.busWrite a v (by simp)) a

/-- One more gap. -/
theorem Tracks.between {s g t : State} {evs : List BusEvent} {places : List Word} {bs : List Byte}
    (h : Tracks s g t evs places bs) :
    Tracks s (Machine.between g) (Machine.between t) (evs ++ g.amid.headD []) places bs := by
  have hfold (es : List BusEvent) : ∀ evs g t, Tracks s g t evs places bs →
      Tracks s (es.foldl applyBus g) (es.foldl applyBus t) (evs ++ es) places bs := by
    induction es with
    | nil => exact fun evs g t h => by simpa using h
    | cons e rest ih =>
      intro evs g t h
      simpa using ih _ _ _ (h.event e)
  have hamid : t.amid = g.amid := by rw [h.frame]
  unfold Machine.between
  rw [hamid]
  refine hfold _ _ _ _ (h.congr ?_ ⟨rfl, rfl⟩ ⟨rfl, rfl, rfl, rfl, rfl⟩)
  have := h.frame
  unfold StoppedStore at this ⊢
  rw [this]

/-- The events of the first `m` gaps. -/
def gapEvents (s : State) (m : Nat) : List BusEvent := (s.amid.take m).flatten

theorem gapEvents_succ (s : State) (m : Nat) :
    gapEvents s (m + 1) = gapEvents s m ++ (gaps s m).amid.headD [] := by
  obtain ⟨_, _, _, _, _, h⟩ := gaps_frame s m
  have hamid : (gaps s m).amid = s.amid.drop m := by rw [h]
  rw [gapEvents, gapEvents, hamid, List.take_add_one, List.flatten_append, List.headD_eq_head?_getD, List.head?_drop]
  cases s.amid[m]? <;> simp

theorem gaps_succ (s : State) (m : Nat) : gaps s (m + 1) = between (gaps s m) := by
  induction m generalizing s with
  | zero => rfl
  | succ m ih => exact ih (between s)

/-- Stores so far, `m` gaps passed. -/
def StoresSo (s : State) (m : Nat) (places : List Word) (bs : List Byte) (t : State) : Prop :=
  Tracks s (gaps s m) t (gapEvents s m) places bs

theorem StoresSo.between {s t : State} {m : Nat} {places : List Word} {bs : List Byte} (h : StoresSo s m places bs t) :
    StoresSo s (m + 1) places bs (Machine.between t) := by
  unfold StoresSo
  rw [gaps_succ, gapEvents_succ]
  exact Tracks.between h

/-- What the stores and the gaps between them leave. -/
theorem StoresSo.effect {s t : State} {m : Nat} {places : List Word} {bs : List Byte} (h : StoresSo s m places bs t)
    (hrep : m = 0 → ∀ a ∈ places, readWordAt t a ≠ readWordAt s a →
      ∃ e ∈ t.stale, e.addr = wordAlign a ∧ e.old = readWordAt s a ∧ e.phase = .stored) :
    StoreEffect s m places bs t := by
  have hev (hu : Undisturbed s m places) : ∀ a v, BusEvent.write a v ∈ gapEvents s m → a ∉ places := fun a v he => by
    obtain ⟨es, hes, hin⟩ := List.mem_flatten.mp he
    exact hu es hes a v hin
  refine ⟨h.others, fun hu k hk hr => ?_, h.kept, fun e he => ?_, hrep, h.copies, fun hu => h.settled (hev hu), h.tea⟩
  · have hkb : k < bs.length := h.length ▸ hk
    exact h.stored (hev hu) (places.getD k 0, bs.getD k 0)
      (List.mem_iff_getElem.mpr ⟨k, by simp [hk, hkb], by simp [hk, hkb]⟩) hr
  · exact (h.recorded e he).imp_right (.imp_right fun ⟨hph, a, v, hin, hea⟩ => by
      obtain ⟨es, hes, hin⟩ := List.mem_flatten.mp hin
      exact ⟨hph, es, hes, a, v, hin, hea⟩)

/- The store of one operand (spec/20_memory.md R150, R156). -/

theorem batAddress_low (upper lower ea : Word) : (batAddress upper lower ea).toNat % 2 ^ 12 = ea.toNat % 2 ^ 12 := by
  have hlow : ∀ i < 32, (0x0001FFFF : Word).getLsbD i = decide (i < 17) := by decide
  apply Nat.eq_of_testBit_eq
  intro i
  rw [Nat.testBit_mod_two_pow, Nat.testBit_mod_two_pow]
  by_cases h : i < 12
  · have hi : i < 32 := by omega
    have hbit : (batAddress upper lower ea).getLsbD i = ea.getLsbD i := by
      simp only [batAddress_eq, BitVec.getLsbD_or, BitVec.getLsbD_and, batMask_getLsbD upper hi,
        blockNumberMask_getLsbD hi, hlow i hi]
      simp [show ¬ 17 ≤ i by omega, show i < 17 by omega]
    exact congrArg (decide (i < 12) && ·) hbit
  · simp [h]

theorem pageAddress_low (pte ea : Word) : (pageAddress pte ea).toNat % 2 ^ 12 = ea.toNat % 2 ^ 12 := by
  rw [pageAddress_eq, BitVec.toNat_ofNat]
  omega

/-- Translation keeps the place in a page. -/
theorem dataMapping_low {s : State} {ea : Word} {store : Bool} {m : Mapping} (h : dataMapping s ea store = .ok m) :
    m.pa.toNat % 2 ^ 12 = ea.toNat % 2 ^ 12 := by
  unfold dataMapping at h
  split at h
  · cases Except.ok.inj h
    rfl
  · dsimp only at h
    split at h
    · cases Except.ok.inj h
      exact batAddress_low ..
    · cases h
    · unfold regionMapping pageMapping at h
      split at h
      · dsimp only at h
        split at h
        · cases h
        · cases Except.ok.inj h
          rfl
      · dsimp only at h
        split at h
        · cases h
        · split at h
          · cases h
          · cases Except.ok.inj h
            exact pageAddress_low ..

theorem translateData_low {s : State} {ea pa : Word} {store : Bool} (h : translateData s ea store = .ok pa) :
    pa.toNat % 2 ^ 12 = ea.toNat % 2 ^ 12 := by
  obtain ⟨m, hm, rfl, -, -⟩ := translateData_ok h
  exact dataMapping_low hm

theorem translateData_aligned {s : State} {ea pa : Word} {store : Bool} {n : Nat} (h : translateData s ea store = .ok pa)
    (hn : n ∣ 2 ^ 12) (ha : ea.toNat % n = 0) : pa.toNat % n = 0 := by
  rw [← Nat.mod_mod_of_dvd _ hn, translateData_low h, Nat.mod_mod_of_dvd _ hn, ha]

theorem placesFrom_one (pa : Word) : placesFrom pa 1 = [pa] := by simp [placesFrom]

/-- The first store of an aligned operand, and what it replaces. -/
theorem StoresSo.first {s : State} (hm : s.mem.wf = true) {pa : Word} {n : Nat} (v : Word) (hn : n ∣ 4)
    (hp : pa.toNat % n = 0) : StoresSo s 0 (placesFrom pa n) (bytesBE n v) (writePhys s pa n v) :=
  (Tracks.refl hm).write v hn hp fun _ ha => absurd ha List.not_mem_nil

theorem writePhys_replaced (s : State) {pa : Word} {n : Nat} (v : Word) (hn : n ∣ 4) (hp : pa.toNat % n = 0) {a : Word}
    (ha : a ∈ placesFrom pa n) (hne : readWordAt (writePhys s pa n v) a ≠ readWordAt s a) :
    ∃ e ∈ (writePhys s pa n v).stale, e.addr = wordAlign a ∧ e.old = readWordAt s a ∧ e.phase = .stored := by
  have hword : wordAlign a = wordAlign pa := wordAlign_eq_iff.mpr (sameWord_of_mem_placesFrom hn hp ha)
  have hread (t : State) : readWordAt t a = readWordAt t pa := by rw [readWordAt, readWordAt, hword]
  obtain ⟨l, hl, hmem⟩ := writePhys_stale s pa n v
  rw [hread, hread] at hne
  refine ⟨{ addr := wordAlign pa, old := readWordAt s pa, phase := .stored }, ?_, hword.symm, (hread s).symm, rfl⟩
  rw [hl]
  exact List.mem_append_left _ ((hmem _).mpr ⟨hne, rfl⟩)

/-- An aligned store. -/
theorem writePhys_effect {s : State} (hm : s.mem.wf = true) {pa : Word} {n : Nat} (v : Word) (hn : n ∣ 4)
    (hp : pa.toNat % n = 0) : StoreEffect s 0 (placesFrom pa n) (bytesBE n v) (writePhys s pa n v) :=
  (StoresSo.first hm v hn hp).effect fun _ _ ha hne => writePhys_replaced s v hn hp ha hne

theorem StoresSo.translateData {s t : State} {m : Nat} {places : List Word} {bs : List Byte}
    (h : StoresSo s m places bs t) (ea : Word) (store : Bool) :
    Machine.translateData t ea store = Machine.translateData s ea store := by
  rw [← (gaps_memorySide s m).translateData ea store, Tracks.frame h]
  rfl

/-- The places of the first bytes of an operand: each where its own byte is in a page. -/
def InPlace (ea : Word) (places : List Word) : Prop :=
  ∀ a ∈ places, ∃ j < places.length, a.toNat % 2 ^ 12 = (ea.toNat + j) % 2 ^ 12

theorem inPlace_nil (ea : Word) : InPlace ea [] := fun _ h => absurd h List.not_mem_nil

theorem offset_low (ea : Word) (j : Nat) : (ea + BitVec.ofNat 32 j).toNat % 2 ^ 12 = (ea.toNat + j) % 2 ^ 12 := by
  rw [BitVec.toNat_add, BitVec.toNat_ofNat]
  omega

/-- One more byte. -/
theorem StoresSo.byte {s u : State} {m : Nat} {places : List Word} {bs : List Byte} {ea pa : Word}
    (h : StoresSo s m places bs u) (hin : InPlace ea places) (hlen : places.length < 2 ^ 12)
    (hpa : Machine.translateData s (ea + BitVec.ofNat 32 places.length) true = .ok pa) (b : Byte) :
    StoresSo s m (places ++ [pa]) (bs ++ [b]) (writePhys u pa 1 (b.setWidth 32)) ∧ InPlace ea (places ++ [pa]) := by
  have hlow := (translateData_low hpa).trans (offset_low ea places.length)
  have hnew : pa ∉ places := fun hc => by
    obtain ⟨j, hj, he⟩ := hin pa hc
    rw [hlow] at he
    omega
  constructor
  · have hw := Tracks.write h (pa := pa) (n := 1) (b.setWidth 32) (Nat.one_dvd 4) (Nat.mod_one _) fun a ha hc => by
      rw [placesFrom_one, List.mem_singleton] at hc
      exact hnew (hc ▸ ha)
    rwa [placesFrom_one, bytesBE_one] at hw
  · intro a ha
    rw [List.length_append]
    rcases List.mem_append.mp ha with hold | hone
    · obtain ⟨j, hj, he⟩ := hin a hold
      exact ⟨j, Nat.lt_succ_of_lt hj, he⟩
    · rw [List.mem_singleton.mp hone]
      exact ⟨places.length, Nat.lt_succ_self _, hlow⟩

theorem storeBytes_last {u : State} {ea pa : Word} (h : translateData u ea true = .ok pa) (b : Byte) :
    storeBytes u ea [b] = .ok (writePhys u pa 1 (b.setWidth 32)) := by
  simp [storeBytes, h]

theorem storeBytes_next {u : State} {ea pa : Word} (h : translateData u ea true = .ok pa) (b b' : Byte) (rest : List Byte) :
    storeBytes u ea (b :: b' :: rest) = storeBytes (between (writePhys u pa 1 (b.setWidth 32))) (ea + 1) (b' :: rest) := by
  rw [storeBytes, h]
  rfl

theorem storeBytes_stop {u : State} {ea : Word} {e : AccessStop} (h : translateData u ea true = .error e) (b : Byte)
    (rest : List Byte) : storeBytes u ea (b :: rest) = .error (e, u) := by
  rw [storeBytes, h]

theorem add_ofNat_succ (ea : Word) (m : Nat) : ea + BitVec.ofNat 32 (m + 1) = ea + BitVec.ofNat 32 m + 1 := by
  rw [BitVec.ofNat_add, ← BitVec.add_assoc]
  rfl

/-- The bytes of a misaligned store, from one whose earlier ones are stored. -/
theorem storeBytes_completes {s : State} {ea : Word} (rest : List Byte) {u : State} {m : Nat} {places ps : List Word}
    {bs : List Byte} (b : Byte) (h : StoresSo s m places bs u) (hin : InPlace ea places) (hm : places.length = m)
    (hlen : m + rest.length < 2 ^ 12)
    (hps : List.Forall₂ (fun k pa => translateData s (ea + BitVec.ofNat 32 (m + k)) true = .ok pa)
      (List.range (rest.length + 1)) ps) :
    ∃ t, storeBytes u (ea + BitVec.ofNat 32 m) (b :: rest) = .ok t ∧
      StoresSo s (m + rest.length) (places ++ ps) (bs ++ b :: rest) t := by
  induction rest generalizing u m places ps bs b with
  | nil =>
    obtain ⟨pa, ps', rfl, hpa, hrest⟩ := forall_range_succ hps
    rw [List.forall₂_nil_left_iff.mp hrest]
    obtain ⟨hbyte, -⟩ := h.byte hin (by omega) (hm ▸ hpa) b
    exact ⟨_, storeBytes_last ((h.translateData ..).trans hpa) b, hbyte⟩
  | cons b' rest ih =>
    obtain ⟨pa, ps', rfl, hpa, hrest⟩ := forall_range_succ hps
    obtain ⟨hbyte, hin'⟩ := h.byte hin (by simp at hlen; omega) (hm ▸ hpa) b
    obtain ⟨t, ht, hso⟩ := ih b' hbyte.between hin' (by simp [hm]) (by simp at hlen; omega)
      (hrest.imp fun k pa hk => by rwa [show m + 1 + k = m + (k + 1) by omega])
    refine ⟨t, (storeBytes_next ((h.translateData ..).trans hpa) b b' rest).trans ((add_ofNat_succ ea m).symm ▸ ht), ?_⟩
    rw [List.append_assoc, List.append_assoc] at hso
    rwa [List.length_cons, show m + (rest.length + 1) = m + 1 + rest.length by omega]

/-- A misaligned store that stops leaves the bytes before the stop stored. -/
theorem storeBytes_stops {s : State} {ea : Word} {e : AccessStop} {k : Nat} {rest : List Byte} {u : State} {m : Nat}
    {places ps : List Word} {bs : List Byte} (h : StoresSo s m places bs u) (hin : InPlace ea places)
    (hm : places.length = m) (hlen : m + rest.length < 2 ^ 12) (hk : k < rest.length)
    (hps : List.Forall₂ (fun k pa => translateData s (ea + BitVec.ofNat 32 (m + k)) true = .ok pa) (List.range k) ps)
    (he : translateData s (ea + BitVec.ofNat 32 (m + k)) true = .error e) :
    ∃ t, storeBytes u (ea + BitVec.ofNat 32 m) rest = .error (e, t) ∧
      StoresSo s (m + k) (places ++ ps) (bs ++ rest.take k) t := by
  induction k generalizing u m places ps bs rest with
  | zero =>
    obtain ⟨b, rest, rfl⟩ : ∃ b r, rest = b :: r := List.exists_cons_of_length_pos hk
    rw [List.forall₂_nil_left_iff.mp hps]
    exact ⟨u, storeBytes_stop ((h.translateData ..).trans he) b rest, by simpa using h⟩
  | succ k ih =>
    obtain ⟨b, b', rest, rfl⟩ : ∃ b b' r, rest = b :: b' :: r := by
      match rest, hk with
      | b :: b' :: r, _ => exact ⟨b, b', r, rfl⟩
    obtain ⟨pa, ps', rfl, hpa, hrest⟩ := forall_range_succ hps
    obtain ⟨hbyte, hin'⟩ := h.byte hin (by simp at hlen; omega) (hm ▸ hpa) b
    have hsucc (j : Nat) : m + 1 + j = m + (j + 1) := by omega
    obtain ⟨t, ht, hso⟩ := ih (rest := b' :: rest) hbyte.between hin' (by simp [hm]) (by simp at hlen ⊢; omega) (by simpa using hk)
      (hrest.imp fun j pa hj => by rwa [hsucc]) (by rwa [hsucc])
    refine ⟨t, (storeBytes_next ((h.translateData ..).trans hpa) b b' rest).trans ((add_ofNat_succ ea m).symm ▸ ht), ?_⟩
    rw [List.append_assoc, List.append_assoc, hsucc] at hso
    exact hso

/-- Stores of bytes and the gaps between them change memory and what follows it only. -/
theorem StoresSo.stopped {s t : State} {m : Nat} {places : List Word} {bs : List Byte} (h : StoresSo s m places bs t) :
    StoppedStore (gaps s m) t := Tracks.frame h

theorem bytesBE_cons {n : Nat} (hn : 0 < n) (v : Word) : ∃ b rest, bytesBE n v = b :: rest ∧ rest.length = n - 1 := by
  obtain ⟨b, rest, h⟩ := List.exists_cons_of_length_pos (l := bytesBE n v) (by rwa [bytesBE_length])
  refine ⟨b, rest, h, ?_⟩
  have := bytesBE_length n v
  rw [h, List.length_cons] at this
  omega

theorem storeData_misaligned {s : State} {ea : Word} {n : Nat} (v : Word) (ha : ¬ ea.toNat % n = 0) :
    storeData s ea n v = storeBytes s (ea + BitVec.ofNat 32 0) (bytesBE n v) := by
  rw [storeData, if_neg (by simp [not_isAligned ha]), show ea + BitVec.ofNat 32 0 = ea from BitVec.add_zero ea]

/-- A store whose parts all translate. -/
theorem storeData_completes {s : State} {ea : Word} {n : Nat} (v : Word) {places : List Word} (hm : s.mem.wf = true)
    (hn : n ∣ 4) (hp : Places s ea n true places) :
    ∃ t, storeData s ea n v = .ok t ∧ StoreEffect s (lastPart ea n) places (bytesBE n v) t ∧
      StoppedStore (gaps s (lastPart ea n)) t := by
  have hn4 : n ≤ 4 := Nat.le_of_dvd (by omega) hn
  have hn0 : 0 < n := Nat.pos_of_dvd_of_pos hn (by omega)
  unfold Places at hp
  by_cases ha : ea.toNat % n = 0
  · rw [if_pos ha] at hp
    obtain ⟨pa, hpa, rfl⟩ := hp
    have hal := translateData_aligned hpa (hn.trans (by norm_num)) ha
    simp only [lastPart, ha, if_true]
    exact ⟨_, storeData_aligned ha hpa, writePhys_effect hm v hn hal, writePhys_stopped ..⟩
  · rw [if_neg ha] at hp
    obtain ⟨b, rest, hbs, hlen⟩ := bytesBE_cons hn0 v
    have hstart : StoresSo s 0 [] [] s := Tracks.refl hm
    obtain ⟨t, ht, hso⟩ := storeBytes_completes (ea := ea) (ps := places) rest b hstart (inPlace_nil ea) rfl (by omega) (by simpa [show rest.length + 1 = n by omega] using hp)
    simp only [lastPart, ha, if_false, hbs]
    rw [Nat.zero_add, hlen] at hso
    have hpos : n - 1 ≠ 0 := fun e => ha (by rw [show n = 1 by omega, Nat.mod_one])
    exact ⟨t, (storeData_misaligned v ha).trans (hbs ▸ ht), hso.effect fun e => absurd e hpos, hso.stopped⟩

/-- A store of which part `k` is the first that does not translate. -/
theorem storeData_stops {s : State} {ea : Word} {n k : Nat} {e : AccessStop} (v : Word) {places : List Word}
    (hm : s.mem.wf = true) (hn : n ∣ 4) (hk : k < n) (ha : ea.toNat % n = 0 → k = 0)
    (hp : List.Forall₂ (fun j pa => translateData s (ea + BitVec.ofNat 32 j) true = .ok pa) (List.range k) places)
    (he : translateData s (ea + BitVec.ofNat 32 k) true = .error e) :
    ∃ t, storeData s ea n v = .error (e, t) ∧ StoreEffect s k places ((bytesBE n v).take k) t ∧
      StoppedStore (gaps s k) t ∧ (k = 0 → t = s) := by
  have hn4 : n ≤ 4 := Nat.le_of_dvd (by omega) hn
  have hstart : StoresSo s 0 [] [] s := Tracks.refl hm
  by_cases h0 : k = 0
  · subst h0
    have hea : translateData s ea true = .error e := by simpa using he
    rw [List.forall₂_nil_left_iff.mp hp]
    refine ⟨s, ?_, hstart.effect fun _ a h => absurd h List.not_mem_nil, rfl, fun _ => rfl⟩
    by_cases h : ea.toNat % n = 0
    · simp [storeData, (isAligned_iff ea n).mpr h, hea]
    · obtain ⟨b, rest, hbs, -⟩ := bytesBE_cons (Nat.zero_lt_of_lt hk) v
      rw [storeData_misaligned v h, hbs, storeBytes_stop he]
  · have h : ¬ ea.toNat % n = 0 := fun h => h0 (ha h)
    obtain ⟨t, ht, hso⟩ := storeBytes_stops (ea := ea) (k := k) (rest := bytesBE n v) (ps := places) hstart (inPlace_nil ea) rfl
      (by rw [bytesBE_length]; omega) (by rwa [bytesBE_length]) (by simpa using hp) (by simpa using he)
    rw [Nat.zero_add] at hso
    exact ⟨t, (storeData_misaligned v h).trans ht, hso.effect fun e => absurd e h0, hso.stopped, fun e => absurd e h0⟩

/- The bytes of the store forms (spec/43_load_store.md R498 to R513). -/

theorem bigEndianBytes_eq (n : Nat) (v : Word) : bigEndianBytes n v.toNat = bytesBE n v := by
  unfold bigEndianBytes bytesBE
  refine List.map_congr_left fun k _ => ?_
  apply BitVec.eq_of_toNat_eq
  rw [BitVec.toNat_ofNat, BitVec.extractLsb'_toNat, Nat.shiftRight_eq_div_pow, Nat.pow_mul]

theorem bytesBE_reverseHalf (v : Word) : bytesBE 2 (reverseHalf v) = (bytesBE 2 v).reverse := by
  have h := (v.extractLsb' 8 8).isLt
  have hnum : (reverseHalf v).toNat = (v.extractLsb' 0 8).toNat * 2 ^ 8 + (v.extractLsb' 8 8).toNat := by
    simp only [reverseHalf, toNat_append_add, show (0 : BitVec 16).toNat = 0 from rfl]
    omega
  have hlow : (reverseHalf v).extractLsb' 0 8 = v.extractLsb' 8 8 := by
    apply BitVec.eq_of_toNat_eq
    rw [BitVec.extractLsb'_toNat, hnum, Nat.shiftRight_eq_div_pow]
    omega
  have hhigh : (reverseHalf v).extractLsb' 8 8 = v.extractLsb' 0 8 := by
    apply BitVec.eq_of_toNat_eq
    rw [BitVec.extractLsb'_toNat, hnum, Nat.shiftRight_eq_div_pow]
    omega
  simp [bytesBE, List.range_succ, hlow, hhigh]

theorem bytesBE_reverseBytes (v : Word) : bytesBE 4 (reverseBytes v) = (bytesBE 4 v).reverse := by
  have hnum : (reverseBytes v).toNat = (((v.extractLsb' 0 8).toNat * 2 ^ 8 + (v.extractLsb' 8 8).toNat) * 2 ^ 8 +
      (v.extractLsb' 16 8).toNat) * 2 ^ 8 + (v.extractLsb' 24 8).toNat := by
    simp only [reverseBytes, toNat_append_add]
  have hbyte (j : Nat) (hj : j < 4) : (reverseBytes v).extractLsb' (8 * j) 8 = v.extractLsb' (8 * (3 - j)) 8 := by
    have h0 := (v.extractLsb' 0 8).isLt
    have h1 := (v.extractLsb' 8 8).isLt
    have h2 := (v.extractLsb' 16 8).isLt
    have h3 := (v.extractLsb' 24 8).isLt
    apply BitVec.eq_of_toNat_eq
    rw [BitVec.extractLsb'_toNat, hnum, Nat.shiftRight_eq_div_pow]
    interval_cases j <;> simp only [Nat.mul_zero, Nat.mul_one, Nat.sub_zero, Nat.reduceMul, Nat.reduceSub] <;> omega
  have hlast : (reverseBytes v).extractLsb' 0 8 = v.extractLsb' 24 8 := hbyte 0 (by omega)
  simp [bytesBE, List.range_succ, hlast, hbyte 1, hbyte 2, hbyte 3]

/- What a store instruction leaves (R480). -/

/-- What a store leaves of memory is so in every state with the same memory. -/
theorem StoreEffect.congr {s t t' : State} {m : Nat} {places : List Word} {bs : List Byte}
    (h : StoreEffect s m places bs t) (hm : t'.mem = t.mem) (hs : t'.stale = t.stale) (hc : t'.cached = t.cached)
    (hu : t'.teaUnrecognised = t.teaUnrecognised) : StoreEffect s m places bs t' := by
  have hb (a : Word) : readByte t' a = readByte t a := readByte_congr hm a
  have hw (a : Word) : readWordAt t' a = readWordAt t a := by simp only [readWordAt, readPhys, hb]
  refine ⟨fun a ha => (hb a).trans (h.others a ha), fun hun k hk hr => (hb _).trans (h.stored hun k hk hr),
    by rw [hs]; exact h.kept, by rw [hs]; exact h.recorded, ?_, by rw [hc]; exact h.copies, by rw [hc]; exact h.settled,
    by rw [hu]; exact h.tea⟩
  intro h0 a ha hne
  rw [hw] at hne
  rw [hs]
  exact h.replaced h0 a ha hne

/-- The end of a store. -/
theorem onlyStore_of_update {u t : State} {base : Option Reg} (h : StoppedStore u t) (ea : Word)
    (hu : u.gprsUsable base.toList = true) :
    OnlyStore base ea u { updateBase t base ea with cia := (updateBase t base ea).cia + 4 } := by
  have hgpr : t.gpr = u.gpr ∧ t.tgpr = u.tgpr ∧ t.msr = u.msr := by
    rw [h]
    exact ⟨rfl, rfl, rfl⟩
  obtain ⟨hgpr, htgpr, hmsr⟩ := hgpr
  have hbank : SameBank u t := by
    unfold SameBank
    split
    · exact hgpr
    · exact htgpr
  refine ⟨fun rA hA => updateBase_base ea hA, fun r hb => ?_, ?_, ?_⟩
  · exact (updateBase_other ea hb).trans (readGpr_of_eq hgpr htgpr hmsr r)
  · exact updateBase_sameBank ea hbank hmsr ((gprsUsable_congr hmsr _).trans hu)
  · rw [updateBase_rest, h]

/-- What an integer store does: the bytes stored, or those before its first part that does not translate. -/
def StoresAs (o : Out) (s : State) (n : Nat) (ea : Word) (base : Option Reg) (bytes : List Byte) : Prop :=
  (∀ places, Places s ea n true places →
    ∃ t, o = .next t ∧ StoreEffect s (lastPart ea n) places bytes t ∧
      OnlyStore base ea (gaps s (lastPart ea n)) t) ∧
  ∀ k e places, k < n → (ea.toNat % n = 0 → k = 0) →
    List.Forall₂ (fun j pa => translateData s (ea + BitVec.ofNat 32 j) true = .ok pa) (List.range k) places →
    translateData s (ea + BitVec.ofNat 32 k) true = .error e →
    ∃ t, o = e.outcome t ∧ StoreEffect s k places (bytes.take k) t ∧ StoppedStore (gaps s k) t ∧ (k = 0 → t = s)

/-- An integer store past its guards. -/
theorem storeInt_eq {s : State} {named : List Reg} (hu : s.gprsUsable named = true) (hle : s.leView = false) (w ea : Word)
    (n : Nat) (v : Word) (base : Option Reg) :
    storeInt s w named ea n v base = proceed (tryStore s ea n v) fun t => advance (updateBase t base ea) := by
  rw [storeInt, withGprs_of_usable hu, guardBigEndian_big hle]

theorem storeInt_stores {s : State} {named : List Reg} {base : Option Reg} {n : Nat} {v : Word} {bytes : List Byte}
    (w ea : Word) (hle : s.leView = false) (hm : s.mem.wf = true) (hn : n ∣ 4) (hu : s.gprsUsable named = true)
    (hsub : base.toList ⊆ named) (hbytes : bytesBE n v = bytes) :
    StoresAs (storeInt s w named ea n v base) s n ea base bytes := by
  rw [storeInt_eq hu hle, ← hbytes]
  refine ⟨fun places hp => ?_, fun k e places hk ha hp he => ?_⟩
  · obtain ⟨t, hstore, heff, hstop⟩ := storeData_completes v hm hn hp
    refine ⟨_, by rw [tryStore, hstore]; rfl, heff.congr ?_ ?_ ?_ ?_, onlyStore_of_update hstop ea ?_⟩
    · rw [updateBase_rest]
    · rw [updateBase_rest]
    · rw [updateBase_rest]
    · rw [updateBase_rest]
    · exact (gprsUsable_congr (gaps_msr ..) _).trans (gprsUsable_mono hu hsub)
  · obtain ⟨t, hstore, heff, hstop, h0⟩ := storeData_stops v hm hn hk ha hp he
    exact ⟨t, by rw [tryStore, hstore]; rfl, heff, hstop, h0⟩

/-- Settles O23: each form is an integer store past its guards; what is left is the order of its bytes. -/
theorem integerStores : Obligations.IntegerStores := by
  intro s rS rA rB d hu hle hm eaD' eaX' eaDU' eaXU' stores
  have hD : s.gprsUsable (rS :: namedOr0 rA) = true := by
    simpa using usable_or0 (src := [rS]) (tail := []) (gprsUsable_mono hu (by simp))
  have hX : s.gprsUsable (rS :: namedOr0 rA ++ [rB]) = true := usable_or0 (src := [rS]) hu
  have hDU : s.gprsUsable [rS, rA] = true := gprsUsable_mono hu (by simp)
  let v := s.readGpr rS
  have hid {n : Nat} : bytesBE n v = id (bigEndianBytes n v.toNat) := (bigEndianBytes_eq n v).symm
  have plainD {n : Nat} {x : Word} {bytes : List Byte} (w : Word) (hn : n ∣ 4) (hb : bytesBE n x = bytes) :=
    storeInt_stores (base := none) w eaD' hle hm hn hD (by simp) hb
  have plainX {n : Nat} {x : Word} {bytes : List Byte} (w : Word) (hn : n ∣ 4) (hb : bytesBE n x = bytes) :=
    storeInt_stores (base := none) w eaX' hle hm hn hX (by simp) hb
  have h1 : 1 ∣ 4 := by decide
  have h2 : 2 ∣ 4 := by decide
  have h4 : 4 ∣ 4 := by decide
  refine ⟨plainD _ h1 hid, plainX _ h1 hid, plainD _ h2 hid, plainX _ h2 hid, plainD _ h4 hid, plainX _ h4 hid,
    plainX _ h2 ((bytesBE_reverseHalf v).trans (congrArg List.reverse hid)),
    plainX _ h4 ((bytesBE_reverseBytes v).trans (congrArg List.reverse hid)), fun h0 => ?_⟩
  have hok : updateOk rA = true := updateOk_of_ne h0
  have updateD {i : Instr} {n : Nat} (w : Word)
      (hi : exec i s = proceed (guardForm (updateOk rA)) fun _ => storeInt s w [rS, rA] eaDU' n v (some rA))
      (hn : n ∣ 4) : StoresAs (exec i s) s n eaDU' (some rA) (id (bigEndianBytes n v.toNat)) := by
    rw [hi, guardForm_true hok]
    exact storeInt_stores w eaDU' hle hm hn hDU (by simp) hid
  have updateX {i : Instr} {n : Nat} (w : Word)
      (hi : exec i s = proceed (guardForm (updateOk rA)) fun _ => storeInt s w [rS, rA, rB] eaXU' n v (some rA))
      (hn : n ∣ 4) : StoresAs (exec i s) s n eaXU' (some rA) (id (bigEndianBytes n v.toNat)) := by
    rw [hi, guardForm_true hok]
    exact storeInt_stores w eaXU' hle hm hn hu (by simp) hid
  exact ⟨updateD _ rfl h1, updateX _ rfl h1, updateD _ rfl h2, updateX _ rfl h2, updateD _ rfl h4, updateX _ rfl h4⟩

end Sys2Proof.Machine

/-!
The reservation: lwarx, stwcx. and what else ends one (O27; spec/20_memory.md R210 to R212, spec/43_load_store.md R530, R531).
-/
namespace Sys2Proof.Machine

theorem snooping_iff (s : State) : snooping s = true ↔ s.power = .full ∨ s.power = .doze := by simp [snooping]

theorem snoopReservation_reserve (s : State) (a : Word) : (snoopReservation s a).reserve =
    if (s.power = .full ∨ s.power = .doze) ∧ s.reserve = some (BitVec.ofNat 32 (a.toNat / 32 * 32)) then none
    else s.reserve := by
  have hiff : (snooping s && s.reserve == some (a &&& granuleMask)) = true ↔
      (s.power = .full ∨ s.power = .doze) ∧ s.reserve = some (BitVec.ofNat 32 (a.toNat / 32 * 32)) := by
    rw [granule_eq, Bool.and_eq_true, beq_iff_eq, snooping_iff]
  unfold snoopReservation
  by_cases h : (snooping s && s.reserve == some (a &&& granuleMask)) = true
  · rw [if_pos h, if_pos (hiff.mp h)]
  · rw [if_neg h, if_neg fun hc => h (hiff.mpr hc)]

/-- A write or a claim of another master ends a reservation of its granule. -/
theorem applyBus_reserve_granule (s : State) (a : Word) (v : Byte) {e : BusEvent} (he : e = .write a v ∨ e = .claim a) :
    (applyBus s e).reserve =
      if (s.power = .full ∨ s.power = .doze) ∧ s.reserve = some (BitVec.ofNat 32 (a.toNat / 32 * 32)) then none
      else s.reserve := by
  rcases he with rfl | rfl
  · have hr : (busWrite s a v).reserve = s.reserve := by rw [busWrite_stopped s a v]
    have hp : (busWrite s a v).power = s.power := by rw [busWrite_stopped s a v]
    exact (snoopReservation_reserve (busWrite s a v) a).trans (by rw [hr, hp])
  · exact snoopReservation_reserve s a

/-- lwarx past its guards. -/
theorem execLwarx_eq {s : State} {r rA rB : Reg} (hu : s.gprsUsable [r, rA, rB] = true) (hle : s.leView = false)
    (ha : (eaX s rA rB).toNat % 4 = 0) :
    exec (.lwarx r rA rB) s = proceed (orStop s (translateData s (eaX s rA rB) false)) fun pa =>
      advance { (loadAt s (eaX s rA rB) 4 [pa]).2.writeGpr r ((loadAt s (eaX s rA rB) 4 [pa]).1.getD 0 0) with
        reserve := some (pa &&& granuleMask) } := by
  have hnamed : s.gprsUsable (r :: namedOr0 rA ++ [rB]) = true := usable_or0 (src := [r]) hu
  show execLwarx r rA rB s = _
  unfold execLwarx
  dsimp only
  rw [withGprs_of_usable hnamed,
    guardWordAligned_aligned ((lowBits_eq_zero_iff _).mpr ha), guardBigEndian_big hle]

/-- The end of lwarx. -/
theorem loaded_reserved {s t : State} {r : Reg} (h : TeaOnly s t) (v ea : Word) (g : Option Word)
    (hu : s.gprsUsable [r] = true) :
    Loaded r v none ea s { { t.writeGpr r v with reserve := g, cia := (t.writeGpr r v).cia + 4 } with reserve := s.reserve } := by
  have hr : (t.writeGpr r v).reserve = s.reserve := by
    rw [writeGpr_rest, h]
    rfl
  rw [← hr]
  exact loaded_of_writes (base := none) h v ea hu nofun

theorem lwarx_reserves {s : State} {r rA rB : Reg} {pa : Word} (hu : s.gprsUsable [r, rA, rB] = true)
    (hle : s.leView = false) (ha : (eaX s rA rB).toNat % 4 = 0) (hpa : translateData s (eaX s rA rB) false = .ok pa) :
    ∃ bs t, exec (.lwarx r rA rB) s = .next t ∧ t.reserve = some (BitVec.ofNat 32 (pa.toNat / 32 * 32)) ∧
      SeesAll s 0 (fun _ => 0) (placesFrom pa 4) bs ∧ TeaLoaded 0 (placesFrom pa 4) s t ∧
      Loaded r (BitVec.ofNat 32 (bigEndian bs)) none (eaX s rA rB) s { t with reserve := s.reserve } := by
  obtain ⟨bs, hword, hsees, htea⟩ := loadAt_single_sees s (eaX s rA rB) pa (n := 4) (by omega)
  have hreached : (loadAt s (eaX s rA rB) 4 [pa]).2 = loadedAt s pa := by rw [loadAt_single]
  rw [execLwarx_eq hu hle ha, hpa]
  refine ⟨bs, _, rfl, congrArg some (granule_eq pa), hsees, htea.congr ?_ ?_, ?_⟩
  · rw [writeGpr_rest, hreached]
  · rw [writeGpr_rest, hreached]
  · rw [hword, hreached, ← wordOfBE_eq]
    exact loaded_reserved (loadedAt_teaOnly s pa) _ _ _ (gprsUsable_mono hu (by simp))

/-- Memory after stwcx. -/
def storedIf (ok : Bool) (s : State) (pa v : Word) : State := if ok then writePhys s pa 4 v else s

theorem storedIf_stopped (ok : Bool) (s : State) (pa v : Word) : StoppedStore s (storedIf ok s pa v) := by
  cases ok with
  | false => rfl
  | true => exact writePhys_stopped s pa 4 v

/-- stwcx. past its guards. -/
theorem execStwcxRc_eq {s : State} {r rA rB : Reg} (hu : s.gprsUsable [r, rA, rB] = true) (hle : s.leView = false)
    (ha : (eaX s rA rB).toNat % 4 = 0) :
    exec (.stwcxRc r rA rB true) s = proceed (orStop s (translateData s (eaX s rA rB) true)) fun pa =>
      advance (setCrField { storedIf (conditionalStoreSucceeds s pa) s pa (s.readGpr r) with reserve := none } 0
        (crBits false false (conditionalStoreSucceeds s pa) (xerSO s.xer))) := by
  have hnamed : s.gprsUsable (r :: namedOr0 rA ++ [rB]) = true := usable_or0 (src := [r]) hu
  show execStwcxRc r rA rB true s = _
  unfold execStwcxRc
  dsimp only
  rw [guardForm_true rfl, withGprs_of_usable hnamed,
    guardWordAligned_aligned ((lowBits_eq_zero_iff _).mpr ha), guardBigEndian_big hle]
  rfl

theorem conditionalStoreSucceeds_none {s : State} (h : s.reserve = none) (pa : Word) :
    conditionalStoreSucceeds s pa = false := by
  rw [conditionalStoreSucceeds, h]

theorem conditionalStoreSucceeds_granule {s : State} {pa : Word}
    (h : s.reserve = some (BitVec.ofNat 32 (pa.toNat / 32 * 32))) : conditionalStoreSucceeds s pa = true := by
  rw [conditionalStoreSucceeds, h, ← granule_eq]
  exact if_pos rfl

/-- The end of stwcx. -/
def conditionallyStored (ok : Bool) (s : State) (pa v : Word) : State :=
  let u := setCrField { storedIf ok s pa v with reserve := none } 0 (crBits false false ok (xerSO s.xer))
  { u with cia := u.cia + 4 }

theorem conditionallyStored_cr (ok : Bool) (s : State) (pa v : Word) :
    CrFieldIs 0 false false ok (ibmBit s.xer 0) s (conditionallyStored ok s pa v) := by
  have hcr : (storedIf ok s pa v).cr = s.cr := by rw [storedIf_stopped ok s pa v]
  obtain ⟨h0, h1, h2, h3, hrest⟩ := crFieldIs_setCrField { storedIf ok s pa v with reserve := none } 0 false false ok
    (xerSO s.xer)
  exact ⟨h0, h1, h2, h3, fun k hk hne => (hrest k hk hne).trans (congrArg (ibmBit · k) hcr)⟩

theorem conditionallyStored_frame {s : State} (ok : Bool) (pa v ea : Word) :
    OnlyStore none ea s { conditionallyStored ok s pa v with reserve := s.reserve, cr := s.cr } := by
  have hstop := storedIf_stopped ok s pa v
  have hkeep : { conditionallyStored ok s pa v with reserve := s.reserve, cr := s.cr } =
      { storedIf ok s pa v with cia := (storedIf ok s pa v).cia + 4 } := by
    have hcr : (storedIf ok s pa v).cr = s.cr := by rw [hstop]
    have hr : (storedIf ok s pa v).reserve = s.reserve := by rw [hstop]
    rw [← hcr, ← hr]
    rfl
  rw [hkeep]
  exact onlyStore_of_update (base := none) hstop ea (by simp [State.gprsUsable])

theorem stwcx_stores {s : State} {r rA rB : Reg} {pa : Word} (hu : s.gprsUsable [r, rA, rB] = true)
    (hle : s.leView = false) (ha : (eaX s rA rB).toNat % 4 = 0) (hpa : translateData s (eaX s rA rB) true = .ok pa)
    (hm : s.mem.wf = true) :
    ∃ t ok, exec (.stwcxRc r rA rB true) s = .next t ∧ t.reserve = none ∧
      CrFieldIs 0 false false ok (ibmBit s.xer 0) s t ∧
      (s.reserve = none → ok = false) ∧ (s.reserve = some (BitVec.ofNat 32 (pa.toNat / 32 * 32)) → ok = true) ∧
      (ok = true → StoreEffect s 0 (placesFrom pa 4) (bigEndianBytes 4 (s.readGpr r).toNat) t) ∧
      (ok = false → t = { s with reserve := none, cr := t.cr, cia := s.cia + 4 }) ∧
      OnlyStore none (eaX s rA rB) s { t with reserve := s.reserve, cr := s.cr } := by
  refine ⟨conditionallyStored (conditionalStoreSucceeds s pa) s pa (s.readGpr r), conditionalStoreSucceeds s pa,
    by rw [execStwcxRc_eq hu hle ha, hpa]; rfl, rfl, conditionallyStored_cr .., fun h => conditionalStoreSucceeds_none h pa,
    conditionalStoreSucceeds_granule, fun h => ?_, fun h => ?_, conditionallyStored_frame ..⟩
  · rw [h, bigEndianBytes_eq]
    exact (writePhys_effect hm _ (dvd_refl 4) (translateData_aligned hpa (by norm_num) ha)).congr rfl rfl rfl rfl
  · rw [h]
    rfl

/-- Settles O27. -/
theorem reservations : Obligations.Reservations := by
  refine ⟨fun s a v e he => applyBus_reserve_granule s a v (by simpa using he), fun _ => rfl, ?_⟩
  intro s r rA rB hu hle ea granule ha
  refine ⟨fun e he => ?_, fun e he => ?_, fun pa hpa => lwarx_reserves hu hle ha hpa,
    fun pa hpa hm => stwcx_stores hu hle ha hpa hm⟩
  · rw [execLwarx_eq hu hle ha, show translateData s (eaX s rA rB) false = .error e from he]
    rfl
  · rw [execStwcxRc_eq hu hle ha, show translateData s (eaX s rA rB) true = .error e from he]
    rfl

end Sys2Proof.Machine

/-!
The cache instructions (O45; spec/46_memory_control.md R670 to R677, spec/60_exceptions.md R803).
-/
namespace Sys2Proof.Machine

/- Blocks. -/

/-- The places of the block that holds an address. -/
def blockPlaces (pa : Word) : List Word := placesFrom (BitVec.ofNat 32 (pa.toNat / 32 * 32)) 32

theorem block_toNat (pa : Word) : (BitVec.ofNat 32 (pa.toNat / 32 * 32)).toNat = pa.toNat / 32 * 32 := by
  have h := pa.isLt
  rw [BitVec.toNat_ofNat, Nat.mod_eq_of_lt (by omega)]

theorem mem_blockPlaces_iff {pa a : Word} : a ∈ blockPlaces pa ↔ a.toNat / 32 = pa.toNat / 32 := by
  have ha := a.isLt
  have hp := pa.isLt
  unfold blockPlaces
  rw [mem_placesFrom_iff (by omega), BitVec.toNat_sub, block_toNat]
  omega

theorem blockAlign_eq_iff {pa a : Word} : blockAlign a = blockAlign pa ↔ a ∈ blockPlaces pa := by
  rw [mem_blockPlaces_iff, blockAlign_eq, blockAlign_eq, ← BitVec.toNat_inj, block_toNat, block_toNat]
  omega

theorem isRam_of_mem_blockPlaces (s : State) {pa a : Word} (h : a ∈ blockPlaces pa) : s.isRam a = s.isRam pa :=
  isRam_sameBlock s (mem_blockPlaces_iff.mp h)

theorem kindAt_of_mem_blockPlaces (s : State) {pa a : Word} (h : a ∈ blockPlaces pa) : s.kindAt a = s.kindAt pa :=
  kindAt_sameBlock s (mem_blockPlaces_iff.mp h)

/-- The place of byte `k` of a block. -/
theorem blockByte_toNat (pa : Word) {k : Nat} (hk : k < 32) :
    (blockAlign pa + BitVec.ofNat 32 k).toNat = pa.toNat / 32 * 32 + k := by
  have h := pa.isLt
  rw [blockAlign_eq, BitVec.toNat_add, block_toNat, BitVec.toNat_ofNat]
  omega

theorem blockPlaces_eq (pa : Word) : blockPlaces pa = placesFrom (blockAlign pa) 32 := by
  rw [blockAlign_eq]
  rfl

/- The writes of a whole block. -/

theorem bytesBE_wordOfBE (b0 b1 b2 b3 : Byte) : bytesBE 4 (wordOfBE [b0, b1, b2, b3]) = [b0, b1, b2, b3] := by
  have h0 := b0.isLt
  have h1 := b1.isLt
  have h2 := b2.isLt
  have h3 := b3.isLt
  have hnum : (wordOfBE [b0, b1, b2, b3]).toNat =
      ((b0.toNat * 256 + b1.toNat) * 256 + b2.toNat) * 256 + b3.toNat := by
    have hv : bigEndian [b0, b1, b2, b3] =
        256 * (256 * (256 * b0.toNat + b1.toNat) + b2.toNat) + b3.toNat := by simp [bigEndian]
    rw [wordOfBE_eq, hv, BitVec.toNat_ofNat]
    omega
  have hbyte (j : Nat) (b : Byte) (h : (wordOfBE [b0, b1, b2, b3]).toNat / 2 ^ j % 2 ^ 8 = b.toNat) :
      (wordOfBE [b0, b1, b2, b3]).extractLsb' j 8 = b := by
    apply BitVec.eq_of_toNat_eq
    rw [BitVec.extractLsb'_toNat, Nat.shiftRight_eq_div_pow, h]
  have e0 := hbyte 24 b0 (by rw [hnum]; omega)
  have e1 := hbyte 16 b1 (by rw [hnum]; omega)
  have e2 := hbyte 8 b2 (by rw [hnum]; omega)
  have e3 := hbyte 0 b3 (by rw [hnum]; omega)
  simp [bytesBE, List.range_succ, e0, e1, e2, e3]

theorem blockWords_bytes (byte : Nat → Byte) : (blockWords byte).flatMap (bytesBE 4) = (List.range 32).map byte := by
  simp [blockWords, List.range_succ, bytesBE_wordOfBE]

theorem placesFrom_add (pa : Word) (m n : Nat) :
    placesFrom pa (m + n) = placesFrom pa m ++ placesFrom (pa + BitVec.ofNat 32 m) n := by
  simp [placesFrom, List.range_add, BitVec.ofNat_add, BitVec.add_assoc]

/-- Words written one after another. -/
theorem Tracks.writeBlock {s g : State} {evs : List BusEvent} (ws : List Word) {t : State} {places : List Word}
    {bs : List Byte} {pa : Word} (h : Tracks s g t evs places bs) (hp : pa.toNat % 4 = 0) (hlen : 4 * ws.length < 2 ^ 32)
    (hd : ∀ a ∈ places, a ∉ placesFrom pa (4 * ws.length)) :
    Tracks s g (Machine.writeBlock t pa ws) evs (places ++ placesFrom pa (4 * ws.length))
      (bs ++ ws.flatMap (bytesBE 4)) := by
  induction ws generalizing t places bs pa with
  | nil => simpa [placesFrom, Machine.writeBlock] using h
  | cons w rest ih =>
    have hplaces : placesFrom pa (4 * (w :: rest).length) = placesFrom pa 4 ++ placesFrom (pa + 4) (4 * rest.length) := by
      rw [List.length_cons, Nat.mul_succ, Nat.add_comm, placesFrom_add]
      rfl
    have hrest : 4 * rest.length + 4 < 2 ^ 32 := by simpa [Nat.mul_succ] using hlen
    rw [hplaces] at hd ⊢
    have hw := h.write w (dvd_refl 4) hp fun a ha hc => hd a ha (List.mem_append_left _ hc)
    have hp' : (pa + 4).toNat % 4 = 0 := by
      rw [BitVec.toNat_add]
      change (pa.toNat + 4) % 2 ^ 32 % 4 = 0
      omega
    have := ih hw hp' (by omega) fun a ha hc => ?_
    · simpa [List.append_assoc, Machine.writeBlock] using this
    rcases List.mem_append.mp ha with hold | hnew
    · exact hd a hold (List.mem_append_right _ hc)
    · rw [mem_placesFrom_iff (by omega), BitVec.toNat_sub] at hc hnew
      rw [BitVec.toNat_add] at hc
      change (2 ^ 32 - (pa.toNat + 4) % 2 ^ 32 + a.toNat) % 2 ^ 32 < _ at hc
      have ha := a.isLt
      have hpa := pa.isLt
      omega

/-- A block rewritten byte by byte. -/
theorem writeBlock_tracks {s : State} (hm : s.mem.wf = true) (pa : Word) (byte : Nat → Byte) :
    Tracks s s (writeBlock s (blockAlign pa) (blockWords byte)) [] (blockPlaces pa) ((List.range 32).map byte) := by
  have hlen : (blockWords byte).length = 8 := by simp [blockWords]
  have h := (Tracks.refl hm).writeBlock (pa := blockAlign pa) (blockWords byte)
    (by rw [blockAlign_eq, block_toNat]; omega) (by rw [hlen]; omega) fun _ ha => absurd ha List.not_mem_nil
  rw [hlen, blockWords_bytes] at h
  simpa [blockPlaces_eq] using h

/-- What the bytes of a rewritten block are: those given where RAM stands. -/
theorem Tracks.blockByte {s t : State} {pa : Word} {byte : Nat → Byte}
    (h : Tracks s s t [] (blockPlaces pa) ((List.range 32).map byte)) {a : Word} (ha : a ∈ blockPlaces pa) :
    readByte t a = readByte s a ∨ ∃ k < 32, a = blockAlign pa + BitVec.ofNat 32 k ∧ readByte t a = byte k := by
  by_cases hr : s.isRam a = true
  · rw [blockPlaces_eq] at ha
    obtain ⟨k, hk, rfl⟩ := mem_placesFrom.mp ha
    refine .inr ⟨k, hk, rfl, h.stored (fun _ _ he => absurd he List.not_mem_nil)
      (blockAlign pa + BitVec.ofNat 32 k, byte k) ?_ hr⟩
    rw [blockPlaces_eq, placesFrom, List.zip_map']
    exact List.mem_map.mpr ⟨k, List.mem_range.mpr hk, rfl⟩
  · exact .inl (h.others a (.inr (Bool.eq_false_iff.mpr hr)))

theorem Tracks.blockCopies {s t : State} {pa : Word} {bs : List Byte} (h : Tracks s s t [] (blockPlaces pa) bs)
    (e : Host.Cell) : e ∈ t.cached ↔ e ∈ s.cached ∧ (s.isRam pa = true → BitVec.ofNat 32 e.1 ∉ blockPlaces pa) := by
  have hquiet : ∀ a v, BusEvent.write a v ∈ ([] : List BusEvent) → a ∉ blockPlaces pa :=
    fun _ _ he => absurd he List.not_mem_nil
  by_cases hin : BitVec.ofNat 32 e.1 ∈ blockPlaces pa
  · have hsame := isRam_of_mem_blockPlaces s hin
    by_cases hr : s.isRam pa = true
    · exact ⟨fun he => absurd hin (h.settled hquiet e he (hsame.trans hr)), fun he => absurd hin (he.2 hr)⟩
    · rw [h.copies e (.inr (hsame.trans (Bool.eq_false_iff.mpr hr)))]
      exact ⟨fun he => ⟨he, fun hc => absurd hc hr⟩, And.left⟩
  · rw [h.copies e (.inl hin)]
    exact ⟨fun he => ⟨he, fun _ => hin⟩, And.left⟩

theorem Tracks.blockTea {s t : State} {pa : Word} {bs : List Byte} (h : Tracks s s t [] (blockPlaces pa) bs) :
    t.teaUnrecognised = s.teaUnrecognised ∨ (t.teaUnrecognised = true ∧ s.kindAt pa = some .absent) := by
  obtain ⟨hkeep, hquiet⟩ := h.tea
  by_cases hk : s.kindAt pa = some .absent
  · cases ht : t.teaUnrecognised with
    | true => exact .inr ⟨rfl, hk⟩
    | false =>
      refine .inl (Eq.symm (Bool.eq_false_iff.mpr fun hs => ?_))
      rw [hkeep hs] at ht
      cases ht
  · exact .inl (hquiet fun a ha => by rwa [kindAt_of_mem_blockPlaces s ha])

/- The bytes of a block after `dcbf` and `dcbi` (R673, R674). -/

theorem mem_cachedBytes {s : State} {a : Word} {b : Byte} : b ∈ cachedBytes s a ↔ (a.toNat, b) ∈ s.cached := by
  simp [cachedBytes]

theorem settledByte_cases (s : State) (pa : Word) (k : Nat) :
    settledByte s (blockAlign pa) k = readByte s (blockAlign pa + BitVec.ofNat 32 k) ∨
      ((blockAlign pa + BitVec.ofNat 32 k).toNat, settledByte s (blockAlign pa) k) ∈ s.cached :=
  (drawFrom_mem s (.settledByte k) _ _).imp_right mem_cachedBytes.mp

/-- A record of a block that a `dcbi` may bring back. -/
def Unpushed (pa : Word) (e : StaleWord) : Prop :=
  e.addr ∈ blockPlaces pa ∧ e.discarded = false ∧ (e.phase = .stored ∨ e.phase = .pushed)

theorem notPushed_iff {pa : Word} {e : StaleWord} : notPushed (blockAlign pa) e = true ↔ Unpushed pa e := by
  simp [notPushed, Unpushed, blockAlign_eq_iff, and_assoc]

theorem discardedByte_cases (s : State) (pa : Word) {k : Nat} (hk : k < 32) {a : Word}
    (ha : a = blockAlign pa + BitVec.ofNat 32 k) :
    discardedByte s (blockAlign pa) k = readByte s a ∨ (a.toNat, discardedByte s (blockAlign pa) k) ∈ s.cached ∨
      ∃ e ∈ s.stale, Unpushed pa e ∧ e.addr = BitVec.ofNat 32 (a.toNat / 4 * 4) ∧
        discardedByte s (blockAlign pa) k = e.old.extractLsb' (8 * (3 - a.toNat % 4)) 8 := by
  have hk4 : a.toNat % 4 = k % 4 := by
    rw [ha, blockByte_toNat pa hk]
    omega
  subst ha
  rcases drawFrom_mem s (.dcbiByte k) (readByte s (blockAlign pa + BitVec.ofNat 32 k)) _ with heq | hin
  · exact .inl heq
  · rcases List.mem_append.mp hin with hold | hcopy
    · obtain ⟨e, he, hbyte⟩ := List.mem_map.mp hold
      rw [List.mem_filter, Bool.and_eq_true, beq_iff_eq, notPushed_iff] at he
      obtain ⟨hstale, hun, haddr⟩ := he
      exact .inr (.inr ⟨e, hstale, hun, haddr.trans (wordAlign_eq _), hk4 ▸ hbyte.symm⟩)
    · exact .inr (.inl (mem_cachedBytes.mp hcopy))

/-- A copy of a byte of the block is left. -/
def Copied (s : State) (places : List Word) : Prop := ∃ e ∈ s.cached, BitVec.ofNat 32 e.1 ∈ places

theorem not_copied_of_mem {s : State} {pa a : Word} {b : Byte} (h : ¬ Copied s (blockPlaces pa)) (ha : a ∈ blockPlaces pa) :
    (a.toNat, b) ∉ s.cached := fun hc => h ⟨_, hc, by simpa using ha⟩

theorem settleBlock_condition {s : State} {pa : Word} :
    s.cached.any (fun e => blockAlign (BitVec.ofNat 32 e.1) == blockAlign pa) = true ↔ Copied s (blockPlaces pa) := by
  simp [Copied, blockAlign_eq_iff]

theorem settleBlock_none {s : State} {pa : Word} (h : ¬ Copied s (blockPlaces pa)) : settleBlock s (blockAlign pa) = s :=
  if_neg (settleBlock_condition.not.mpr h)

/-- A block without copies is as if rewritten with its own bytes. -/
theorem settleBlock_tracks {s : State} (hm : s.mem.wf = true) (pa : Word) :
    Tracks s s (settleBlock s (blockAlign pa)) [] (blockPlaces pa)
      ((List.range 32).map (settledByte s (blockAlign pa))) := by
  by_cases h : Copied s (blockPlaces pa)
  · rw [settleBlock, if_pos (settleBlock_condition.mpr h)]
    exact writeBlock_tracks hm pa _
  · rw [settleBlock_none h]
    refine { Tracks.refl hm with
      length := by simp [blockPlaces]
      others := fun _ _ => rfl
      stored := fun _ p hp _ => ?_
      recorded := fun e he => .inl he
      copies := fun _ _ => Iff.rfl
      settled := fun _ e he _ hin => h ⟨e, he, hin⟩
      tea := ⟨id, fun _ => rfl⟩ }
    rw [blockPlaces_eq, placesFrom, List.zip_map'] at hp
    obtain ⟨k, hk, rfl⟩ := List.mem_map.mp hp
    have hin : blockAlign pa + BitVec.ofNat 32 k ∈ blockPlaces pa := by
      rw [blockPlaces_eq]
      exact mem_placesFrom.mpr ⟨k, List.mem_range.mp hk, rfl⟩
    exact ((settledByte_cases s pa k).resolve_right (not_copied_of_mem h hin)).symm

/- What dcbf and dcbi leave. -/

/-- The replaced words a fetch may still see. -/
def staleWords (l : List StaleWord) : List (Word × Word) := l.map fun e => (e.addr, e.old)

/-- The block of `pa` is written back or discarded: `left` is so of its records. -/
def Flushed (s : State) (pa : Word) (left : StaleWord → Prop) (t : State) : Prop :=
  SameBytesBut (blockPlaces pa) s t ∧ staleWords s.stale <:+ staleWords t.stale ∧
  (∀ e ∈ t.stale, e.addr ∈ blockPlaces pa → left e) ∧
  (∀ e : Host.Cell, e ∈ t.cached ↔ e ∈ s.cached ∧ (s.isRam pa = true → BitVec.ofNat 32 e.1 ∉ blockPlaces pa)) ∧
  (t.teaUnrecognised = s.teaUnrecognised ∨ (t.teaUnrecognised = true ∧ s.kindAt pa = some .absent)) ∧
  t = { s with mem := t.mem, stale := t.stale, cached := t.cached, teaUnrecognised := t.teaUnrecognised, cia := s.cia + 4 }

/-- A state but for the stages and marks of its records, one instruction on. -/
def withRecords (u : State) (l : List StaleWord) : State := { u with stale := l, cia := u.cia + 4 }

@[simp] theorem withRecords_readByte (u : State) (l : List StaleWord) (a : Word) :
    readByte (withRecords u l) a = readByte u a := rfl

/-- A rewritten block whose records have got a new stage or mark. -/
theorem flushed_of_tracks {s u : State} {pa : Word} {bs : List Byte} {left : StaleWord → Prop} {l : List StaleWord}
    (h : Tracks s s u [] (blockPlaces pa) bs) (hwords : staleWords l = staleWords u.stale)
    (hleft : ∀ e ∈ l, e.addr ∈ blockPlaces pa → left e) : Flushed s pa left (withRecords u l) := by
  refine ⟨fun a ha => h.others a (.inl ha), ?_, hleft, h.blockCopies, h.blockTea, ?_⟩
  · rw [withRecords, hwords]
    exact List.IsSuffix.map _ h.kept
  · rw [withRecords, h.frame]

theorem pushPhase_ne_stored {pa : Word} (e : StaleWord) (h : e.addr ∈ blockPlaces pa) :
    pushPhase (blockAlign pa) e ≠ .stored := by
  rw [pushPhase, if_pos (blockAlign_eq_iff.mpr h)]
  cases e.phase <;> decide

/-- The state after dcbf. -/
def pushedBlock (s : State) (pa : Word) : State :=
  withRecords (settleBlock s (blockAlign pa)) (mapStale (pushPhase (blockAlign pa)) (settleBlock s (blockAlign pa))).stale

theorem pushedBlock_flushed {s : State} (hm : s.mem.wf = true) (pa : Word) :
    Flushed s pa (fun e => e.phase ≠ .stored) (pushedBlock s pa) := by
  refine flushed_of_tracks (settleBlock_tracks hm pa) (mapStale_words _ _) fun e he hin => ?_
  obtain ⟨d, -, rfl⟩ := List.mem_map.mp he
  exact pushPhase_ne_stored d hin

theorem pushedBlock_byte {s : State} (hm : s.mem.wf = true) {pa a : Word} (ha : a ∈ blockPlaces pa) :
    readByte (pushedBlock s pa) a = readByte s a ∨ (a.toNat, readByte (pushedBlock s pa) a) ∈ s.cached := by
  rw [pushedBlock, withRecords_readByte]
  rcases (settleBlock_tracks hm pa).blockByte ha with h | ⟨k, -, rfl, h⟩
  · exact .inl h
  · rw [h]
    exact settledByte_cases s pa k

/-- The state after dcbi. -/
def discardedBlock (s : State) (pa : Word) : State :=
  withRecords (writeBlock s (blockAlign pa) (blockWords (discardedByte s (blockAlign pa))))
    (discardBlock s (blockAlign pa)).stale

theorem discarded_of_markDiscarded {u : State} {pa : Word} {e : StaleWord} (he : e ∈ (markDiscarded (blockAlign pa) u).stale)
    (hin : e.addr ∈ blockPlaces pa) : e.discarded = true := by
  obtain ⟨d, -, rfl⟩ := List.mem_map.mp he
  simp [blockAlign_eq_iff.mpr hin]

theorem advance_markDiscarded (block : Word) (u : State) :
    advance (markDiscarded block u) = .next (withRecords u (markDiscarded block u).stale) := rfl

theorem advance_discardBlock (s : State) (pa : Word) :
    advance (discardBlock s (blockAlign pa)) = .next (discardedBlock s pa) := by
  rw [discardedBlock, discardBlock, advance_markDiscarded]

theorem discardedBlock_flushed {s : State} (hm : s.mem.wf = true) (pa : Word) :
    Flushed s pa (fun e => e.discarded = true) (discardedBlock s pa) := by
  refine flushed_of_tracks (writeBlock_tracks hm pa _) (by simp [staleWords, discardBlock, markDiscarded]) fun e he hin => ?_
  rw [discardBlock] at he
  exact discarded_of_markDiscarded he hin

theorem discardedBlock_byte {s : State} (hm : s.mem.wf = true) {pa a : Word} (ha : a ∈ blockPlaces pa) :
    readByte (discardedBlock s pa) a = readByte s a ∨ (a.toNat, readByte (discardedBlock s pa) a) ∈ s.cached ∨
      ∃ e ∈ s.stale, Unpushed pa e ∧ e.addr = BitVec.ofNat 32 (a.toNat / 4 * 4) ∧
        readByte (discardedBlock s pa) a = e.old.extractLsb' (8 * (3 - a.toNat % 4)) 8 := by
  rw [discardedBlock, withRecords_readByte]
  rcases (writeBlock_tracks hm pa (discardedByte s (blockAlign pa))).blockByte ha with h | ⟨k, hk, hpl, h⟩
  · exact .inl h
  · rw [h]
    exact discardedByte_cases s pa hk hpl

/-- dcbi has nothing to bring back where every store to the block is pushed and no copy of it differs. -/
theorem discardedBlock_sameBytes {s : State} (hm : s.mem.wf = true) {pa : Word} (hpushed : ∀ e ∈ s.stale, ¬ Unpushed pa e)
    (hcopied : ¬ Copied s (blockPlaces pa)) : SameBytes s (discardedBlock s pa) := by
  intro a
  by_cases ha : a ∈ blockPlaces pa
  · rcases discardedBlock_byte hm ha with h | h | ⟨e, he, hun, -⟩
    · exact h
    · exact absurd h (not_copied_of_mem hcopied ha)
    · exact absurd hun (hpushed e he)
  · exact (discardedBlock_flushed hm pa).1 a ha

/- The instructions. -/

/-- A cache instruction past its guards. -/
theorem blockAccess_eq {s : State} {rA rB : Reg} (hu : s.gprsUsable [rA, rB] = true) (hle : s.leView = false) (w ea : Word)
    (store : Bool) (k : Word → Out) :
    blockAccess s w (namedOr0 rA ++ [rB]) ea store k = proceed (orStop s (translateData s ea store)) k := by
  have hnamed : s.gprsUsable (namedOr0 rA ++ [rB]) = true := usable_or0 (src := []) hu
  rw [blockAccess, withGprs_of_usable hnamed, guardBigEndian_big hle]

theorem blockAccess_stops {s : State} {rA rB : Reg} (hu : s.gprsUsable [rA, rB] = true) (hle : s.leView = false)
    {ea : Word} {store : Bool} {e : AccessStop} (he : translateData s ea store = .error e) (w : Word) (k : Word → Out) :
    blockAccess s w (namedOr0 rA ++ [rB]) ea store k = e.outcome s := by
  rw [blockAccess_eq hu hle, he]
  rfl

theorem blockAccess_goes {s : State} {rA rB : Reg} (hu : s.gprsUsable [rA, rB] = true) (hle : s.leView = false)
    {ea pa : Word} {store : Bool} (h : translateData s ea store = .ok pa) (w : Word) (k : Word → Out) :
    blockAccess s w (namedOr0 rA ++ [rB]) ea store k = k pa := by
  rw [blockAccess_eq hu hle, h]
  rfl

/-- An instruction that moves records to another stage keeps every word and mark. -/
theorem mapStale_advance (f : StaleWord → StalePhase) (s : State) :
    ∃ t, advance (mapStale f s) = .next t ∧ staleWords t.stale = staleWords s.stale ∧
      t.stale.map (·.discarded) = s.stale.map (·.discarded) ∧ t = { s with stale := t.stale, cia := s.cia + 4 } :=
  ⟨_, rfl, mapStale_words f s, mapStale_discarded f s, rfl⟩

/-- Settles O45. -/
theorem cacheManagement : Obligations.CacheManagement := by
  intro s rA rB hu ea words marks block copied flushed
  have hnamed : s.gprsUsable (namedOr0 rA ++ [rB]) = true := usable_or0 (src := []) hu
  refine ⟨withGprs_of_usable hnamed, withGprs_of_usable hnamed, fun hle => ⟨fun i hi e he => ?_, fun pa hpa => ⟨fun i hi => ?_,
    fun hm => ?_⟩, fun hpr => ⟨fun e he => ?_, fun pa hpa hm => ?_⟩⟩⟩
  · simp only [List.mem_cons, List.not_mem_nil, or_false] at hi
    rcases hi with rfl | rfl | rfl
    · exact blockAccess_stops hu hle he _ _
    · exact blockAccess_stops hu hle he _ _
    · exact blockAccess_stops hu hle he _ _
  · simp only [List.mem_cons, List.not_mem_nil, or_false] at hi
    rcases hi with rfl | rfl
    · obtain ⟨t, ht, hrest⟩ := mapStale_advance (pushPhase (blockAlign pa)) s
      exact ⟨t, (blockAccess_goes hu hle hpa _ _).trans ht, hrest⟩
    · obtain ⟨t, ht, hrest⟩ := mapStale_advance (invalidatePhase (blockAlign pa)) s
      exact ⟨t, (blockAccess_goes hu hle hpa _ _).trans ht, hrest⟩
  · refine ⟨pushedBlock s pa, blockAccess_goes hu hle hpa _ _, pushedBlock_flushed hm pa, fun a ha => pushedBlock_byte hm ha,
      fun hno => ?_⟩
    rw [pushedBlock, settleBlock_none hno]
    exact ⟨mapStale_words _ s, rfl⟩
  · exact (guardSupervisor_supervisor hpr).trans (blockAccess_stops hu hle he _ _)
  · exact ⟨discardedBlock s pa, (guardSupervisor_supervisor hpr).trans ((blockAccess_goes hu hle hpa _ _).trans (advance_discardBlock s pa)),
      discardedBlock_flushed hm pa, fun a ha => discardedBlock_byte hm ha, discardedBlock_sameBytes hm⟩

end Sys2Proof.Machine

/-!
Code modification: the sequence dcbst, sync, icbi, sync, isync (O46; spec/20_memory.md R220, R221).
-/
namespace Sys2Proof.Machine

/- What a fetch returns. -/

/-- The words a fetch may still see in place of the one memory holds. -/
theorem fetchWord_cases (s : State) (a : Word) : s.noMemory a = true ∨ fetchWord s a = readWordAt s a ∨
    ∃ e ∈ s.stale, e.addr = BitVec.ofNat 32 (a.toNat / 4 * 4) ∧ fetchWord s a = e.old := by
  by_cases hno : s.noMemory a = true
  · exact .inl hno
  right
  rw [fetchWord, if_neg hno]
  dsimp only
  split
  · exact .inl rfl
  · refine (drawFrom_mem s .staleFetch _ _).imp_right fun hin => ?_
    obtain ⟨e, he, hold⟩ := List.mem_map.mp hin
    rw [List.mem_filter, decide_eq_true_iff, wordAlign_eq] at he
    exact ⟨e, he.1, he.2, hold.symm⟩

/-- Without records of its word a fetch sees memory. -/
theorem fetchWord_settled {s : State} {a : Word} (hno : s.noMemory a = false) (h : ∀ e ∈ s.stale, e.addr ≠ wordAlign a) :
    fetchWord s a = readWordAt s a := by
  have hnone : (s.stale.filter fun e => e.addr = wordAlign a) = [] :=
    List.filter_eq_nil_iff.mpr fun e he => by simpa using h e he
  rw [fetchWord, hno, hnone]
  rfl

/- The states of the sequence. -/

/-- `t` is `s` but for the records and CIA. -/
def RecordsOnly (s t : State) : Prop := ∃ l c, t = { s with stale := l, cia := c }

theorem RecordsOnly.trans {s t u : State} (h : RecordsOnly s t) (h' : RecordsOnly t u) : RecordsOnly s u := by
  obtain ⟨_, _, rfl⟩ := h
  obtain ⟨l, c, rfl⟩ := h'
  exact ⟨l, c, rfl⟩

theorem withRecords_only (s : State) (l : List StaleWord) : RecordsOnly s (withRecords s l) := ⟨_, _, rfl⟩

theorem RecordsOnly.memory {s t : State} (h : RecordsOnly s t) (a : Word) :
    readByte t a = readByte s a ∧ readWordAt t a = readWordAt s a ∧ t.noMemory a = s.noMemory a := by
  obtain ⟨_, _, rfl⟩ := h
  exact ⟨rfl, rfl, rfl⟩

theorem RecordsOnly.windows {s t : State} (h : RecordsOnly s t) : t.windows = s.windows := by
  obtain ⟨_, _, rfl⟩ := h
  rfl

/-- An access goes where it went before. -/
theorem RecordsOnly.access {s t : State} (h : RecordsOnly s t) (rA rB : Reg) :
    eaX t rA rB = eaX s rA rB ∧ t.leView = s.leView ∧ (∀ rs, t.gprsUsable rs = s.gprsUsable rs) ∧
      ∀ ea store, translateData t ea store = translateData s ea store := by
  obtain ⟨_, _, rfl⟩ := h
  exact ⟨rfl, rfl, fun _ => rfl, fun _ _ => rfl⟩

/-- The records moved to other stages, one instruction on. -/
def restaged (f : StaleWord → StalePhase) (s : State) : State := withRecords s (mapStale f s).stale

theorem restaged_only (f : StaleWord → StalePhase) (s : State) : RecordsOnly s (restaged f s) := withRecords_only s _

theorem mem_restaged {f : StaleWord → StalePhase} {s : State} {e : StaleWord} :
    e ∈ (restaged f s).stale ↔ ∃ d ∈ s.stale, { d with phase := f d } = e := List.mem_map

theorem exec_dcbst {s : State} {rA rB : Reg} {pa : Word} (hu : s.gprsUsable [rA, rB] = true) (hle : s.leView = false)
    (h : translateData s (eaX s rA rB) false = .ok pa) :
    exec (.dcbst rA rB) s = .next (restaged (pushPhase (blockAlign pa)) s) := blockAccess_goes hu hle h _ _

theorem exec_icbi {s : State} {rA rB : Reg} {pa : Word} (hu : s.gprsUsable [rA, rB] = true) (hle : s.leView = false)
    (h : translateData s (eaX s rA rB) false = .ok pa) :
    exec (.icbi rA rB) s = .next (restaged (invalidatePhase (blockAlign pa)) s) := blockAccess_goes hu hle h _ _

theorem settleTlbs_settled {s : State} (h : s.windows = []) : settleTlbs s = s := by
  rw [settleTlbs, h, List.map_nil, ← h]

theorem closeWindows_settled {s : State} (h : s.windows = []) : closeWindows s = s := by
  rw [closeWindows, ← h]

/-- sync with no context change open. -/
theorem exec_sync {s : State} (h : s.windows = []) : exec .sync s = .next (restaged syncPhase s) := by
  show advance (settleTlbs (mapStale syncPhase s)) = _
  rw [settleTlbs_settled ((mapStale_windows ..).trans h)]
  rfl

/-- The records isync ends. -/
def unfinished (l : List StaleWord) : List StaleWord := l.filter fun e => e.phase != .invalidatedSynced

/-- isync with no context change open. -/
theorem exec_isync {s : State} (h : s.windows = []) : exec .isync s = .next (withRecords s (unfinished s.stale)) := by
  show advance (closeWindows { s with stale := unfinished s.stale }) = _
  rw [closeWindows_settled (by exact h)]
  rfl

/-- Through push, sync, invalidate and sync every record of the block reaches its last stage. -/
theorem stages_finish {pa : Word} {s : State} {e : StaleWord} (hin : e.addr ∈ blockPlaces pa)
    (he : e ∈ (restaged syncPhase (restaged (invalidatePhase (blockAlign pa))
      (restaged syncPhase (restaged (pushPhase (blockAlign pa)) s)))).stale) : e.phase = .invalidatedSynced := by
  obtain ⟨d3, h3, rfl⟩ := mem_restaged.mp he
  obtain ⟨d2, h2, rfl⟩ := mem_restaged.mp h3
  obtain ⟨d1, h1, rfl⟩ := mem_restaged.mp h2
  obtain ⟨d, -, rfl⟩ := mem_restaged.mp h1
  have hblock : blockAlign d.addr = blockAlign pa := blockAlign_eq_iff.mpr hin
  cases hp : d.phase <;> simp [pushPhase, syncPhase, invalidatePhase, hblock, hp]

/-- The word of an address lies in its block. -/
theorem wordAlign_mem_blockPlaces {pa a : Word} (h : a.toNat / 32 = pa.toNat / 32) : wordAlign a ∈ blockPlaces pa := by
  have ha := a.isLt
  rw [mem_blockPlaces_iff, wordAlign_eq, BitVec.toNat_ofNat]
  omega

/-- Settles O46: the four instructions move every record of the block to its last stage, and isync ends those. -/
theorem codeModification : Obligations.CodeModification := by
  intro s rA rB pa hu hle hw ea hpa
  let s1 := restaged (pushPhase (blockAlign pa)) s
  let s2 := restaged syncPhase s1
  let s3 := restaged (invalidatePhase (blockAlign pa)) s2
  let s4 := restaged syncPhase s3
  let t := withRecords s4 (unfinished s4.stale)
  have h1 : RecordsOnly s s1 := restaged_only _ s
  have h2 : RecordsOnly s s2 := h1.trans (restaged_only _ s1)
  have h3 : RecordsOnly s s3 := h2.trans (restaged_only _ s2)
  have h4 : RecordsOnly s s4 := h3.trans (restaged_only _ s3)
  have ht : RecordsOnly s t := h4.trans (withRecords_only s4 _)
  obtain ⟨hea, hle2, hu2, htranslate⟩ := h2.access rA rB
  have hicbi : exec (.icbi rA rB) s2 = .next s3 :=
    exec_icbi ((hu2 _).trans hu) (hle2.trans hle) (by rw [hea, htranslate]; exact hpa)
  refine ⟨fetchWord_cases s, s1, s2, s3, s4, t, exec_dcbst hu hle hpa, exec_sync (h1.windows.trans hw), hicbi,
    exec_sync (h3.windows.trans hw), exec_isync (h4.windows.trans hw), fun a => (ht.memory a).1, fun a ha hno => ?_⟩
  obtain ⟨-, hword, hnomem⟩ := ht.memory a
  refine (fetchWord_settled (hnomem.trans hno) fun e he haddr => ?_).trans hword
  obtain ⟨he4, hphase⟩ := List.mem_filter.mp he
  have hlast := stages_finish (haddr ▸ wordAlign_mem_blockPlaces ha) he4
  rw [hlast] at hphase
  exact absurd hphase (by decide)

end Sys2Proof.Machine

end

section
/-!
SUPPORT. The encoding family: the decoder and the encoder, user mode, rotates, absent, privileged and invalid instructions,
and the step as a run of the instruction. The option below has each proof run in the order of the text, as in the sections
before.
-/
set_option deprecated.oldSectionVars true

/-!
SUPPORT. The fields of a word, its forms, the decoder's tables and the encoder (O56).
-/
namespace Sys2Proof.Machine

theorem extract_toNat {m : Nat} (w : BitVec m) (k n : Nat) :
    (w.extractLsb' k n).toNat = w.toNat / 2 ^ k % 2 ^ n := by
  rw [BitVec.extractLsb'_toNat, Nat.shiftRight_eq_div_pow]

theorem ofBool_toNat (b : Bool) : (BitVec.ofBool b).toNat = b.toNat := by cases b <;> rfl

theorem bit0_eq_iff (w : Word) (b : Bool) : w.getLsbD 0 = b ↔ w.toNat % 2 = b.toNat := by
  rw [← BitVec.testBit_toNat, Nat.testBit_zero]
  cases b <;> simp

theorem bit1_eq_iff (w : Word) (b : Bool) : w.getLsbD 1 = b ↔ w.toNat / 2 % 2 = b.toNat := by
  rw [← BitVec.testBit_toNat, Nat.testBit_succ, Nat.testBit_zero]
  cases b <;> simp

section
variable {op : BitVec 6} {a b c d e : BitVec 5} {last : Bool} {w : Word}

theorem encI_eq_iff {li : BitVec 24} {aa : Bool} :
    encI op li aa last = w ↔ opcd w = op ∧ w.extractLsb' 2 24 = li ∧ w.getLsbD 1 = aa ∧ w.getLsbD 0 = last := by
  have := Bool.toNat_le aa
  have := Bool.toNat_le last
  have := op.isLt
  have := li.isLt
  have := w.isLt
  simp only [bit0_eq_iff, bit1_eq_iff, ← BitVec.toNat_inj, encI, toNat_append_add, opcd, extract_toNat, ofBool_toNat]
  omega

theorem encB_eq_iff {bd : BitVec 14} {aa : Bool} :
    encB op a b bd aa last = w ↔
      opcd w = op ∧ fA w = a ∧ fB w = b ∧ w.extractLsb' 2 14 = bd ∧ w.getLsbD 1 = aa ∧ w.getLsbD 0 = last := by
  have := Bool.toNat_le aa
  have := Bool.toNat_le last
  have := op.isLt
  have := a.isLt
  have := b.isLt
  have := bd.isLt
  have := w.isLt
  simp only [bit0_eq_iff, bit1_eq_iff, ← BitVec.toNat_inj, encB, toNat_append_add, opcd, fA, fB, extract_toNat,
    ofBool_toNat]
  omega

theorem encD_eq_iff {imm : BitVec 16} :
    encD op a b imm = w ↔ opcd w = op ∧ fA w = a ∧ fB w = b ∧ fImm w = imm := by
  have := op.isLt
  have := a.isLt
  have := b.isLt
  have := imm.isLt
  have := w.isLt
  simp only [← BitVec.toNat_inj, encD, toNat_append_add, opcd, fA, fB, fImm, extract_toNat]
  omega

theorem encX_eq_iff {xo : BitVec 10} :
    encX op a b c xo last = w ↔
      opcd w = op ∧ fA w = a ∧ fB w = b ∧ fC w = c ∧ fXo w = xo ∧ w.getLsbD 0 = last := by
  have := Bool.toNat_le last
  have := op.isLt
  have := a.isLt
  have := b.isLt
  have := c.isLt
  have := xo.isLt
  have := w.isLt
  simp only [bit0_eq_iff, ← BitVec.toNat_inj, encX, toNat_append_add, opcd, fA, fB, fC, fXo, extract_toNat,
    ofBool_toNat]
  omega

theorem encXfx_eq_iff {bc xo : BitVec 10} :
    encXfx op a bc xo last = w ↔ opcd w = op ∧ fA w = a ∧ fBC w = bc ∧ fXo w = xo ∧ w.getLsbD 0 = last := by
  have := Bool.toNat_le last
  have := op.isLt
  have := a.isLt
  have := bc.isLt
  have := xo.isLt
  have := w.isLt
  simp only [bit0_eq_iff, ← BitVec.toNat_inj, encXfx, toNat_append_add, opcd, fA, fBC, fXo, extract_toNat, ofBool_toNat]
  omega

theorem encXfl_eq_iff {ab xo : BitVec 10} :
    encXfl op ab c xo last = w ↔ opcd w = op ∧ fAB w = ab ∧ fC w = c ∧ fXo w = xo ∧ w.getLsbD 0 = last := by
  have := Bool.toNat_le last
  have := op.isLt
  have := ab.isLt
  have := c.isLt
  have := xo.isLt
  have := w.isLt
  simp only [bit0_eq_iff, ← BitVec.toNat_inj, encXfl, toNat_append_add, opcd, fAB, fC, fXo, extract_toNat, ofBool_toNat]
  omega

/-- The OE bit is the top bit of the extended opcode of an X-form. -/
theorem encXO_eq_iff {xo : BitVec 9} {oe : Bool} :
    encXO op a b c oe xo last = w ↔
      opcd w = op ∧ fA w = a ∧ fB w = b ∧ fC w = c ∧ fXo w = BitVec.ofBool oe ++ xo ∧ w.getLsbD 0 = last := by
  have := Bool.toNat_le last
  have := Bool.toNat_le oe
  have := op.isLt
  have := a.isLt
  have := b.isLt
  have := c.isLt
  have := xo.isLt
  have := w.isLt
  simp only [bit0_eq_iff, ← BitVec.toNat_inj, encXO, toNat_append_add, opcd, fA, fB, fC, fXo, extract_toNat,
    ofBool_toNat]
  omega

theorem encA_eq_iff :
    encA op a b c d e last = w ↔
      opcd w = op ∧ fA w = a ∧ fB w = b ∧ fC w = c ∧ fD w = d ∧ fE w = e ∧ w.getLsbD 0 = last := by
  have := Bool.toNat_le last
  have := op.isLt
  have := a.isLt
  have := b.isLt
  have := c.isLt
  have := d.isLt
  have := e.isLt
  have := w.isLt
  simp only [bit0_eq_iff, ← BitVec.toNat_inj, encA, toNat_append_add, opcd, fA, fB, fC, fD, fE, extract_toNat,
    ofBool_toNat]
  omega

/- The decoder by primary opcode (R241 steps 1 and 2). -/

theorem decode_19 (h : opcd w = 19) : decode w = decode19 w := by
  unfold decode
  rw [h]
  rfl

theorem decode_31 (h : opcd w = 31) : decode w = decode31 w := by
  unfold decode
  rw [h]
  rfl

theorem decode_59 (h : opcd w = 59) : decode w = decode59 w := by
  unfold decode
  rw [h]
  rfl

theorem decode_63 (h : opcd w = 63) : decode w = decode63 w := by
  unfold decode
  rw [h]
  rfl

end

theorem reservedZero_ok {bad : Bool} {i j : Instr} (hbad : bad = false) (hi : i = j) : reservedZero bad i = .ok j := by
  rw [hbad, hi]
  rfl

/-- The field of an A-form's extended opcode is the low half of that of an X-form (R241 step 2). -/
theorem fE_eq (w : Word) : fE w = (fXo w).extractLsb' 0 5 := by
  apply BitVec.eq_of_toNat_eq
  simp only [fE, fXo, extract_toNat]
  omega

theorem sprSwap_toNat (n : BitVec 10) : (sprSwap n).toNat = n.toNat % 32 * 32 + n.toNat / 32 := by
  have := n.isLt
  simp only [sprSwap, toNat_append_add, extract_toNat, Nat.reducePow, Nat.div_one]
  omega

theorem sprSwap_sprSwap (n : BitVec 10) : sprSwap (sprSwap n) = n := by
  have := n.isLt
  apply BitVec.eq_of_toNat_eq
  rw [sprSwap_toNat, sprSwap_toNat]
  omega

/- Fields with reserved neighbours. -/

theorem eq_compareField_iff {x : BitVec 3} {l : BitVec 1} {a : BitVec 5} :
    a = x ++ (0 : BitVec 1) ++ l ↔ a.getLsbD 1 = false ∧ a.extractLsb' 2 3 = x ∧ a.extractLsb' 0 1 = l := by
  revert x l a
  decide

theorem eq_crField_iff {x : BitVec 3} {a : BitVec 5} :
    a = x ++ (0 : BitVec 2) ↔ a.extractLsb' 0 2 = 0 ∧ a.extractLsb' 2 3 = x := by
  revert x a
  decide

theorem eq_srField_iff {n : BitVec 4} {a : BitVec 5} :
    a = (0 : BitVec 1) ++ n ↔ a.getLsbD 4 = false ∧ a.extractLsb' 0 4 = n := by
  revert n a
  decide

theorem eq_immField_iff {imm : BitVec 4} {a : BitVec 5} :
    a = imm ++ (0 : BitVec 1) ↔ a.getLsbD 0 = false ∧ a.extractLsb' 1 4 = imm := by
  revert imm a
  decide

theorem eq_maskField_iff {m : BitVec 8} {a : BitVec 10} :
    a = (0 : BitVec 1) ++ m ++ (0 : BitVec 1) ↔
      a.getLsbD 9 = false ∧ a.getLsbD 0 = false ∧ a.extractLsb' 1 8 = m := by
  have htop : a.getLsbD 9 = decide (2 ^ 9 ≤ a.toNat) := by
    have := a.isLt
    rw [← BitVec.testBit_toNat, Nat.testBit_eq_decide_div_mod_eq]
    rw [decide_eq_decide]
    omega
  have hlow : a.getLsbD 0 = decide (a.toNat % 2 = 1) := by
    rw [← BitVec.testBit_toNat, Nat.testBit_zero]
  have := a.isLt
  have := m.isLt
  rw [htop, hlow]
  simp only [← BitVec.toNat_inj, toNat_append_add, extract_toNat, decide_eq_false_iff_not]
  simp
  omega

/-- The extended opcodes of opcode 63 that stand in I<26..30> (R268). -/
def aFormOpcodes : List Nat := [18, 20, 21, 22, 23, 25, 26, 28, 29, 30, 31]

theorem decode63_X {w : Word} (h : ∀ k ∈ aFormOpcodes, (fE w).toNat ≠ k) : decode63 w = decode63X w := by
  unfold decode63
  split
  case h_12 => rfl
  all_goals next hE => exact absurd hE (h _ (by decide))

theorem decode_63X {w : Word} {xo : BitVec 10} (hop : opcd w = 63) (hxo : fXo w = xo)
    (h : ∀ k ∈ aFormOpcodes, (xo.extractLsb' 0 5).toNat ≠ k) : decode w = decode63X w :=
  (decode_63 hop).trans (decode63_X (by rwa [fE_eq, hxo]))

theorem decode_encode (i : Instr) : decode (encode i) = .ok i := by
  generalize hw : encode i = w
  cases i with
  | twi | mulli | subfic | addic | addicRc | addi | addis | ori | oris | xori | xoris | andiRc | andisRc | lwz | lwzu
  | lbz | lbzu | stw | stwu | stb | stbu | lhz | lhzu | lha | lhau | sth | sthu | lmw | stmw | lfs | lfsu | lfd | lfdu
  | stfs | stfsu | stfd | stfdu =>
    obtain ⟨hop, rfl, rfl, rfl⟩ := encD_eq_iff.mp hw
    unfold decode
    rw [hop]
    rfl
  | cmpi crfD l | cmpli crfD l =>
    obtain ⟨hop, hA, rfl, rfl⟩ := encD_eq_iff.mp hw
    unfold decode
    rw [hop]
    obtain ⟨hbit, rfl, rfl⟩ := eq_compareField_iff.mp hA
    exact reservedZero_ok hbit rfl
  | bc =>
    obtain ⟨hop, rfl, rfl, rfl, rfl, rfl⟩ := encB_eq_iff.mp hw
    unfold decode
    rw [hop]
    rfl
  | sc =>
    obtain ⟨hop, hli, haa, h0⟩ := encI_eq_iff.mp hw
    unfold decode
    rw [hop]
    exact (if_pos haa).trans (reservedZero_ok (by rw [hli, h0]; rfl) rfl)
  | b =>
    obtain ⟨hop, rfl, rfl, rfl⟩ := encI_eq_iff.mp hw
    unfold decode
    rw [hop]
    rfl
  | rlwimi | rlwinm | rlwnm =>
    obtain ⟨hop, rfl, rfl, rfl, rfl, rfl, rfl⟩ := encA_eq_iff.mp hw
    unfold decode
    rw [hop]
    rfl
  | bclr | bcctr | rfi | isync | crnor | crandc | crxor | crnand | crand | creqv | crorc | cror =>
    obtain ⟨hop, hA, hB, hC, hxo, h0⟩ := encX_eq_iff.mp hw
    rw [decode_19 hop]
    unfold decode19
    rw [hxo]
    exact reservedZero_ok (by simp only [hA, hB, hC, h0, bne_self_eq_false, Bool.or_self]) (by simp only [hA, hB, hC, h0])
  | mcrf =>
    obtain ⟨hop, hA, hB, hC, hxo, h0⟩ := encX_eq_iff.mp hw
    obtain ⟨hlowA, rfl⟩ := eq_crField_iff.mp hA
    obtain ⟨hlowB, rfl⟩ := eq_crField_iff.mp hB
    rw [decode_19 hop]
    unfold decode19
    rw [hxo]
    exact reservedZero_ok (by rw [hlowA, hlowB, hC, h0]; rfl) rfl
  | add _ _ _ oe | addc _ _ _ oe | adde _ _ _ oe | subf _ _ _ oe | subfc _ _ _ oe | subfe _ _ _ oe | mullw _ _ _ oe
  | divw _ _ _ oe | divwu _ _ _ oe =>
    obtain ⟨hop, rfl, rfl, rfl, hxo, rfl⟩ := encXO_eq_iff.mp hw
    rw [decode_31 hop]
    unfold decode31
    rw [hxo]
    cases oe <;> rfl
  | neg _ _ oe | subfze _ _ oe | addze _ _ oe | subfme _ _ oe | addme _ _ oe =>
    obtain ⟨hop, rfl, rfl, hC, hxo, rfl⟩ := encXO_eq_iff.mp hw
    have hbad : (fC w != 0) = false := by rw [hC]; rfl
    rw [decode_31 hop]
    unfold decode31
    rw [hxo]
    cases oe <;> exact reservedZero_ok hbad rfl
  | mulhwu | mulhw =>
    obtain ⟨hop, rfl, rfl, rfl, hxo, rfl⟩ := encXO_eq_iff.mp hw
    rw [decode_31 hop]
    unfold decode31
    rw [hxo]
    rfl
  | slw | and | andc | nor | eqv | xor | orc | or | nand | srw | sraw | srawi | stwcxRc =>
    obtain ⟨hop, rfl, rfl, rfl, hxo, rfl⟩ := encX_eq_iff.mp hw
    rw [decode_31 hop]
    unfold decode31
    rw [hxo]
    rfl
  | stfiwx | eciwx | ecowx | tlbia =>
    obtain ⟨hop, hA, hB, hC, hxo, -⟩ := encX_eq_iff.mp hw
    rw [decode_31 hop]
    unfold decode31
    rw [hxo, hA, hB, hC]
    rfl
  | cntlzw | extsh | extsb | lwzx | lwzux | lbzx | lbzux | lhzx | lhzux | lhax | lhaux | stwx | stwux | stbx | stbux | sthx
  | sthux | lwbrx | lhbrx | stwbrx | sthbrx | lwarx | lswx | lswi | stswx | stswi | lfsx | lfsux | lfdx | lfdux | stfsx | stfsux
  | stfdx | stfdux | tw | mfcr | mfmsr | mtmsr | dcbst | dcbf | dcbtst | dcbt | dcbi | icbi | dcbz | mtsrin | mfsrin
  | tlbie | tlbld | tlbli | tlbsync | esa | dsa | sync | eieio =>
    obtain ⟨hop, hA, hB, hC, hxo, h0⟩ := encX_eq_iff.mp hw
    rw [decode_31 hop]
    unfold decode31
    rw [hxo]
    exact reservedZero_ok (by simp only [hA, hB, hC, h0, bne_self_eq_false, Bool.or_self]) (by simp only [hA, hB, hC, h0])
  | cmp | cmpl =>
    obtain ⟨hop, hA, rfl, rfl, hxo, h0⟩ := encX_eq_iff.mp hw
    obtain ⟨hbit, rfl, rfl⟩ := eq_compareField_iff.mp hA
    rw [decode_31 hop]
    unfold decode31
    rw [hxo]
    exact reservedZero_ok (by rw [hbit, h0]; rfl) rfl
  | mtsr | mfsr =>
    obtain ⟨hop, rfl, hB, hC, hxo, h0⟩ := encX_eq_iff.mp hw
    obtain ⟨hbit, rfl⟩ := eq_srField_iff.mp hB
    rw [decode_31 hop]
    unfold decode31
    rw [hxo]
    exact reservedZero_ok (by rw [hbit, hC, h0]; rfl) rfl
  | mcrxr =>
    obtain ⟨hop, hA, hB, hC, hxo, h0⟩ := encX_eq_iff.mp hw
    obtain ⟨hlow, rfl⟩ := eq_crField_iff.mp hA
    rw [decode_31 hop]
    unfold decode31
    rw [hxo]
    exact reservedZero_ok (by rw [hlow, hB, hC, h0]; rfl) rfl
  | mtcrf =>
    obtain ⟨hop, rfl, hBC, hxo, h0⟩ := encXfx_eq_iff.mp hw
    obtain ⟨htop, hlow, rfl⟩ := eq_maskField_iff.mp hBC
    rw [decode_31 hop]
    unfold decode31
    rw [hxo]
    exact reservedZero_ok (by rw [htop, hlow, h0]; rfl) rfl
  | mfspr | mftb | mtspr =>
    obtain ⟨hop, rfl, hBC, hxo, h0⟩ := encXfx_eq_iff.mp hw
    rw [decode_31 hop]
    unfold decode31
    rw [hxo]
    exact reservedZero_ok h0 (by rw [hBC, sprSwap_sprSwap])
  | fdivs | fsubs | fadds | fres | fmuls =>
    obtain ⟨hop, hA, hB, hC, hD, hE, h0⟩ := encA_eq_iff.mp hw
    rw [decode_59 hop]
    unfold decode59
    rw [hE]
    exact reservedZero_ok (by simp only [hB, hC, hD, bne_self_eq_false, Bool.or_self]) (by simp only [hA, hB, hC, hD, h0])
  | fmsubs | fmadds | fnmsubs | fnmadds | fsqrts =>
    obtain ⟨hop, hA, hB, hC, hD, hE, h0⟩ := encA_eq_iff.mp hw
    rw [decode_59 hop]
    unfold decode59
    rw [hE, hA, hB, hC, hD, h0]
    rfl
  | fdiv | fsub | fadd | fmul =>
    obtain ⟨hop, hA, hB, hC, hD, hE, h0⟩ := encA_eq_iff.mp hw
    rw [decode_63 hop]
    unfold decode63
    rw [hE]
    exact reservedZero_ok (by simp only [hC, hD, bne_self_eq_false]) (by simp only [hA, hB, hC, hD, h0])
  | fmsub | fmadd | fnmsub | fnmadd | fsel | fsqrt | frsqrte =>
    obtain ⟨hop, hA, hB, hC, hD, hE, h0⟩ := encA_eq_iff.mp hw
    rw [decode_63 hop]
    unfold decode63
    rw [hE, hA, hB, hC, hD, h0]
    rfl
  | fcmpu | fcmpo =>
    obtain ⟨hop, hA, rfl, rfl, hxo, h0⟩ := encX_eq_iff.mp hw
    obtain ⟨hlow, rfl⟩ := eq_crField_iff.mp hA
    rw [decode_63X hop hxo (by decide)]
    unfold decode63X
    rw [hxo]
    exact reservedZero_ok (by rw [hlow, h0]; rfl) rfl
  | mcrfs =>
    obtain ⟨hop, hA, hB, hC, hxo, h0⟩ := encX_eq_iff.mp hw
    obtain ⟨hlowA, rfl⟩ := eq_crField_iff.mp hA
    obtain ⟨hlowB, rfl⟩ := eq_crField_iff.mp hB
    rw [decode_63X hop hxo (by decide)]
    unfold decode63X
    rw [hxo]
    exact reservedZero_ok (by rw [hlowA, hlowB, hC, h0]; rfl) rfl
  | mtfsfi =>
    obtain ⟨hop, hA, hB, hC, hxo, rfl⟩ := encX_eq_iff.mp hw
    obtain ⟨hlow, rfl⟩ := eq_crField_iff.mp hA
    obtain ⟨hbit, rfl⟩ := eq_immField_iff.mp hC
    rw [decode_63X hop hxo (by decide)]
    unfold decode63X
    rw [hxo]
    exact reservedZero_ok (by rw [hlow, hB, hbit]; rfl) rfl
  | frsp | fctiw | fctiwz | fneg | fmr | fnabs | fabs | mtfsb1 | mtfsb0 | mffs =>
    obtain ⟨hop, hA, hB, hC, hxo, h0⟩ := encX_eq_iff.mp hw
    rw [decode_63X hop hxo (by decide)]
    unfold decode63X
    rw [hxo]
    exact reservedZero_ok (by simp only [hB, hC, bne_self_eq_false, Bool.or_self]) (by simp only [hA, hC, h0])
  | mtfsf =>
    obtain ⟨hop, hAB, rfl, hxo, rfl⟩ := encXfl_eq_iff.mp hw
    obtain ⟨htop, hlow, rfl⟩ := eq_maskField_iff.mp hAB
    rw [decode_63X hop hxo (by decide)]
    unfold decode63X
    rw [hxo]
    exact reservedZero_ok (by rw [htop, hlow]; rfl) rfl

/-- Each state takes the illegal-instruction exception on the instruction (R271, R756). -/
def Illegal (i : Instr) : Prop := ∀ s, Raises (exec i s) .program 0x00080000 s

/-- What a decoder's answer on `w` owes to `w`: an instruction is of that word, or is illegal. -/
def Faithful (w : Word) (r : Except DecodeError Instr) : Prop := ∀ i, r = .ok i → encode i = w ∨ Illegal i

section
variable {op : BitVec 6} {a b c d e : BitVec 5} {n : Nat} {bad last : Bool} {w : Word} {i : Instr}

theorem faithful_error (w : Word) (e : DecodeError) : Faithful w (.error e) := fun _ h => by cases h

theorem faithful_ok (h : encode i = w) : Faithful w (.ok i) := fun _ e => .inl (Except.ok.inj e ▸ h)

theorem faithful_illegal (h : Illegal i) : Faithful w (.ok i) := fun _ e => .inr (Except.ok.inj e ▸ h)

theorem faithful_reserved (h : bad = false → encode i = w) : Faithful w (reservedZero bad i) := by
  cases bad
  · exact faithful_ok (h rfl)
  · exact faithful_error w .invalidForm

theorem eq_ofNat_of_toNat {m n : Nat} {x : BitVec m} (h : x.toNat = n) : x = BitVec.ofNat m n := by
  rw [← h, BitVec.ofNat_toNat, BitVec.setWidth_eq]

theorem faithful_X (hop : opcd w = op) (hn : (fXo w).toNat = n)
    (h : bad = false → fA w = a ∧ fB w = b ∧ fC w = c ∧ w.getLsbD 0 = last)
    (hi : encode i = encX op a b c (BitVec.ofNat 10 n) last) : Faithful w (reservedZero bad i) :=
  faithful_reserved fun hb => by
    obtain ⟨hA, hB, hC, h0⟩ := h hb
    exact hi.trans (encX_eq_iff.mpr ⟨hop, hA, hB, hC, eq_ofNat_of_toNat hn, h0⟩)



theorem encXO_eq {xo : BitVec 9} {oe : Bool} :
    encXO op a b c oe xo last = encX op a b c (BitVec.ofBool oe ++ xo) last := by
  obtain ⟨hop, hA, hB, hC, hxo, h0⟩ := encX_eq_iff.mp (rfl : encX op a b c (BitVec.ofBool oe ++ xo) last = _)
  exact encXO_eq_iff.mpr ⟨hop, hA, hB, hC, hxo, h0⟩

theorem faithful_okX (hop : opcd w = op) (hn : (fXo w).toNat = n)
    (hi : encode i = encX op (fA w) (fB w) (fC w) (BitVec.ofNat 10 n) (w.getLsbD 0)) : Faithful w (.ok i) :=
  faithful_X (bad := false) hop hn (fun _ => ⟨rfl, rfl, rfl, rfl⟩) hi

theorem faithful_A (hop : opcd w = op) (hn : (fE w).toNat = n)
    (h : bad = false → fA w = a ∧ fB w = b ∧ fC w = c ∧ fD w = d ∧ w.getLsbD 0 = last)
    (hi : encode i = encA op a b c d (BitVec.ofNat 5 n) last) : Faithful w (reservedZero bad i) :=
  faithful_reserved fun hb => by
    obtain ⟨hA, hB, hC, hD, h0⟩ := h hb
    exact hi.trans (encA_eq_iff.mpr ⟨hop, hA, hB, hC, hD, eq_ofNat_of_toNat hn, h0⟩)

theorem faithful_okA (hop : opcd w = op) (hn : (fE w).toNat = n)
    (hi : encode i = encA op (fA w) (fB w) (fC w) (fD w) (BitVec.ofNat 5 n) (w.getLsbD 0)) : Faithful w (.ok i) :=
  faithful_A (bad := false) hop hn (fun _ => ⟨rfl, rfl, rfl, rfl, rfl⟩) hi

theorem faithful_Xfx {bc : BitVec 10} (hop : opcd w = op) (hn : (fXo w).toNat = n)
    (h : bad = false → fBC w = bc ∧ w.getLsbD 0 = last)
    (hi : encode i = encXfx op (fA w) bc (BitVec.ofNat 10 n) last) : Faithful w (reservedZero bad i) :=
  faithful_reserved fun hb => by
    obtain ⟨hBC, h0⟩ := h hb
    exact hi.trans (encXfx_eq_iff.mpr ⟨hop, rfl, hBC, eq_ofNat_of_toNat hn, h0⟩)

theorem faithful_D (hop : (opcd w).toNat = n)
    (hi : encode i = encD (BitVec.ofNat 6 n) (fA w) (fB w) (fImm w)) : Faithful w (.ok i) :=
  faithful_ok (hi.trans (encD_eq_iff.mpr ⟨eq_ofNat_of_toNat hop, rfl, rfl, rfl⟩))

theorem faithful_M (hop : (opcd w).toNat = n)
    (hi : encode i = encA (BitVec.ofNat 6 n) (fA w) (fB w) (fC w) (fD w) (fE w) (w.getLsbD 0)) : Faithful w (.ok i) :=
  faithful_ok (hi.trans (encA_eq_iff.mpr ⟨eq_ofNat_of_toNat hop, rfl, rfl, rfl, rfl, rfl, rfl⟩))

theorem decode31_faithful (hop : opcd w = 31) : Faithful w (decode31 w) := by
  unfold decode31
  dsimp only
  split
  · next hn => exact faithful_X hop hn (by simp +contextual) rfl
  split
  · next hn => exact faithful_X hop hn (by simp +contextual) rfl
  split
  · next hn => exact faithful_X hop hn (by simp +contextual) rfl
  split
  · next hn => exact faithful_X hop hn (by simp +contextual) rfl
  split
  -- rows with I<31> reserved only
  case h_2 hn | h_7 hn | h_8 hn | h_15 hn | h_20 hn | h_22 hn | h_29 hn | h_30 hn | h_34 hn | h_40 hn | h_43 hn
      | h_47 hn | h_50 hn | h_53 hn | h_54 hn | h_57 hn | h_68 hn | h_69 hn | h_70 hn | h_74 hn | h_77 hn | h_79 hn
      | h_81 hn | h_85 hn | h_86 hn | h_87 hn | h_88 hn | h_91 hn | h_92 hn | h_96 hn | h_98 hn | h_102 hn =>
    exact faithful_X hop hn (fun h0 => ⟨rfl, rfl, rfl, h0⟩) rfl
  -- rows with an Rc bit and no reserved one
  case h_9 hn | h_11 hn | h_16 hn | h_23 hn | h_28 hn | h_44 hn | h_48 hn | h_55 hn | h_58 hn | h_62 hn | h_71 hn
      | h_99 hn | h_100 hn =>
    exact faithful_okX hop hn rfl
  -- eciwx, tlbia, ecowx, stfiwx
  case h_46 hn | h_51 hn | h_56 hn | h_107 hn =>
    exact faithful_illegal fun _ => rfl
  -- the XO-form rows with two source registers
  case h_3 hn | h_4 hn | h_5 hn | h_13 hn | h_17 hn | h_24 hn | h_25 hn | h_37 hn | h_41 hn | h_59 hn | h_63 hn
      | h_65 hn | h_66 hn | h_72 hn | h_82 hn | h_83 hn | h_95 hn | h_97 hn | h_105 hn | h_108 hn =>
    exact faithful_okX hop hn encXO_eq
  -- cntlzw, extsh, extsb
  case h_10 hn | h_103 hn | h_104 hn =>
    exact faithful_X hop hn (fun hC => ⟨rfl, rfl, bne_eq_false_iff_eq.mp hC, rfl⟩) rfl
  -- the XO-form rows with one source register
  case h_21 hn | h_31 hn | h_32 hn | h_35 hn | h_36 hn | h_80 hn | h_89 hn | h_90 hn | h_93 hn | h_94 hn =>
    exact faithful_X hop hn (fun hC => ⟨rfl, rfl, bne_eq_false_iff_eq.mp hC, rfl⟩) encXO_eq
  -- rows with a reserved register field and I<31> reserved
  case h_6 hn | h_18 hn | h_27 hn | h_14 hn | h_19 hn | h_39 hn | h_42 hn | h_61 hn | h_106 hn | h_109 hn | h_38 hn
      | h_84 hn | h_45 hn | h_73 hn | h_78 hn | h_101 hn =>
    exact faithful_X hop hn (by simp +contextual) rfl
  -- cmp, cmpl
  case h_1 hn | h_12 hn =>
    refine faithful_X hop hn (fun hb => ?_) rfl
    obtain ⟨hbit, h0⟩ := Bool.or_eq_false_iff.mp hb
    exact ⟨eq_compareField_iff.mpr ⟨hbit, rfl, rfl⟩, rfl, rfl, h0⟩
  -- mtsr, mfsr
  case h_33 hn | h_76 hn =>
    refine faithful_X hop hn (fun hb => ?_) rfl
    simp only [Bool.or_eq_false_iff, bne_eq_false_iff_eq] at hb
    obtain ⟨⟨hbit, hC⟩, h0⟩ := hb
    exact ⟨rfl, eq_srField_iff.mpr ⟨hbit, rfl⟩, hC, h0⟩
  -- mcrxr
  case h_64 hn =>
    refine faithful_X hop hn (fun hb => ?_) rfl
    simp only [Bool.or_eq_false_iff, bne_eq_false_iff_eq] at hb
    obtain ⟨⟨⟨hlow, hB⟩, hC⟩, h0⟩ := hb
    exact ⟨eq_crField_iff.mpr ⟨hlow, rfl⟩, hB, hC, h0⟩
  -- mtcrf
  case h_26 hn =>
    refine faithful_Xfx hop hn (fun hb => ?_) rfl
    simp only [Bool.or_eq_false_iff] at hb
    obtain ⟨⟨htop, hlow⟩, h0⟩ := hb
    exact ⟨eq_maskField_iff.mpr ⟨htop, hlow, rfl⟩, h0⟩
  -- mfspr, mftb, mtspr
  case h_49 hn | h_52 hn | h_60 hn =>
    exact faithful_Xfx hop hn (fun h0 => ⟨(sprSwap_sprSwap _).symm, h0⟩) rfl
  case h_67 | h_75 | h_110 =>
    exact faithful_error _ _

theorem decode19_faithful (hop : opcd w = 19) : Faithful w (decode19 w) := by
  unfold decode19
  split
  -- mcrf
  case h_1 hn =>
    refine faithful_X hop hn (fun hb => ?_) rfl
    simp only [Bool.or_eq_false_iff, bne_eq_false_iff_eq] at hb
    obtain ⟨⟨⟨hlowA, hlowB⟩, hC⟩, h0⟩ := hb
    exact ⟨eq_crField_iff.mpr ⟨hlowA, rfl⟩, eq_crField_iff.mpr ⟨hlowB, rfl⟩, hC, h0⟩
  -- bclr, bcctr
  case h_2 hn | h_13 hn =>
    exact faithful_X hop hn (fun hC => ⟨rfl, rfl, bne_eq_false_iff_eq.mp hC, rfl⟩) rfl
  -- the operations on condition register bits
  case h_3 hn | h_5 hn | h_7 hn | h_8 hn | h_9 hn | h_10 hn | h_11 hn | h_12 hn =>
    exact faithful_X hop hn (fun h0 => ⟨rfl, rfl, rfl, h0⟩) rfl
  -- rfi, isync
  case h_4 hn | h_6 hn =>
    exact faithful_X hop hn (by simp +contextual) rfl
  case h_14 =>
    exact faithful_error _ _

theorem decode59_faithful (hop : opcd w = 59) : Faithful w (decode59 w) := by
  unfold decode59
  split
  -- fdivs, fsubs, fadds
  case h_1 hn | h_2 hn | h_3 hn =>
    exact faithful_A hop hn (fun hD => ⟨rfl, rfl, rfl, bne_eq_false_iff_eq.mp hD, rfl⟩) rfl
  -- fsqrts
  case h_4 =>
    exact faithful_illegal fun _ => rfl
  -- fres
  case h_5 hn =>
    exact faithful_A hop hn (by simp +contextual) rfl
  -- fmuls
  case h_6 hn =>
    exact faithful_A hop hn (fun hC => ⟨rfl, rfl, bne_eq_false_iff_eq.mp hC, rfl, rfl⟩) rfl
  -- the multiply-adds
  case h_7 hn | h_8 hn | h_9 hn | h_10 hn =>
    exact faithful_okA hop hn rfl
  case h_11 =>
    exact faithful_error _ _

theorem decode63X_faithful (hop : opcd w = 63) : Faithful w (decode63X w) := by
  unfold decode63X
  split
  -- fcmpu, fcmpo
  case h_1 hn | h_5 hn =>
    refine faithful_X hop hn (fun hb => ?_) rfl
    simp only [Bool.or_eq_false_iff, bne_eq_false_iff_eq] at hb
    obtain ⟨hlow, h0⟩ := hb
    exact ⟨eq_crField_iff.mpr ⟨hlow, rfl⟩, rfl, rfl, h0⟩
  -- mcrfs
  case h_8 hn =>
    refine faithful_X hop hn (fun hb => ?_) rfl
    simp only [Bool.or_eq_false_iff, bne_eq_false_iff_eq] at hb
    obtain ⟨⟨⟨hlowA, hlowB⟩, hC⟩, h0⟩ := hb
    exact ⟨eq_crField_iff.mpr ⟨hlowA, rfl⟩, eq_crField_iff.mpr ⟨hlowB, rfl⟩, hC, h0⟩
  -- the moves, frsp and the conversions to integer
  case h_2 hn | h_3 hn | h_4 hn | h_7 hn | h_10 hn | h_12 hn | h_13 hn =>
    exact faithful_X hop hn (fun hB => ⟨rfl, bne_eq_false_iff_eq.mp hB, rfl, rfl⟩) rfl
  -- mtfsb1, mtfsb0, mffs
  case h_6 hn | h_9 hn | h_14 hn =>
    exact faithful_X hop hn (by simp +contextual) rfl
  -- mtfsfi
  case h_11 hn =>
    refine faithful_X hop hn (fun hb => ?_) rfl
    simp only [Bool.or_eq_false_iff, bne_eq_false_iff_eq] at hb
    obtain ⟨⟨hlow, hB⟩, hbit⟩ := hb
    exact ⟨eq_crField_iff.mpr ⟨hlow, rfl⟩, hB, eq_immField_iff.mpr ⟨hbit, rfl⟩, rfl⟩
  -- mtfsf
  case h_15 hn =>
    refine faithful_reserved fun hb => encXfl_eq_iff.mpr ⟨hop, ?_, rfl, eq_ofNat_of_toNat hn, rfl⟩
    obtain ⟨htop, hlow⟩ := Bool.or_eq_false_iff.mp hb
    exact eq_maskField_iff.mpr ⟨htop, hlow, rfl⟩
  case h_16 =>
    exact faithful_error _ _

theorem decode63_faithful (hop : opcd w = 63) : Faithful w (decode63 w) := by
  unfold decode63
  split
  -- fdiv, fsub, fadd
  case h_1 hn | h_2 hn | h_3 hn =>
    exact faithful_A hop hn (fun hD => ⟨rfl, rfl, rfl, bne_eq_false_iff_eq.mp hD, rfl⟩) rfl
  -- fsqrt, frsqrte
  case h_4 | h_7 =>
    exact faithful_illegal fun _ => rfl
  -- fmul
  case h_6 hn =>
    exact faithful_A hop hn (fun hC => ⟨rfl, rfl, bne_eq_false_iff_eq.mp hC, rfl, rfl⟩) rfl
  -- fsel and the multiply-adds
  case h_5 hn | h_8 hn | h_9 hn | h_10 hn | h_11 hn =>
    exact faithful_okA hop hn rfl
  case h_12 =>
    exact decode63X_faithful hop

theorem decode_faithful (w : Word) : Faithful w (decode w) := by
  unfold decode
  split
  -- cmpli, cmpi
  case h_4 hn | h_5 hn =>
    exact faithful_reserved fun hbit =>
      encD_eq_iff.mpr ⟨eq_ofNat_of_toNat hn, eq_compareField_iff.mpr ⟨hbit, rfl, rfl⟩, rfl, rfl⟩
  -- bc
  case h_10 hn =>
    exact faithful_ok (encB_eq_iff.mpr ⟨eq_ofNat_of_toNat hn, rfl, rfl, rfl, rfl, rfl⟩)
  -- sc
  case h_11 hn =>
    split
    · next haa =>
      refine faithful_reserved fun hb => ?_
      obtain ⟨hli, h0⟩ := Bool.or_eq_false_iff.mp hb
      exact encI_eq_iff.mpr ⟨eq_ofNat_of_toNat hn, bne_eq_false_iff_eq.mp hli, haa, h0⟩
    · exact faithful_error _ _
  -- b
  case h_12 hn =>
    exact faithful_ok (encI_eq_iff.mpr ⟨eq_ofNat_of_toNat hn, rfl, rfl, rfl⟩)
  -- rlwimi, rlwinm, rlwnm
  case h_13 hn | h_14 hn | h_15 hn =>
    exact faithful_M hn rfl
  case h_46 hn =>
    exact decode19_faithful (eq_ofNat_of_toNat hn)
  case h_47 hn =>
    exact decode31_faithful (eq_ofNat_of_toNat hn)
  case h_48 hn =>
    exact decode59_faithful (eq_ofNat_of_toNat hn)
  case h_49 hn =>
    exact decode63_faithful (eq_ofNat_of_toNat hn)
  case h_50 =>
    exact faithful_error _ _
  -- the D-form rows
  all_goals next hn => exact faithful_D hn rfl

end

theorem encode_injective {i j : Instr} (h : encode i = encode j) : i = j :=
  Except.ok.inj ((decode_encode i).symm.trans ((congrArg decode h).trans (decode_encode j)))

/-- Settles O56: each form's fields determine its word, so decoding inverts the encoder and the encoder is injective;
row by row of the decoder's tables, a word that decodes is the encoder's or of an instruction the 602 lacks. -/
theorem decodeEncode : Obligations.DecodeEncode :=
  ⟨fun i _ => decode_encode i, fun _ _ _ _ h => encode_injective h,
    fun w i hi hne => (decode_faithful w i hi).resolve_left hne⟩

end Sys2Proof.Machine

/-!
What an instruction run in user mode can change (O60).
-/
namespace Sys2Proof.Machine

/- What an instruction of a user may change. -/

/-- `s` with the user-level registers, memory and the records beside it of `t`. -/
def State.withUserOf (s t : State) : State :=
  { s with cia := t.cia, gpr := t.gpr, tgpr := t.tgpr, fpr := t.fpr, sp := t.sp, lt := t.lt, cr := t.cr
           xer := t.xer, lr := t.lr, ctr := t.ctr, fpscr := t.fpscr, reserve := t.reserve, mem := t.mem
           stale := t.stale, cached := t.cached, amid := t.amid, teaNext := t.teaNext
           teaUnrecognised := t.teaUnrecognised }

/-- `t` is `s` but for what a user may change. -/
def UserSide (s t : State) : Prop := t = s.withUserOf t

/-- `t` is `s` but for what a user may change and the registers that report a stopped access. -/
def ReportSide (s t : State) : Prop :=
  t = { s.withUserOf t with dsisr := t.dsisr, dar := t.dar, dmiss := t.dmiss, missIsData := t.missIsData }

/-- `t` is `s` after an exception: only what a user may change and what an exception writes differ, and the machine is in
supervisor mode with interrupts and translation off. -/
def Trapped (s t : State) : Prop :=
  (∃ e, t.taken = some e) ∧ t.msr &&& 0x0080C030 = 0 ∧
    t = { s.withUserOf t with
          msr := t.msr, srr0 := t.srr0, srr1 := t.srr1, dsisr := t.dsisr, dar := t.dar, dmiss := t.dmiss
          missIsData := t.missIsData, taken := t.taken, power := .full, powPending := none, deferred := []
          windows := [] }

theorem UserSide.refl (s : State) : UserSide s s := rfl

theorem UserSide.trans {s t u : State} (h : UserSide s t) (h' : UserSide t u) : UserSide s u :=
  Eq.trans h' (congrArg (·.withUserOf u) h)

theorem MemorySide.userSide {s t : State} (h : MemorySide s t) : UserSide s t := by
  obtain ⟨⟨m, c, l, n, u, a, r, rfl⟩, -, -⟩ := h
  exact rfl

section
variable {s u : State} (h : UserSide s u)
include h

theorem UserSide.memorySide {t : State} (hm : MemorySide u t) : UserSide s t := h.trans hm.userSide

theorem UserSide.writeGpr (r : Reg) (v : Word) : UserSide s (u.writeGpr r v) := by
  refine h.trans ?_
  unfold State.writeGpr
  split <;> exact rfl

theorem UserSide.writeGprs (r : Reg) (vs : List Word) : UserSide s (writeGprs u r vs) := by
  refine h.trans ?_
  rw [writeGprs_rest]
  exact rfl

theorem UserSide.writeFpr (r : Reg) (v : Word) (b : Bool) : UserSide s (u.writeFpr r v b) := h.trans rfl

theorem UserSide.setCrField (n : BitVec 3) (v : BitVec 4) : UserSide s (setCrField u n v) := h.trans rfl

theorem UserSide.setCrBit (k : BitVec 5) (b : Bool) : UserSide s (setCrBit u k b) := h.trans rfl

theorem UserSide.recordCr0 (rc : Bool) (r : Word) : UserSide s (recordCr0 rc r u) := by
  cases rc
  · exact h
  · exact h.setCrField ..

theorem UserSide.recordCr1 (rc : Bool) : UserSide s (recordCr1 rc u) := by
  cases rc
  · exact h
  · exact h.setCrField ..

theorem UserSide.withCarry (ca : Bool) : UserSide s (withCarry u ca) := h.trans rfl

theorem UserSide.withOverflow (oe ov : Bool) : UserSide s (withOverflow oe ov u) := by
  cases oe
  · exact h
  · exact h.trans rfl

theorem UserSide.updateBase (base : Option Reg) (ea : Word) : UserSide s (updateBase u base ea) := by
  cases base with
  | none => exact h
  | some rA => exact h.writeGpr rA ea

theorem UserSide.branchTo (taken lk : Bool) (a : Word) : UserSide s (branchTo u taken lk a) := h.trans rfl

theorem UserSide.report : ReportSide s u := by
  rw [h]
  exact rfl

theorem UserSide.reportDsi (v a : Word) : ReportSide s { u with dsisr := v, dar := a } := by
  rw [h]
  exact rfl

theorem UserSide.reportMiss (a : Word) : ReportSide s { u with dmiss := a, missIsData := true } := by
  rw [h]
  exact rfl

end

/- Taking an exception. -/

/-- The entry image of MSR turns off AP, EE, PR, IR and DR. -/
theorem entryMsr_supervisor (e : Exception) (old : Word) : entryMsr e old &&& 0x0080C030 = 0 := by
  have hkept : (old &&& (if e = .machineCheck then msrEntryKeep &&& ~~~msrME else msrEntryKeep)) &&&
      ~~~0xFF7F3FCF = 0 := by
    refine outside_and_right ?_
    split <;> decide
  exact outside_or (m := 0xFF7F3FCF) (outside_or hkept (outside_maskIf _ rfl)) (outside_maskIf _ rfl)

/-- The two interrupts whose entry clears a latch are taken between instructions only. -/
def Exception.clearsLatch : Exception → Bool
  | .decrementer | .watchdog => true
  | _ => false

theorem ReportSide.takeException {s u : State} (h : ReportSide s u) {e : Exception} (he : e.clearsLatch = false)
    (a info : Word) : Trapped s (takeException e a info u) := by
  have hdec : (e != .decrementer) = true := bne_iff_ne.mpr (by rintro rfl; cases he)
  have hwdt : (e != .watchdog) = true := bne_iff_ne.mpr (by rintro rfl; cases he)
  refine ⟨⟨e, rfl⟩, entryMsr_supervisor e u.msr, ?_⟩
  have hd : u.decPending = s.decPending := by rw [h]; rfl
  have hw : u.wdtPending = s.wdtPending := by rw [h]; rfl
  rw [takeException_rest, hdec, hwdt, Bool.and_true, Bool.and_true]
  rw [h]
  rfl

/- Outcomes. -/

/-- If the outcome is a next state, only what a user may change differs, or an exception was taken. -/
def ConfinedOut (s : State) : Out → Prop
  | .next t => UserSide s t ∨ Trapped s t
  | .fault _ => True
  | .refused _ => True

/-- If a part of an instruction ends it, then with a confined outcome. -/
def ConfinedTry {α : Type} (s : State) : Try α → Prop
  | .ok _ => True
  | .error o => ConfinedOut s o

section
variable {s u : State} {α β : Type}

theorem ConfinedOut.fault (f : Fault) : ConfinedOut s (.fault f) := trivial

theorem ConfinedOut.refused (r : Refusal) : ConfinedOut s (.refused r) := trivial

theorem ConfinedTry.ok (a : α) : ConfinedTry s (.ok a : Try α) := trivial

theorem ConfinedTry.error {o : Out} (h : ConfinedOut s o) : ConfinedTry s (.error o : Try α) := h

theorem ConfinedTry.require {b : Bool} {o : Out} (h : ConfinedOut s o) : ConfinedTry s (require b o) := by
  cases b
  · exact .error h
  · exact .ok ()

theorem ConfinedTry.proceed {x : Try α} {k : α → Out} (hx : ConfinedTry s x)
    (hk : ∀ a, x = .ok a → ConfinedOut s (k a)) :
    ConfinedOut s (proceed x k) := by
  cases x with
  | ok a => exact hk a rfl
  | error o => exact hx

theorem ConfinedTry.bind {x : Try α} {f : α → Try β} (hx : ConfinedTry s x) (hf : ∀ a, ConfinedTry s (f a)) :
    ConfinedTry s (x >>= f) := by
  cases x with
  | ok a => exact hf a
  | error o => exact hx

theorem UserSide.next (h : UserSide s u) : ConfinedOut s (.next u) := .inl h

theorem UserSide.advance (h : UserSide s u) : ConfinedOut s (advance u) := .inl (h.trans rfl)

theorem ReportSide.raise (h : ReportSide s u) {e : Exception} (info : Word) (he : e.clearsLatch = false := by rfl) :
    ConfinedOut s (raise e info u) := .inr (h.takeException he ..)

theorem UserSide.raise (h : UserSide s u) {e : Exception} (info : Word) (he : e.clearsLatch = false := by rfl) :
    ConfinedOut s (raise e info u) := h.report.raise info he

theorem UserSide.takeAlignment (h : UserSide s u) (w : Word) (rS rA : Bool) (ea : Word) :
    ConfinedOut s (takeAlignment u w rS rA ea) := (h.reportDsi ..).raise 0

theorem UserSide.outcome (h : UserSide s u) (e : AccessStop) : ConfinedOut s (e.outcome u) := by
  cases e with
  | dsi p d st ea => exact .inr ((h.reportDsi ..).takeException rfl ..)
  | miss st k ea =>
    refine .inr ((h.reportMiss ea).takeException ?_ ..)
    cases st <;> rfl
  | fault f => exact .fault f

end

/- Guards, in the state an instruction begins in. -/

section
variable {s : State}

theorem raise_confined (s : State) {e : Exception} (info : Word) (he : e.clearsLatch = false := by rfl) :
    ConfinedOut s (raise e info s) := (UserSide.refl s).raise info he

theorem guardForm_confined (ok : Bool) : ConfinedTry s (guardForm ok) := .require (.fault _)

theorem withGprs_confined {rs : List Reg} {o : Out} (h : ConfinedOut s o) : ConfinedOut s (withGprs s rs o) :=
  ConfinedTry.proceed (.require (.fault _)) fun _ _ => h

theorem guardFp_confined : ConfinedTry s (guardFp s) := .require (raise_confined s 0)

theorem guardSingles_confined (rs : List Reg) : ConfinedTry s (guardSingles s rs) := by
  induction rs with
  | nil => exact .ok ()
  | cons r rest ih =>
    unfold guardSingles
    split_ifs
    · exact ih
    · exact .error (.refused _)
    · exact .error (.fault _)

theorem guardTagged_confined (r : Reg) : ConfinedTry s (guardTagged s r) := .require (.fault _)

theorem guardDenormal_confined (ws : List Word) : ConfinedTry s (guardDenormal s ws) := by
  unfold guardDenormal
  split
  · split
    · exact .error (raise_confined s 0)
    · exact .ok ()
  · exact .ok ()

theorem guardArith_confined (rs : List Reg) : ConfinedTry s (guardArith s rs) :=
  guardFp_confined.bind fun _ => (guardSingles_confined rs).bind fun _ => guardDenormal_confined _

theorem guardCompare_confined (frA frB : Reg) : ConfinedTry s (guardCompare s frA frB) :=
  guardFp_confined.bind fun _ => guardSingles_confined _

theorem guardWordAligned_confined (w : Word) (b : Bool) (ea : Word) : ConfinedTry s (guardWordAligned s w b ea) :=
  .require ((UserSide.refl s).takeAlignment ..)

theorem guardBigEndian_confined (w : Word) (b bad : Bool) (ea : Word) :
    ConfinedTry s (guardBigEndian s w b bad ea) := by
  unfold guardBigEndian
  split
  · refine .error ?_
    split
    · exact (UserSide.refl s).takeAlignment ..
    · exact .refused _
  · exact .ok ()

theorem orStop_confined {α : Type} (x : Except AccessStop α) : ConfinedTry s (orStop s x) := by
  cases x with
  | ok a => exact .ok a
  | error e => exact .error ((UserSide.refl s).outcome e)

theorem tryStore_confined (ea : Word) (n : Nat) (v : Word) : ConfinedTry s (tryStore s ea n v) := by
  unfold tryStore
  split
  · exact .ok _
  · next e t hs => exact .error ((storeData_memorySide.2 e t hs).userSide.outcome e)

end

/- The last steps that instructions share. -/

section
variable {s u : State} (h : UserSide s u)
include h

theorem finishInt_confined (rc : Bool) (rD : Reg) (v : Word) : ConfinedOut s (finishInt rc rD v u) :=
  (h.recordCr0 rc v).advance

theorem resultInto_confined (rc : Bool) (rA : Reg) (v : Word) : ConfinedOut s (resultInto rc rA v u) :=
  finishInt_confined (h.writeGpr ..) ..

theorem sumInto_confined (carry oe rc : Bool) (rD : Reg) (x y : Word) (c : Bool) :
    ConfinedOut s (sumInto carry oe rc rD x y c u) := by
  refine finishInt_confined (UserSide.withOverflow ?_ ..) rc rD _
  cases carry
  · exact h.writeGpr ..
  · exact (h.writeGpr ..).withCarry _

theorem quotient_confined (undefined : Prop) [Decidable undefined] (oe rc : Bool) (rD : Reg) (free crFree v : Word) :
    ConfinedOut s (if undefined then undefinedQuotient oe rc rD free crFree u
      else finishInt rc rD v (withOverflow oe false (u.writeGpr rD v))) := by
  split
  · have ht : UserSide s (withOverflow oe true (u.writeGpr rD free)) := (h.writeGpr ..).withOverflow ..
    refine UserSide.advance ?_
    cases rc
    · exact ht
    · exact ht.setCrField ..
  · exact finishInt_confined ((h.writeGpr ..).withOverflow ..) ..

theorem shiftRightAlgebraic_confined (rc : Bool) (rA : Reg) (v : Word) (n : Nat) :
    ConfinedOut s (shiftRightAlgebraic rc rA v n u) :=
  finishInt_confined ((h.writeGpr ..).withCarry _) rc rA _

theorem trapIf_confined (b : Bool) : ConfinedOut s (trapIf u b) := by
  cases b
  · exact h.advance
  · exact h.raise _

theorem moveFp_confined (rc : Bool) : ConfinedOut s (moveFp rc u) := (h.recordCr1 rc).advance

theorem finishFp_confined (rc : Bool) (f : Word) : ConfinedOut s (finishFp u rc f) := by
  have hf : UserSide s { u with fpscr := fpNormalize f } := h.trans rfl
  have ht := hf.recordCr1 rc
  unfold finishFp
  dsimp only
  split
  · exact ht.raise _
  · exact ht.advance

theorem deliverFp_confined (frD : Reg) (rc : Bool) (w : Word) (fr fi : Bool) (f : Word) :
    ConfinedOut s (deliverFp u frD rc w fr fi f) := finishFp_confined (h.writeFpr ..) ..

theorem deliverNi_confined (frD : Reg) (rc : Bool) (w f : Word) : ConfinedOut s (deliverNi u frD rc w f) :=
  deliverFp_confined h ..

theorem deliverRaw_confined (frD : Reg) (rc negate : Bool) (a b c : Word) (x : FpRaw) :
    ConfinedOut s (deliverRaw u frD rc negate a b c x) := by
  have hfp := deliverFp_confined h frD rc
  have hni := deliverNi_confined h frD rc
  unfold deliverRaw
  dsimp only
  split
  · split
    · exact finishFp_confined h ..
    · split
      · exact hni ..
      · exact hfp ..
      · exact hfp ..
  · split
    · split
      · exact finishFp_confined h ..
      · split
        · exact hni ..
        · exact hfp ..
        · exact hfp ..
    · split
      · exact hfp ..
      · split
        · split
          · exact hni ..
          · exact h.raise _
        · split
          · exact hfp ..
          · split
            · exact hfp ..
            · split
              · exact hni ..
              · exact hfp ..

theorem deliverRounded_confined (frD : Reg) (rc : Bool) (w : Word) : ConfinedOut s (deliverRounded u frD rc w) := by
  unfold deliverRounded
  dsimp only
  split_ifs
  · exact finishFp_confined h ..
  · split
    · exact deliverNi_confined h ..
    · exact deliverFp_confined h ..
  · split
    · exact deliverNi_confined h ..
    · exact h.raise _
  · exact deliverFp_confined h ..

theorem deliverInt_confined (frD : Reg) (rc : Bool) (w : Word) (x : FpInt) :
    ConfinedOut s (deliverInt u frD rc w x) := by
  unfold deliverInt
  dsimp only
  split
  · exact finishFp_confined h ..
  · split <;> exact finishFp_confined (h.writeFpr ..) ..

theorem deliverCompare_confined (crfD : BitVec 3) (c : BitVec 4) (invalid : Word) :
    ConfinedOut s (deliverCompare u crfD c invalid) := finishFp_confined (h.setCrField ..) ..

end

/- Loads and stores. -/

section
variable {s : State} (w : Word) (named : List Reg) (ea : Word)

theorem loadInt_confined (n : Nat) (conv : Word → Word) (rD : Reg) (base : Option Reg) :
    ConfinedOut s (loadInt s w named ea n conv rD base) :=
  withGprs_confined <| (guardBigEndian_confined ..).proceed fun _ _ => (orStop_confined _).proceed fun (_, _) hl =>
    (((loadData_memorySide (orStop_eq_ok hl)).userSide.writeGpr ..).updateBase ..).advance

theorem storeInt_confined (n : Nat) (v : Word) (base : Option Reg) :
    ConfinedOut s (storeInt s w named ea n v base) :=
  withGprs_confined <| (guardBigEndian_confined ..).proceed fun _ _ => (tryStore_confined ..).proceed fun _ hs =>
    ((tryStore_ok hs).userSide.updateBase ..).advance

theorem loadSingleFp_confined (frD : Reg) (base : Option Reg) :
    ConfinedOut s (loadSingleFp s w named ea frD base) :=
  guardFp_confined.proceed fun _ _ => withGprs_confined <| (guardWordAligned_confined ..).proceed fun _ _ =>
    (guardBigEndian_confined ..).proceed fun _ _ => (orStop_confined _).proceed fun (_, _) hl =>
      (((loadData_memorySide (orStop_eq_ok hl)).userSide.writeFpr ..).updateBase ..).advance

theorem loadDoubleFp_confined (frD : Reg) (base : Option Reg) :
    ConfinedOut s (loadDoubleFp s w named ea frD base) := by
  refine guardFp_confined.proceed fun _ _ => withGprs_confined <| (guardWordAligned_confined ..).proceed fun _ _ =>
    (guardBigEndian_confined ..).proceed fun _ _ => (orStop_confined _).proceed fun (v, t) hl => ?_
  have ht : UserSide s t := (loadDouble_memorySide (orStop_eq_ok hl)).userSide
  dsimp only
  split
  · exact ((ht.writeFpr ..).updateBase ..).advance
  · exact ht.raise _

theorem storeSingleFp_confined (frS : Reg) (base : Option Reg) :
    ConfinedOut s (storeSingleFp s w named ea frS base) :=
  guardFp_confined.proceed fun _ _ => withGprs_confined <| (guardSingles_confined _).proceed fun _ _ =>
    (guardWordAligned_confined ..).proceed fun _ _ => (guardBigEndian_confined ..).proceed fun _ _ =>
      (tryStore_confined ..).proceed fun _ hs => ((tryStore_ok hs).userSide.updateBase ..).advance

theorem storeDoubleFp_confined (frS : Reg) (base : Option Reg) :
    ConfinedOut s (storeDoubleFp s w named ea frS base) :=
  guardFp_confined.proceed fun _ _ => withGprs_confined <| (guardTagged_confined _).proceed fun _ _ =>
    (guardWordAligned_confined ..).proceed fun _ _ => (guardBigEndian_confined ..).proceed fun _ _ =>
      (orStop_confined _).proceed fun _ hs =>
        ((storeDouble_memorySide (orStop_eq_ok hs)).userSide.updateBase ..).advance

theorem blockAccess_confined (store : Bool) {k : Word → Out} (hk : ∀ pa, ConfinedOut s (k pa)) :
    ConfinedOut s (blockAccess s w named ea store k) :=
  withGprs_confined <| (guardBigEndian_confined ..).proceed fun _ _ => (orStop_confined _).proceed fun pa _ => hk pa

end

/- The numbers of the special registers (spec/10_state.md R70). -/

theorem number_of_sprOfNumber {n : BitVec 10} {r : Spr} (h : sprOfNumber n.toNat = some r) : r.number = n := by
  unfold sprOfNumber at h
  split at h
  case h_50 => cases h
  all_goals
    next hn =>
    cases h
    exact (eq_ofNat_of_toNat hn).symm

/-- The registers whose numbers mark no supervisor register (R256). -/
theorem sprOfNumber_user {n : BitVec 10} {r : Spr} (h : sprOfNumber n.toNat = some r)
    (hn : sprIsSupervisor n = false) : r = .xer ∨ r = .lr ∨ r = .ctr := by
  obtain rfl := number_of_sprOfNumber h
  cases r with
  | xer => exact .inl rfl
  | lr => exact .inr (.inl rfl)
  | ctr => exact .inr (.inr rfl)
  | sprg k => revert k; decide
  | ibat k => revert k; decide
  | dbat k => revert k; decide
  | _ => cases hn

/- Instructions with steps of their own. -/

section
variable (s : State)

theorem execLmw_confined (rD rA : Reg) (d : BitVec 16) : ConfinedOut s (execLmw rD rA d s) := by
  refine (guardForm_confined _).proceed fun _ _ => withGprs_confined <| (guardWordAligned_confined ..).proceed fun _ _ =>
    (guardBigEndian_confined ..).proceed fun _ _ => ?_
  have hr := (loadRun_memorySide s (eaD s rA d) 4 (32 - rD.toNat)).userSide
  dsimp only
  split
  · exact (hr.writeGprs ..).advance
  · exact (hr.writeGprs ..).outcome _

theorem execStmw_confined (rS rA : Reg) (d : BitVec 16) : ConfinedOut s (execStmw rS rA d s) := by
  refine withGprs_confined <| (guardWordAligned_confined ..).proceed fun _ _ =>
    (guardBigEndian_confined ..).proceed fun _ _ => ?_
  dsimp only
  split
  · exact (storeWords_memorySide ..).userSide.advance
  · exact (storeWords_memorySide ..).userSide.outcome _

theorem execLwarx_confined (rD rA rB : Reg) : ConfinedOut s (execLwarx rD rA rB s) := by
  refine withGprs_confined <| (guardWordAligned_confined ..).proceed fun _ _ =>
    (guardBigEndian_confined ..).proceed fun _ _ => (orStop_confined _).proceed fun pa _ => UserSide.advance ?_
  have ht := (loadAt_memorySide s (eaX s rA rB) 4 [pa]).userSide.writeGpr rD ((loadAt s (eaX s rA rB) 4 [pa]).1.getD 0 0)
  exact ht.trans rfl

theorem execStwcxRc_confined (rS rA rB : Reg) (rc : Bool) : ConfinedOut s (execStwcxRc rS rA rB rc s) := by
  refine (guardForm_confined _).proceed fun _ _ => withGprs_confined <| (guardWordAligned_confined ..).proceed fun _ _ =>
    (guardBigEndian_confined ..).proceed fun _ _ => (orStop_confined _).proceed fun pa _ => UserSide.advance ?_
  have ht : UserSide s (if conditionalStoreSucceeds s pa then writePhys s pa 4 (s.readGpr rS) else s) := by
    split
    · exact (writePhys_memorySide ..).userSide
    · exact .refl s
  exact ht.trans rfl

theorem execDcbz_confined (rA rB : Reg) : ConfinedOut s (execDcbz rA rB s) := by
  refine withGprs_confined <| (guardBigEndian_confined ..).proceed fun _ _ => (orStop_confined _).proceed fun m _ => ?_
  split
  · exact (UserSide.refl s).takeAlignment ..
  · exact (orStop_confined _).proceed fun _ _ => (writeBlock_memorySide ..).userSide.advance

theorem invalidSpr_confined (n : BitVec 10) : ConfinedOut s (invalidSpr s n) := by
  unfold invalidSpr
  split <;> exact raise_confined s _

theorem execMfspr_confined (rD : Reg) (spr : BitVec 10) : ConfinedOut s (execMfspr rD spr s) := by
  unfold execMfspr
  split
  · exact invalidSpr_confined s _
  · split
    · exact invalidSpr_confined s _
    · split
      · exact raise_confined s _
      · exact withGprs_confined ((UserSide.refl s).writeGpr ..).advance

theorem execMftb_confined (rD : Reg) (tbr : BitVec 10) : ConfinedOut s (execMftb rD tbr s) := by
  unfold execMftb
  split_ifs
  · exact withGprs_confined ((UserSide.refl s).writeGpr ..).advance
  · exact withGprs_confined ((UserSide.refl s).writeGpr ..).advance
  · exact raise_confined s _

theorem writeSpr_user {s t : State} {v : Word} {r : Spr} (hw : writeSpr s v r = some t)
    (hr : r = .xer ∨ r = .lr ∨ r = .ctr) : UserSide s t := by
  rcases hr with rfl | rfl | rfl <;> cases Option.some.inj hw <;> exact rfl

theorem execMtspr_confined (hs : s.prView = true) (rS : Reg) (spr : BitVec 10) : ConfinedOut s (execMtspr rS spr s) := by
  unfold execMtspr
  split
  · exact invalidSpr_confined s _
  · next r hr =>
    split
    · exact invalidSpr_confined s _
    · next t ht =>
      split
      · exact raise_confined s _
      · next hn =>
        have hn : sprIsSupervisor spr = false := by simpa [hs] using hn
        exact withGprs_confined (writeSpr_user ht (sprOfNumber_user hr hn)).advance

end

theorem execEsa_confined {s t : State} (ht : s.taken = none) (h : execEsa s = .next t) :
    Trapped s t ∨ t.taken = none ∧ esaPermitted s = true := by
  unfold execEsa at h
  split at h
  · next hp =>
    cases Host.Outcome.next.inj h
    exact .inr ⟨ht, hp⟩
  · cases Host.Outcome.next.inj h
    exact .inl ((UserSide.refl s).report.takeException rfl ..)

/-- Each instruction is confined in user mode but for a permitted `esa`, and for what `isync` and `sync` say of old
contexts: one case for each of the last steps that instructions share. -/
theorem exec_confined {s : State} (hs : s.prView = true) (i : Instr) (hesa : i ≠ .esa) (hisync : i ≠ .isync)
    (hsync : i ≠ .sync) : ConfinedOut s (exec i s) := by
  have h := UserSide.refl s
  have hpriv {k : Unit → Out} : ConfinedOut s (proceed (guardSupervisor s) k) := by
    rw [guardSupervisor_user hs]
    exact raise_confined s _
  cases i with
  | esa => contradiction
  | isync => contradiction
  | sync => contradiction
  | addi | addis | mulli | mfcr => exact withGprs_confined (h.writeGpr ..).advance
  | add | subf | addic | addicRc | subfic | addc | subfc | adde | subfe | addme | subfme | addze | subfze =>
    exact withGprs_confined (sumInto_confined h ..)
  | neg rD | mullw rD => exact withGprs_confined (finishInt_confined ((h.writeGpr ..).withOverflow ..) _ rD _)
  | mulhw rD | mulhwu rD => exact withGprs_confined (finishInt_confined (h.writeGpr ..) _ rD _)
  | divw rD | divwu rD => exact withGprs_confined (quotient_confined h _ _ _ rD ..)
  | cmpi | cmp | cmpli | cmpl =>
    exact (guardForm_confined _).proceed fun _ _ => withGprs_confined (h.setCrField ..).advance
  | andiRc | andisRc | ori | oris | xori | xoris | and | or | xor | nand | nor | eqv | andc | orc | extsb | extsh
  | cntlzw | rlwinm | rlwnm | rlwimi | slw | srw => exact withGprs_confined (resultInto_confined h ..)
  | sraw | srawi => exact withGprs_confined (shiftRightAlgebraic_confined h ..)
  | b => exact .inl (h.branchTo ..)
  | bc | bclr =>
    refine (guardForm_confined _).proceed fun _ _ => .inl (UserSide.branchTo ?_ ..)
    exact h.trans rfl
  | bcctr => exact (guardForm_confined _).proceed fun _ _ => .inl (h.branchTo ..)
  | sc => exact .inr (h.report.takeException rfl ..)
  | rfi | mfmsr | mtmsr | dsa | dcbi | mtsr | mtsrin | mfsr | mfsrin | tlbie | tlbld | tlbli | tlbsync => exact hpriv
  | tw | twi => exact withGprs_confined (trapIf_confined h _)
  | crand | cror | crxor | crnand | crnor | creqv | crandc | crorc => exact (h.setCrBit ..).advance
  | mcrf => exact (h.setCrField ..).advance
  | mtspr => exact execMtspr_confined s hs ..
  | mfspr => exact execMfspr_confined s ..
  | mftb => exact execMftb_confined s ..
  | mtcrf =>
    refine withGprs_confined (UserSide.advance ?_)
    exact h.trans rfl
  | mcrxr =>
    refine UserSide.advance ?_
    exact h.trans rfl
  | eieio => exact h.advance
  | dcbz => exact execDcbz_confined s ..
  | dcbst | icbi => exact blockAccess_confined _ _ _ _ fun _ => (mapStale_memorySide ..).userSide.advance
  | dcbf =>
    exact blockAccess_confined _ _ _ _ fun _ =>
      ((settleBlock_memorySide ..).userSide.memorySide (mapStale_memorySide ..)).advance
  | dcbt | dcbtst => exact withGprs_confined h.advance
  | tlbia | stfiwx | eciwx | ecowx | fsqrt | fsqrts | frsqrte | lswi | lswx | stswi | stswx => exact h.raise _
  | lbz | lbzx | lhz | lhzx | lha | lhax | lwz | lwzx | lhbrx | lwbrx => exact loadInt_confined ..
  | lbzu | lbzux | lhzu | lhzux | lhau | lhaux | lwzu | lwzux =>
    exact (guardForm_confined _).proceed fun _ _ => loadInt_confined ..
  | stb | stbx | sth | sthx | stw | stwx | sthbrx | stwbrx => exact storeInt_confined ..
  | stbu | stbux | sthu | sthux | stwu | stwux =>
    exact (guardForm_confined _).proceed fun _ _ => storeInt_confined ..
  | lmw => exact execLmw_confined s ..
  | stmw => exact execStmw_confined s ..
  | lwarx => exact execLwarx_confined s ..
  | stwcxRc => exact execStwcxRc_confined s ..
  | lfs | lfsx => exact loadSingleFp_confined ..
  | lfsu | lfsux => exact (guardForm_confined _).proceed fun _ _ => loadSingleFp_confined ..
  | lfd | lfdx => exact loadDoubleFp_confined ..
  | lfdu | lfdux => exact (guardForm_confined _).proceed fun _ _ => loadDoubleFp_confined ..
  | stfs | stfsx => exact storeSingleFp_confined ..
  | stfsu | stfsux => exact (guardForm_confined _).proceed fun _ _ => storeSingleFp_confined ..
  | stfd | stfdx => exact storeDoubleFp_confined ..
  | stfdu | stfdux => exact (guardForm_confined _).proceed fun _ _ => storeDoubleFp_confined ..
  | fadds | fsubs | fmuls | fdivs | fres | fmadds | fmsubs | fnmadds | fnmsubs =>
    exact (guardArith_confined _).proceed fun _ _ => deliverRaw_confined h ..
  | fadd | fsub | fmul | fdiv | fmadd | fmsub | fnmadd | fnmsub => exact guardFp_confined.proceed fun _ _ => h.raise _
  | frsp => exact (guardArith_confined _).proceed fun _ _ => deliverRounded_confined h ..
  | fctiw | fctiwz => exact (guardArith_confined _).proceed fun _ _ => deliverInt_confined h ..
  | fcmpu | fcmpo => exact (guardCompare_confined ..).proceed fun _ _ => deliverCompare_confined h ..
  | fneg | fabs | fnabs =>
    exact guardFp_confined.proceed fun _ _ => (guardSingles_confined _).proceed fun _ _ =>
      moveFp_confined (h.writeFpr ..) _
  | fmr =>
    exact guardFp_confined.proceed fun _ _ => (guardTagged_confined _).proceed fun _ _ =>
      moveFp_confined (h.writeFpr ..) _
  | fsel =>
    exact guardFp_confined.proceed fun _ _ => (guardSingles_confined _).proceed fun _ _ =>
      (guardTagged_confined _).proceed fun _ _ => moveFp_confined (h.writeFpr ..) _
  | mffs => exact guardFp_confined.proceed fun _ _ => moveFp_confined (h.writeFpr ..) _
  | mcrfs => exact guardFp_confined.proceed fun _ _ => finishFp_confined (h.setCrField ..) ..
  | mtfsfi | mtfsb0 | mtfsb1 => exact guardFp_confined.proceed fun _ _ => finishFp_confined h ..
  | mtfsf =>
    exact guardFp_confined.proceed fun _ _ => (guardTagged_confined _).proceed fun _ _ => finishFp_confined h ..

/-- Settles O60: an instruction in user mode that completes took an exception, is a permitted `esa`, is `isync` or `sync`,
or changed only what a user may change. -/
theorem userModeConfined : Obligations.UserModeConfined := by
  intro i s t hs hnone ht
  by_cases hesa : i = .esa
  · subst hesa
    rcases execEsa_confined hnone ht with h | ⟨h, hp⟩
    · exact .inr h
    · exact .inl ⟨h, .inl ⟨rfl, hp⟩⟩
  by_cases hisync : i = .isync
  · subst hisync
    cases Host.Outcome.next.inj ht
    exact .inl ⟨hnone, .inr ⟨rfl, .inr (.inl rfl)⟩⟩
  by_cases hsync : i = .sync
  · subst hsync
    cases Host.Outcome.next.inj ht
    exact .inl ⟨hnone, .inr ⟨rfl, .inr (.inr rfl)⟩⟩
  have h := exec_confined hs i hesa hisync hsync
  rw [ht] at h
  rcases h with h | h
  · have htaken : t.taken = s.taken := by rw [h]; rfl
    have hwin : t.windows = s.windows := by rw [h]; rfl
    refine .inl ⟨htaken.trans hnone, .inr ⟨?_, .inl hwin⟩⟩
    rw [hwin]
    exact h
  · exact .inr h

end Sys2Proof.Machine

/-!
Absent and privileged instructions, special registers that trap, and words written out (O40, O41, O57).
-/
namespace Sys2Proof.Machine

theorem emulatedFp_raises (s : State) :
    if s.msrBit msrFP then Raises (emulatedFp s) .emulation 0 s else Raises (emulatedFp s) .fpUnavailable 0 s := by
  split
  · next h => exact guardFp_on h
  · next h => exact guardFp_off (Bool.eq_false_of_not_eq_true h)

/-- Settles O40: each of these instructions is one exception entry, behind the floating-point guard for the arithmetic. -/
theorem absentInstructions : Obligations.AbsentInstructions := by
  intro s a b c d rc
  have hfp := emulatedFp_raises s
  simp only [List.forall_mem_cons]
  exact ⟨⟨rfl, rfl, rfl, rfl, List.forall_mem_nil _⟩,
    ⟨hfp, hfp, hfp, hfp, hfp, hfp, hfp, hfp, List.forall_mem_nil _⟩,
    rfl, rfl, rfl, rfl, rfl, rfl, rfl, List.forall_mem_nil _⟩

/-- Settles O57: the decoder on words given bit by bit. -/
theorem decodeWords : Obligations.DecodeWords :=
  ⟨rfl, rfl, rfl, rfl, rfl, rfl, rfl, rfl, rfl, rfl, rfl, rfl⟩

/- Special registers that cannot be accessed so (spec/45_processor_control.md R624). -/

section
variable {s : State} {a : Reg} {n : BitVec 10}

theorem invalidSpr_raises (s : State) (n : BitVec 10) :
    Raises (invalidSpr s n) .program (if n.getLsbD 4 = true ∧ s.prView = true then 0x00040000 else 0x00080000) s := by
  unfold invalidSpr sprIsSupervisor
  simp only [Bool.and_eq_true]
  split_ifs <;> exact rfl

theorem mfspr_unnumbered (h : sprOfNumber n.toNat = none) : exec (.mfspr a n) s = invalidSpr s n := by
  change execMfspr a n s = _
  unfold execMfspr
  rw [h]

theorem mtspr_unnumbered (h : sprOfNumber n.toNat = none) : exec (.mtspr a n) s = invalidSpr s n := by
  change execMtspr a n s = _
  unfold execMtspr
  rw [h]

theorem mfspr_unreadable {r : Spr} (h : sprOfNumber n.toNat = some r) (hr : readSpr s r = none) :
    exec (.mfspr a n) s = invalidSpr s n := by
  change execMfspr a n s = _
  unfold execMfspr
  rw [h]
  dsimp only
  rw [hr]

theorem mtspr_unwritable {r : Spr} (h : sprOfNumber n.toNat = some r) (hr : ∀ v, writeSpr s v r = none) :
    exec (.mtspr a n) s = invalidSpr s n := by
  change execMtspr a n s = _
  unfold execMtspr
  rw [h]
  dsimp only
  rw [hr]

theorem invalidSpr_user (hs : s.prView = true) (hn : n.getLsbD 4 = true) : invalidSpr s n = raisePrivileged s :=
  if_pos (by rw [sprIsSupervisor, hn, hs]; rfl)

theorem mfspr_user (hs : s.prView = true) (hn : n.getLsbD 4 = true) : exec (.mfspr a n) s = raisePrivileged s := by
  change execMfspr a n s = _
  unfold execMfspr
  split
  · exact invalidSpr_user hs hn
  · split
    · exact invalidSpr_user hs hn
    · exact if_pos (by rw [sprIsSupervisor, hn, hs]; rfl)

theorem mtspr_user (hs : s.prView = true) (hn : n.getLsbD 4 = true) : exec (.mtspr a n) s = raisePrivileged s := by
  change execMtspr a n s = _
  unfold execMtspr
  split
  · exact invalidSpr_user hs hn
  · split
    · exact invalidSpr_user hs hn
    · exact if_pos (by rw [sprIsSupervisor, hn, hs]; rfl)

/-- Every register's number is in the statement's table or among those that read back as no stored word. -/
theorem number_mem (r : Spr) :
    r.number ∈ specialRegisters.map (·.num) ++ [284, 285, 287, 977, 978, 979, 981, 984, 1009] := by
  cases r with
  | sprg k => revert k; decide
  | ibat k => revert k; decide
  | dbat k => revert k; decide
  | _ => decide

theorem sprOfNumber_eq_none
    (h : n ∉ specialRegisters.map (·.num) ++ [284, 285, 287, 977, 978, 979, 981, 984, 1009]) :
    sprOfNumber n.toNat = none := by
  cases hn : sprOfNumber n.toNat with
  | none => rfl
  | some r => exact absurd (number_of_sprOfNumber hn ▸ number_mem r) h

end

/-- Settles O41: the privileged guard, and the number tables of `mfspr` and `mtspr`. -/
theorem privilegedInstructions : Obligations.PrivilegedInstructions := by
  intro s a b srn n info
  have hinvalid {o : Out} (h : o = invalidSpr s n) : Raises o .program info s := h.trans (invalidSpr_raises s n)
  refine ⟨fun hs => ⟨?_, fun hn => ⟨mtspr_user hs hn, mfspr_user hs hn⟩⟩, ?_⟩
  · have hpriv {k : Unit → Out} : Raises (proceed (guardSupervisor s) k) .program 0x00040000 s :=
      guardSupervisor_user hs
    simp only [List.forall_mem_cons]
    exact ⟨hpriv, hpriv, hpriv, hpriv, hpriv, hpriv, hpriv, hpriv, hpriv, hpriv, hpriv, hpriv, hpriv,
      List.forall_mem_nil _⟩
  refine ⟨fun hn => ?_, ?_, ?_⟩
  · have hnone := sprOfNumber_eq_none hn
    exact ⟨hinvalid (mfspr_unnumbered hnone), hinvalid (mtspr_unnumbered hnone)⟩
  · rintro (rfl | rfl)
    · exact hinvalid (mfspr_unreadable (r := .tbl) rfl rfl)
    · exact hinvalid (mfspr_unreadable (r := .tbu) rfl rfl)
  · intro hn
    simp only [List.mem_cons, List.not_mem_nil, or_false] at hn
    rcases hn with rfl | rfl | rfl | rfl | rfl | rfl | rfl
    · exact hinvalid (mtspr_unwritable (r := .pvr) rfl fun _ => rfl)
    · exact hinvalid (mtspr_unwritable (r := .dmiss) rfl fun _ => rfl)
    · exact hinvalid (mtspr_unwritable (r := .dcmp) rfl fun _ => rfl)
    · exact hinvalid (mtspr_unwritable (r := .hash1) rfl fun _ => rfl)
    · exact hinvalid (mtspr_unwritable (r := .hash2) rfl fun _ => rfl)
    · exact hinvalid (mtspr_unwritable (r := .imiss) rfl fun _ => rfl)
    · exact hinvalid (mtspr_unwritable (r := .icmp) rfl fun _ => rfl)

end Sys2Proof.Machine

/-!
Invalid forms, and registers that may not be used (O43).
-/
namespace Sys2Proof.Machine

/- Registers that may not be used (spec/10_state.md R41). -/

section
variable {s : State} {a : Reg} {n : BitVec 10}

/-- With MSR[TGPR] = 1 a list of registers with one above GPR3 is not usable. -/
theorem gprsUsable_eq_false {named rs : List Reg} (ht : s.msrBit msrTGPR = true) (h : ∃ x ∈ named, 4 ≤ x)
    (hsub : named ⊆ rs) : s.gprsUsable rs = false := by
  obtain ⟨x, hx, h4⟩ := h
  have hall : rs.all (fun r => decide (r < 4)) = false :=
    List.all_eq_false.mpr ⟨x, hsub hx, by simpa using h4⟩
  unfold State.gprsUsable
  rw [ht, hall]
  rfl

theorem withGprs_refused {named rs : List Reg} {o : Out} (ht : s.msrBit msrTGPR = true) (h : ∃ x ∈ named, 4 ≤ x)
    (hsub : named ⊆ rs) : withGprs s rs o = .fault .tgprHighRegister :=
  withGprs_of_unusable (gprsUsable_eq_false ht h hsub)

theorem not_sprDenied (hp : n.getLsbD 4 = true → s.prView = false) : ¬(sprIsSupervisor n && s.prView) = true := by
  rw [Bool.and_eq_true]
  exact fun ⟨h4, hpr⟩ => Bool.false_ne_true ((hp h4).symm.trans hpr)

theorem mfspr_permitted {r : Spr} {v : Word} (hn : sprOfNumber n.toNat = some r) (hv : readSpr s r = some v)
    (hp : n.getLsbD 4 = true → s.prView = false) :
    exec (.mfspr a n) s = withGprs s [a] (advance (s.writeGpr a v)) := by
  change execMfspr a n s = _
  unfold execMfspr
  rw [hn]
  dsimp only
  rw [hv]
  exact if_neg (not_sprDenied hp)

theorem mtspr_permitted {r : Spr} {t : State} (hn : sprOfNumber n.toNat = some r)
    (hv : writeSpr s (s.readGpr a) r = some t) (hp : n.getLsbD 4 = true → s.prView = false) :
    exec (.mtspr a n) s = withGprs s [a] (advance t) := by
  change execMtspr a n s = _
  unfold execMtspr
  rw [hn]
  dsimp only
  rw [hv]
  exact if_neg (not_sprDenied hp)

theorem updateLoadOk_eq_false {rD rA : Reg} (h : rA = 0 ∨ rA = rD) : updateLoadOk rD rA = false := by
  rcases h with rfl | rfl
  · rfl
  · exact (congrArg _ (bne_self_eq_false rA)).trans (Bool.and_false _)

theorem updateOk_eq_false {rA : Reg} (h : rA = 0) : updateOk rA = false := by
  rw [h]
  rfl

theorem lmwOk_eq_false {rD rA : Reg} (h : rD ≤ rA) : lmwOk rD rA = false :=
  decide_eq_false (BitVec.not_lt.mpr h)

theorem bcctrOk_eq_false {bo : BitVec 5} (h : boOk bo = false ∨ bo.getLsbD 2 = false) : bcctrOk bo = false := by
  rcases h with h | h
  · rw [bcctrOk, h, Bool.false_and]
  · rw [bcctrOk, h, Bool.and_false]

end

/-- Settles O43: each form's guard, in the order of its definition, stops it. -/
theorem invalidForms : Obligations.InvalidForms := by
  intro s r rA rB d bo bi bd aa lk crfD stops
  have stop {ok : Bool} {k : Unit → Out} (h : ok = false) : proceed (guardForm ok) k = .fault .invalidForm :=
    guardForm_false h
  refine ⟨fun h => ?_, fun h => ?_, fun h => ?_, fun h => ?_, fun h => ?_, ?_, ?_, fun hmsr => ?_⟩
  · have hform {k : Unit → Out} := stop (k := k) (updateLoadOk_eq_false h)
    simp only [stops, List.forall_mem_cons]
    exact ⟨hform, hform, hform, hform, hform, hform, hform, hform, List.forall_mem_nil _⟩
  · have hform {k : Unit → Out} := stop (k := k) (updateOk_eq_false h)
    simp only [stops, List.forall_mem_cons]
    exact ⟨hform, hform, hform, hform, hform, hform, hform, hform, hform, hform, hform, hform, hform, hform,
      List.forall_mem_nil _⟩
  · exact List.forall_mem_cons.mpr ⟨stop (lmwOk_eq_false h), List.forall_mem_nil _⟩
  · simp only [stops, List.forall_mem_cons]
    exact ⟨stop h, stop h, List.forall_mem_nil _⟩
  · exact List.forall_mem_cons.mpr ⟨stop (bcctrOk_eq_false h), List.forall_mem_nil _⟩
  · exact List.forall_mem_cons.mpr ⟨rfl, List.forall_mem_nil _⟩
  · simp only [stops, List.forall_mem_cons]
    exact ⟨rfl, rfl, rfl, rfl, List.forall_mem_nil _⟩
  have ht : s.msrBit msrTGPR = true := bne_iff_ne.mpr hmsr
  intro a b c sh mb me crm srn oe rc or0 refuses
  have refused {named rs : List Reg} {o : Out} (h : ∃ x ∈ named, 4 ≤ x) (hsub : named ⊆ rs) :
      withGprs s rs o = .fault .tgprHighRegister := withGprs_refused ht h hsub
  refine ⟨fun h => ?_, fun h => ?_, fun h => ?_, fun h => ?_, fun h => ?_, fun h => ?_, fun h => ?_, fun hlt h => ?_,
    fun hb hne => ?_, fun hb => ?_, fun hmsr => ?_, fun p hp hpriv => ?_, fun hpr => ?_⟩
  · have hD {o : Out} := refused (o := o) h (List.Subset.refl [a, b, c])
    have hA {o : Out} := refused (o := o) (rs := [b, a, c]) h (by simp)
    simp only [List.forall_mem_cons]
    exact ⟨hD, hD, hD, hD, hD, hD, hD, hD, hD, hA, hA, hA, hA, hA, hA, hA, hA, hA, hA, hA, hD, hD, hA,
      List.forall_mem_nil _⟩
  · have hD {o : Out} := refused (o := o) h (List.Subset.refl [a, b])
    have hA {o : Out} := refused (o := o) (rs := [b, a]) h (by simp)
    simp only [List.forall_mem_cons]
    exact ⟨hD, hD, hD, hD, hD, hA, hA, hA, hD, hD, hD, hD, hA, hA, hA, hA, hA, hA, hA, hA, hA, hD, hD, hD,
      List.forall_mem_nil _⟩
  · have hD {o : Out} := refused (o := o) h (List.Subset.refl [a])
    simp only [List.forall_mem_cons]
    exact ⟨hD, hD, hD, hD, hD, hD, hD, List.forall_mem_nil _⟩
  · have hD {o : Out} : withGprs s (a :: namedOr0 b) o = _ := refused h (List.Subset.refl _)
    simp only [List.forall_mem_cons]
    exact ⟨hD, hD, hD, hD, hD, hD, hD, hD, hD, List.forall_mem_nil _⟩
  · have hX {o : Out} : withGprs s (a :: namedOr0 b ++ [c]) o = _ := refused h (List.Subset.refl _)
    simp only [List.forall_mem_cons]
    exact ⟨hX, hX, hX, hX, hX, hX, hX, hX, hX, hX, hX, hX, hX, List.forall_mem_nil _⟩
  · have hX {o : Out} : withGprs s (namedOr0 b ++ [c]) o = _ := refused h (List.Subset.refl _)
    simp only [List.forall_mem_cons]
    exact ⟨hX, hX, hX, hX, hX, hX, List.forall_mem_nil _⟩
  · exact List.forall_mem_cons.mpr ⟨refused (rs := a :: 31 :: namedOr0 b) h (by simp), List.forall_mem_nil _⟩
  · exact List.forall_mem_cons.mpr ⟨(guardForm_true (decide_eq_true hlt)).trans
      (refused (rs := a :: 31 :: namedOr0 b) h (by simp)), List.forall_mem_nil _⟩
  · have hok := updateLoadOk_of_ne hb hne
    have update {rs : List Reg} {o : Out} (h : ∃ x ∈ rs, 4 ≤ x) :
        proceed (guardForm (updateLoadOk a b)) (fun _ => withGprs s rs o) = _ :=
      (guardForm_true hok).trans (refused h (List.Subset.refl _))
    refine ⟨fun h => ?_, fun h => ?_⟩
    · simp only [List.forall_mem_cons]
      exact ⟨update h, update h, update h, update h, List.forall_mem_nil _⟩
    · simp only [List.forall_mem_cons]
      exact ⟨update h, update h, update h, update h, List.forall_mem_nil _⟩
  · have hok := updateOk_of_ne hb
    have update {rs : List Reg} {o : Out} (h : ∃ x ∈ rs, 4 ≤ x) :
        proceed (guardForm (updateOk b)) (fun _ => withGprs s rs o) = _ :=
      (guardForm_true hok).trans (refused h (List.Subset.refl _))
    refine ⟨fun h => ?_, fun h => ?_⟩
    · simp only [List.forall_mem_cons]
      exact ⟨update h, update h, update h, List.forall_mem_nil _⟩
    · simp only [List.forall_mem_cons]
      exact ⟨update h, update h, update h, List.forall_mem_nil _⟩
  · have hfp : s.msrBit msrFP = true := bne_iff_ne.mpr hmsr
    have float {rs : List Reg} {o : Out} (h : ∃ x ∈ rs, 4 ≤ x) :
        proceed (guardFp s) (fun _ => withGprs s rs o) = _ := (guardFp_on hfp).trans (refused h (List.Subset.refl _))
    have update {rs : List Reg} {o : Out} (hb : b ≠ 0) (h : ∃ x ∈ rs, 4 ≤ x) :
        proceed (guardForm (updateOk b)) (fun _ => proceed (guardFp s) fun _ => withGprs s rs o) = _ :=
      (guardForm_true (updateOk_of_ne hb)).trans (float h)
    refine ⟨fun h => ?_, fun h => ?_, fun hb => ⟨fun h => ?_, fun h => ?_⟩⟩
    · have hD {o : Out} := float (rs := namedOr0 b) (o := o) h
      simp only [List.forall_mem_cons]
      exact ⟨hD, hD, hD, hD, List.forall_mem_nil _⟩
    · have hX {o : Out} := float (rs := namedOr0 b ++ [c]) (o := o) h
      simp only [List.forall_mem_cons]
      exact ⟨hX, hX, hX, hX, List.forall_mem_nil _⟩
    · simp only [List.forall_mem_cons]
      exact ⟨update hb h, update hb h, update hb h, update hb h, List.forall_mem_nil _⟩
    · simp only [List.forall_mem_cons]
      exact ⟨update hb h, update hb h, update hb h, update hb h, List.forall_mem_nil _⟩
  · obtain ⟨x, hx, rfl⟩ := row_of_mem hp
    have hn : sprOfNumber x.row.num.toNat = some x := sprOfNumber_number x
    obtain ⟨v, hv, -⟩ := readSpr_kept s hx
    refine ⟨fun h => ?_, fun hd hi h => ?_⟩
    · exact List.forall_mem_cons.mpr
        ⟨(mfspr_permitted hn hv hpriv).trans (refused h (List.Subset.refl _)), List.forall_mem_nil _⟩
    · obtain ⟨t, hw⟩ := writeSpr_some s (s.readGpr a) hx (fun e => hd (e ▸ rfl)) (fun e => hi (e ▸ rfl))
      exact List.forall_mem_cons.mpr
        ⟨(mtspr_permitted hn hw hpriv).trans (refused h (List.Subset.refl _)), List.forall_mem_nil _⟩
  · have privileged {rs : List Reg} {o : Out} (h : ∃ x ∈ rs, 4 ≤ x) :
        proceed (guardSupervisor s) (fun _ => withGprs s rs o) = _ :=
      (guardSupervisor_supervisor hpr).trans (refused h (List.Subset.refl _))
    refine ⟨fun h => ?_, fun h => ?_, fun h => ?_⟩
    · have hread (r : Spr) {v : Word} (hv : readSpr s r = some v) : exec (.mfspr a r.number) s = _ :=
        (mfspr_permitted (sprOfNumber_number r) hv fun _ => hpr).trans (refused h (List.Subset.refl _))
      have hwrite (r : Spr) {t : State} (hw : writeSpr s (s.readGpr a) r = some t) :
          exec (.mtspr a r.number) s = _ :=
        (mtspr_permitted (sprOfNumber_number r) hw fun _ => hpr).trans (refused h (List.Subset.refl _))
      simp only [List.forall_mem_cons]
      exact ⟨privileged h, privileged h, privileged h, privileged h, privileged h, privileged h, privileged h,
        hread .pvr rfl, hread .dcmp rfl, hread .hash1 rfl, hread .hash2 rfl, hread .icmp rfl, hread .tcr rfl,
        hread .hid1 rfl, hwrite .tbl rfl, hwrite .tbu rfl, hwrite .tcr rfl, hwrite .hid1 rfl, List.forall_mem_nil _⟩
    · simp only [List.forall_mem_cons]
      exact ⟨privileged h, privileged h, List.forall_mem_nil _⟩
    · exact List.forall_mem_cons.mpr ⟨privileged (rs := namedOr0 b ++ [c]) h, List.forall_mem_nil _⟩

end Sys2Proof.Machine

/-!
Rotates under a mask (O11).
-/
namespace Sys2Proof.Machine

theorem ibmBit_rotateLeft (w : Word) {n k : Nat} (hn : n < 32) (hk : k < 32) :
    ibmBit (w.rotateLeft n) k = ibmBit w ((k + n) % 32) := by
  unfold ibmBit
  rw [BitVec.getLsbD_rotateLeft, Nat.mod_eq_of_lt hn, Bool.cond_decide]
  by_cases h : 31 - k < n
  · rw [if_pos h]
    congr 1
    omega
  · rw [if_neg h, decide_eq_true (by omega : 31 - k < 32), Bool.true_and]
    congr 1
    omega

theorem ibmBit_onesFrom (n : Nat) {k : Nat} (hk : k < 32) : ibmBit (0xFFFFFFFF#32 >>> n) k = decide (n ≤ k) := by
  change (BitVec.allOnes 32 >>> n).getLsbD (31 - k) = _
  rw [BitVec.getLsbD_ushiftRight, BitVec.getLsbD_allOnes, decide_eq_decide]
  omega

theorem ibmBit_onesTo {n : Nat} {k : Nat} (hn : n < 32) (hk : k < 32) :
    ibmBit (0xFFFFFFFF#32 <<< (31 - n)) k = decide (k ≤ n) := by
  change (BitVec.allOnes 32 <<< (31 - n)).getLsbD (31 - k) = _
  rw [BitVec.getLsbD_shiftLeft, BitVec.getLsbD_allOnes, Bool.eq_iff_iff]
  simp only [Bool.and_eq_true, Bool.not_eq_true', decide_eq_true_eq, decide_eq_false_iff_not]
  omega

/-- IBM bit `k` lies from `mb` through `me`, going round past bit 31 where `me` is below `mb`. -/
def InMask (mb me : BitVec 5) (k : Nat) : Prop :=
  if mb.toNat ≤ me.toNat then mb.toNat ≤ k ∧ k ≤ me.toNat else mb.toNat ≤ k ∨ k ≤ me.toNat

theorem ibmBit_maskMbMe (mb me : BitVec 5) {k : Nat} (hk : k < 32) :
    ibmBit (maskMbMe mb me) k = true ↔ InMask mb me k := by
  have hto := ibmBit_onesTo me.isLt hk
  unfold maskMbMe InMask
  dsimp only
  by_cases h : mb ≤ me
  · rw [if_pos h, if_pos (BitVec.le_def.mp h), ibmBit_and, ibmBit_onesFrom _ hk, hto]
    simp
  · rw [if_neg h, if_neg (fun hn => h (BitVec.le_def.mpr hn)), ibmBit_or, ibmBit_onesFrom _ hk, hto]
    simp

theorem ibmBit_merge (m v w : Word) {k : Nat} (hk : k < 32) :
    ibmBit (merge m v w) k = if ibmBit m k then ibmBit v k else ibmBit w k := by
  have hnot : ibmBit (~~~m) k = !ibmBit m k := by
    unfold ibmBit
    rw [BitVec.getLsbD_not, decide_eq_true (by omega : 31 - k < 32), Bool.true_and]
  unfold merge
  rw [ibmBit_or, ibmBit_and, ibmBit_and, hnot]
  cases ibmBit m k <;> simp

/-- The three rotates merge the rotated word under the mask with a word of their own. -/
theorem rotate_bits (v w : Word) (mb me : BitVec 5) {n k : Nat} (hn : n < 32) (hk : k < 32) :
    (InMask mb me k → ibmBit (merge (maskMbMe mb me) (v.rotateLeft n) w) k = ibmBit v ((k + n) % 32)) ∧
      (¬InMask mb me k → ibmBit (merge (maskMbMe mb me) (v.rotateLeft n) w) k = ibmBit w k) := by
  rw [ibmBit_merge _ _ _ hk, ← ibmBit_maskMbMe mb me hk]
  exact ⟨fun h => (if_pos h).trans (ibmBit_rotateLeft v hn hk), fun h => if_neg h⟩

theorem merge_zero (m v : Word) : merge m v 0 = v &&& m := by
  change v &&& m ||| 0#32 &&& ~~~m = v &&& m
  rw [BitVec.zero_and, BitVec.or_zero]

theorem computes_of_resultInto {i : Instr} {s : State} {rA : Reg} {v w : Word} {rc : Bool}
    (h : exec i s = resultInto rc rA v s) (hv : v = w) : Computes i s rA w rc none none := by
  subst hv
  have hc := resultInto_computes rc rA v s
  rw [← h] at hc
  exact hc

/-- Settles O11: each rotate writes the rotated word merged under its mask, with zeros or with the old rA. -/
theorem rotates : Obligations.Rotates := by
  intro s rS rA rB sh mb me rc hu inMask rotates
  have hu2 : s.gprsUsable [rA, rS] = true := gprsUsable_mono hu (by simp)
  have hsh : ((s.readGpr rB).extractLsb' 0 5).toNat = (s.readGpr rB).toNat % 32 := by
    rw [extract_toNat, pow_zero, Nat.div_one]
    rfl
  have bits (w : Word) {n k : Nat} (hn : n < 32) (hk : k < 32) := rotate_bits (s.readGpr rS) w mb me hn hk
  have hzero (k : Nat) : ibmBit 0 k = false := BitVec.getLsbD_zero
  refine ⟨⟨merge (maskMbMe mb me) ((s.readGpr rS).rotateLeft sh.toNat) 0, fun k hk => ?_, ?_⟩,
    ⟨merge (maskMbMe mb me) ((s.readGpr rS).rotateLeft ((s.readGpr rB).toNat % 32)) 0, fun k hk => ?_, ?_⟩,
    ⟨merge (maskMbMe mb me) ((s.readGpr rS).rotateLeft sh.toNat) (s.readGpr rA), fun k hk => ?_, ?_⟩⟩
  · rw [← hzero k]
    exact bits 0 sh.isLt hk
  · exact computes_of_resultInto (withGprs_of_usable hu2) (merge_zero ..).symm
  · rw [← hzero k]
    exact bits 0 (Nat.mod_lt _ (by decide)) hk
  · refine computes_of_resultInto (withGprs_of_usable hu) ?_
    rw [merge_zero, hsh]
  · exact bits (s.readGpr rA) sh.isLt hk
  · exact computes_of_resultInto (withGprs_of_usable hu2) rfl

end Sys2Proof.Machine

/-!
A step as the run of the fetched word (O55).
-/
namespace Sys2Proof.Machine

/-- One of the four branch instructions. -/
def IsBranch (i : Instr) : Prop :=
  (∃ a b c, i = .b a b c) ∨ (∃ a b c d e, i = .bc a b c d e) ∨ (∃ a b c, i = .bclr a b c) ∨ ∃ a b c, i = .bcctr a b c

theorem isBranch_iff (i : Instr) : isBranch i = true ↔ IsBranch i := by
  constructor
  · intro h
    cases i with
    | b a b c => exact .inl ⟨_, _, _, rfl⟩
    | bc a b c d e => exact .inr (.inl ⟨_, _, _, _, _, rfl⟩)
    | bclr a b c => exact .inr (.inr (.inl ⟨_, _, _, rfl⟩))
    | bcctr a b c => exact .inr (.inr (.inr ⟨_, _, _, rfl⟩))
    | _ => cases h
  · rintro (⟨_, _, _, rfl⟩ | ⟨_, _, _, _, _, rfl⟩ | ⟨_, _, _, rfl⟩ | ⟨_, _, _, rfl⟩) <;> rfl

theorem neverTraced_eq_false_iff (i : Instr) : neverTraced i = false ↔ i ≠ .rfi ∧ i ≠ .sc := by
  constructor
  · intro h
    constructor
    · rintro rfl
      cases h
    · rintro rfl
      cases h
  · rintro ⟨hrfi, hsc⟩
    cases i with
    | rfi => exact absurd rfl hrfi
    | sc => exact absurd rfl hsc
    | _ => rfl

/-- When the trace exception is due (R765), by the bits SE and BE of MSR. -/
theorem traceDue_iff (u t : State) (i : Instr) :
    traceDue u t i = true ↔ t.taken = none ∧ i ≠ .rfi ∧ i ≠ .sc ∧
      (ibmBit u.msr 21 = true ∨ (ibmBit u.msr 22 = true ∧ IsBranch i)) := by
  have hse : u.msrBit msrSE = ibmBit u.msr 21 := msrBit_ibmBit u (by decide) rfl
  have hbe : u.msrBit msrBE = ibmBit u.msr 22 := msrBit_ibmBit u (by decide) rfl
  unfold traceDue
  rw [Bool.and_eq_true, Bool.and_eq_true, Bool.or_eq_true, Bool.and_eq_true, Option.isNone_iff_eq_none,
    Bool.not_eq_true', neverTraced_eq_false_iff, isBranch_iff, hse, hbe, and_assoc, and_assoc]

/-- With no old context possible the breakpoint compares word addresses where IABR<30> = 1 (R768). -/
theorem iabrHit_iff {u : State} (h : u.windows = []) :
    iabrHit u = true ↔ ibmBit u.iabr 30 = true ∧ u.iabr.toNat / 4 = u.cia.toNat / 4 := by
  have hview : u.iabrView = u.iabr := view_of_no_window u _ _ h
  unfold iabrHit
  rw [hview, Bool.and_eq_true, beq_iff_eq, wordAlign_eq_iff]
  rfl

/-- A step that comes to the instruction at CIA and fetches a word takes the breakpoint or runs the word (R781). -/
theorem step_of_fetch {s u : State} {w : Word} (hu : atBoundary (beginStep s) = .runs u) (hw : fetch u = .ok w) :
    step s = if iabrHit u then raise .iabrMatch 0 u else executeWord u w := by
  change cycle s = _
  unfold cycle
  rw [hu]
  dsimp only
  unfold runInstruction
  rw [hw]
  rfl

theorem executeWord_ok {u : State} {w : Word} {i : Instr} (h : decode w = .ok i) :
    executeWord u w = traceAfter u i (exec i u) := by
  unfold executeWord
  rw [h]

theorem executeWord_illegal {u : State} {w : Word} (h : decode w = .error .illegal) :
    executeWord u w = raiseIllegal u := by
  unfold executeWord
  rw [h]

theorem executeWord_invalidForm {u : State} {w : Word} (h : decode w = .error .invalidForm) :
    executeWord u w = .fault .invalidForm := by
  unfold executeWord
  rw [h]

/-- Settles O55: the step past its boundary is the fetched word's run, followed by the trace exception where it is due. -/
theorem stepRunsInstruction : Obligations.StepRunsInstruction := by
  intro s u w hu hw branch
  have hstep := step_of_fetch hu hw
  refine ⟨fun hwin => iabrHit_iff hwin, fun hhit => hstep.trans (if_pos hhit), fun hmiss => ?_⟩
  have hrun : step s = executeWord u w := hstep.trans (if_neg (Bool.not_eq_true _ ▸ hmiss))
  refine ⟨fun h => hrun.trans (executeWord_illegal h), fun h => hrun.trans (executeWord_invalidForm h), fun i hi => ?_⟩
  have htrace : step s = traceAfter u i (exec i u) := hrun.trans (executeWord_ok hi)
  refine ⟨fun f hf => ?_, fun r hr => ?_, fun t ht => ⟨fun hdue => ?_, fun hdue => ?_⟩⟩
  · rw [htrace, hf]
    rfl
  · rw [htrace, hr]
    rfl
  · rw [htrace, ht]
    exact if_neg fun h => hdue ((traceDue_iff u t i).mp h)
  · rw [htrace, ht]
    exact if_pos ((traceDue_iff u t i).mpr hdue)

end Sys2Proof.Machine

end

section
/-!
SUPPORT. The integer family: sums, differences, products, quotients and compares.
-/

/-!
Sums and differences (O1 to O4).
-/
namespace Sys2Proof.Machine

/- From the last steps of an instruction to its statement. -/

/-- An instruction whose outcome is known computes what that outcome computes. -/
theorem computes_of_outcome {i : Instr} {o : Out} {s : State} {rD : Reg} {v : Word} {rc : Bool} {ov ca : Option Bool}
    (h : exec i s = o) (hc : ComputesTo o s rD v rc ov ca) : Computes i s rD v rc ov ca := by
  rw [← h] at hc
  exact hc

/-- A sum is determined by its signed value `z` and by whether its unsigned value carries out (R300). -/
theorem computes_of_sumInto {i : Instr} {s : State} (carry : Bool) {oe rc c : Bool} {rD : Reg} {x y : Word} {z : Int}
    {ca : Prop} [Decidable ca] (h : exec i s = sumInto carry oe rc rD x y c s) (hz : x.toInt + y.toInt + c.toNat = z)
    (hca : 2 ^ 32 ≤ x.toNat + y.toNat + c.toNat ↔ ca) :
    Computes i s rD (BitVec.ofInt 32 z) rc (if oe then some (outside32 z) else none)
      (if carry then some (decide ca) else none) := by
  rw [← decide_eq_decide.mpr hca]
  subst hz
  exact computes_of_outcome h (sumInto_computes carry oe rc rD x y c s)

/-- A result written with an overflow flag of its own. -/
theorem computes_of_overflow {i : Instr} {s : State} {oe rc ov ov' : Bool} {rD : Reg} {v w : Word}
    (h : exec i s = finishInt rc rD v (withOverflow oe ov (s.writeGpr rD v))) (hv : v = w) (hov : ov = ov') :
    Computes i s rD w rc (if oe then some ov' else none) none := by
  subst hv hov
  exact computes_of_outcome h (resultOverflow_computes oe rc rD v ov s)

/- Immediates (spec/30_encoding.md R255). -/

theorem toInt_sext16 (imm : BitVec 16) : (sext16 imm).toInt = imm.toInt := BitVec.toInt_signExtend_of_le (by decide)

theorem toInt_high16 (imm : BitVec 16) : (high16 imm).toInt = imm.toInt * 2 ^ 16 := by
  have happend : (high16 imm).toInt = 2 ^ 16 * imm.toInt + (0 : Nat) := BitVec.toInt_append
  omega

theorem add_eq_ofInt (x y : Word) : x + y = BitVec.ofInt 32 (x.toInt + y.toInt) := by
  rw [BitVec.ofInt_add, BitVec.ofInt_toInt, BitVec.ofInt_toInt]

/-- `(rA|0)` as a signed integer (spec/00_scope.md R13). -/
theorem toInt_readGprOr0 (s : State) (r : Reg) :
    (s.readGprOr0 r).toInt = if r = 0 then 0 else (s.readGpr r).toInt := by
  unfold State.readGprOr0
  split
  · exact BitVec.toInt_zero
  · rfl

/-- Settles O1: each writes the sum of (rA|0) and the signed value of its immediate word. -/
theorem addImmediate : Obligations.AddImmediate := by
  intro s rD rA simm hu a
  have ha : (s.readGprOr0 rA).toInt = a := toInt_readGprOr0 s rA
  refine ⟨computes_of_eq (withGprs_of_usable hu) ?_, computes_of_eq (withGprs_of_usable hu) ?_⟩
  · rw [add_eq_ofInt, ha, toInt_sext16]
  · rw [add_eq_ofInt, ha, toInt_high16]

/- Differences are sums with the complement (spec/40_integer_arithmetic_compare.md R300 c). -/

theorem toInt_sum_not (x y : Word) (c : Bool) :
    (~~~x).toInt + y.toInt + c.toNat = y.toInt - x.toInt - 1 + c.toNat := by
  rw [toInt_not_eq]
  omega

/-- The sum with the complement carries out where the subtraction needs no borrow. -/
theorem carry_not_iff (x y : Word) (c : Bool) :
    2 ^ 32 ≤ (~~~x).toNat + y.toNat + c.toNat ↔ x.toNat + 1 ≤ y.toNat + c.toNat := by
  have hx := x.isLt
  rw [toNat_not_eq]
  omega

theorem toInt_difference (x y : Word) : (~~~x).toInt + y.toInt + true.toNat = y.toInt - x.toInt := by
  rw [toInt_sum_not]
  exact Int.sub_add_cancel ..

theorem noBorrow_iff (x y : Word) : 2 ^ 32 ≤ (~~~x).toNat + y.toNat + true.toNat ↔ x.toNat ≤ y.toNat :=
  (carry_not_iff x y true).trans Nat.add_le_add_iff_right

theorem zero_sub_eq_ofInt (x : Word) : 0 - x = BitVec.ofInt 32 (-x.toInt) := by
  rw [BitVec.ofInt_neg, BitVec.ofInt_toInt]
  exact BitVec.zero_sub x

theorem eq_intMin_iff (x : Word) : x = 0x80000000 ↔ x.toInt = -2 ^ 31 :=
  BitVec.toInt_inj.symm

/-- Only the most negative word has no negative (R316). -/
theorem outside32_neg (x : Word) : (x == 0x80000000) = outside32 (-x.toInt) := by
  have hlow : -2 ^ 31 ≤ x.toInt := x.le_toInt
  have hhigh : x.toInt < 2 ^ 31 := x.toInt_lt
  rw [beq_eq_decide, outside32, ← Bool.decide_or, decide_eq_decide, eq_intMin_iff]
  omega

/-- Settles O2: sums and differences by `sumInto_computes`; for `neg` the overflow is `outside32_neg`. -/
theorem addAndSubtract : Obligations.AddAndSubtract := by
  intro s rD rA rB oe rc hu a b ov
  refine ⟨computes_of_sumInto false (withGprs_of_usable hu) (Int.add_zero _) Iff.rfl,
    computes_of_sumInto false (withGprs_of_usable hu) (toInt_difference ..) Iff.rfl,
    computes_of_overflow (withGprs_of_usable (gprsUsable_mono hu (by simp))) (zero_sub_eq_ofInt _) (outside32_neg _)⟩

/-- Settles O3: the carry of a sum is its own, that of a difference is `noBorrow_iff`. -/
theorem carryingSums : Obligations.CarryingSums := by
  intro s rD rA rB simm oe rc hu a b i ov
  have hu2 : s.gprsUsable [rD, rA] = true := gprsUsable_mono hu (by simp)
  have hi : i.toInt = simm.toInt := toInt_sext16 simm
  have hsum : a.toInt + i.toInt + false.toNat = a.toInt + simm.toInt := by rw [hi]; exact Int.add_zero _
  have hdiff : (~~~a).toInt + i.toInt + true.toNat = simm.toInt - a.toInt := by rw [toInt_difference, hi]
  exact ⟨computes_of_sumInto true (withGprs_of_usable hu) (Int.add_zero _) Iff.rfl,
    computes_of_sumInto true (withGprs_of_usable hu) (toInt_difference ..) (noBorrow_iff ..),
    computes_of_sumInto true (oe := false) (withGprs_of_usable hu2) hsum Iff.rfl,
    computes_of_sumInto true (oe := false) (withGprs_of_usable hu2) hsum Iff.rfl,
    computes_of_sumInto true (oe := false) (withGprs_of_usable hu2) hdiff (noBorrow_iff ..)⟩

/-- Settles O4: each is a sum with the old carry, of rA or its complement and rB, -1 or 0. -/
theorem extendedSums : Obligations.ExtendedSums := by
  intro s rD rA rB oe rc hu a b c ov
  have hu2 : s.gprsUsable [rD, rA] = true := gprsUsable_mono hu (by simp)
  have sum {i : Instr} {x y : Word} {z : Int} {ca : Prop} [Decidable ca]
      (h : exec i s = sumInto true oe rc rD x y (xerCA s.xer) s) (hz : x.toInt + y.toInt + c = z)
      (hca : 2 ^ 32 ≤ x.toNat + y.toNat + c ↔ ca) :
      Computes i s rD (BitVec.ofInt 32 z) rc (ov z) (some (decide ca)) := computes_of_sumInto true h hz hca
  have hones : (0xFFFFFFFF : Word).toInt = -1 ∧ (0xFFFFFFFF : Word).toNat = 2 ^ 32 - 1 := ⟨rfl, rfl⟩
  have hzero : (0 : Word).toInt = 0 ∧ (0 : Word).toNat = 0 := ⟨rfl, rfl⟩
  have hnot (y : Word) : (~~~a).toInt + y.toInt + c = y.toInt - a.toInt - 1 + c := toInt_sum_not a y (xerCA s.xer)
  have hborrow (y : Word) : 2 ^ 32 ≤ (~~~a).toNat + y.toNat + c ↔ a.toNat + 1 ≤ y.toNat + c :=
    carry_not_iff a y (xerCA s.xer)
  exact ⟨sum (withGprs_of_usable hu) rfl Iff.rfl,
    sum (withGprs_of_usable hu) (hnot b) (hborrow b),
    sum (x := a) (y := 0xFFFFFFFF) (withGprs_of_usable hu2) (by omega) (by omega),
    sum (withGprs_of_usable hu2) ((hnot 0xFFFFFFFF).trans (by omega)) ((hborrow 0xFFFFFFFF).trans (by omega)),
    sum (x := a) (y := 0) (withGprs_of_usable hu2) (by omega) Iff.rfl,
    sum (withGprs_of_usable hu2) ((hnot 0).trans (by omega)) ((hborrow 0).trans (by omega))⟩

end Sys2Proof.Machine
/-!
Products and quotients (O5 to O7).
-/
namespace Sys2Proof.Machine

/- Products (spec/40_integer_arithmetic_compare.md R317 to R320). -/

theorem mul_eq_ofInt (x y : Word) : x * y = BitVec.ofInt 32 (x.toInt * y.toInt) := by
  rw [BitVec.ofInt_mul, BitVec.ofInt_toInt, BitVec.ofInt_toInt]

/-- Narrowing changes exactly the integers that are no signed 32-bit integer (R318). -/
theorem narrowed_ne_eq_outside32 (z : Int) : ((BitVec.ofInt 32 z).toInt != z) = outside32 z := by
  have hfits : z.bmod (2 ^ 32) = z ↔ -2 ^ 31 ≤ z ∧ z < 2 ^ 31 := by
    rw [Int.bmod_def]
    omega
  rw [Bool.eq_iff_iff, bne_iff_ne, BitVec.toInt_ofInt, ne_eq, hfits, outside32, ← Bool.decide_or, decide_eq_true_eq]
  omega

theorem highWord_ofInt (z : Int) : (BitVec.ofInt 64 z).extractLsb' 32 32 = BitVec.ofInt 32 (z / 2 ^ 32) := by
  apply BitVec.eq_of_toNat_eq
  rw [extract_toNat, BitVec.toNat_ofInt, BitVec.toNat_ofInt]
  omega

theorem highWord_ofNat (n : Nat) : (BitVec.ofNat 64 n).extractLsb' 32 32 = BitVec.ofNat 32 (n / 2 ^ 32) := by
  apply BitVec.eq_of_toNat_eq
  rw [extract_toNat, BitVec.toNat_ofNat, BitVec.toNat_ofNat]
  omega

/-- Settles O5: the low word is the product narrowed, the high word its quotient by 2^32 narrowed. -/
theorem products : Obligations.Products := by
  intro s rD rA rB simm oe rc hu a b
  refine ⟨computes_of_eq (withGprs_of_usable (gprsUsable_mono hu (by simp))) ?_,
    computes_of_overflow (withGprs_of_usable hu) rfl (narrowed_ne_eq_outside32 _),
    computes_of_resultInto (withGprs_of_usable hu) (highWord_ofInt _),
    computes_of_resultInto (withGprs_of_usable hu) (highWord_ofNat _)⟩
  rw [mul_eq_ofInt, toInt_sext16]

/- Quotients: where they are defined (R321, R322). -/

theorem sdiv_eq_ofInt (x y : Word) : x.sdiv y = BitVec.ofInt 32 (x.toInt.tdiv y.toInt) := by
  apply BitVec.eq_of_toInt_eq
  rw [BitVec.toInt_sdiv, BitVec.toInt_ofInt]

theorem eq_minusOne_iff (x : Word) : x = 0xFFFFFFFF ↔ x.toInt = -1 :=
  BitVec.toInt_inj.symm

/-- The operands of `divw` without a defined quotient (R321). -/
theorem divwUndefined_iff (x y : Word) :
    (y == 0 || (x == 0x80000000 && y == 0xFFFFFFFF)) = true ↔ y = 0 ∨ (x = 0x80000000 ∧ y = 0xFFFFFFFF) := by
  rw [Bool.or_eq_true, Bool.and_eq_true, beq_iff_eq, beq_iff_eq, beq_iff_eq]

theorem exec_divw_defined {s : State} {rD rA rB : Reg} {oe rc : Bool} (hu : s.gprsUsable [rD, rA, rB] = true)
    (h : ¬(s.readGpr rB = 0 ∨ (s.readGpr rA = 0x80000000 ∧ s.readGpr rB = 0xFFFFFFFF))) :
    exec (.divw rD rA rB oe rc) s = finishInt rc rD ((s.readGpr rA).sdiv (s.readGpr rB))
      (withOverflow oe false (s.writeGpr rD ((s.readGpr rA).sdiv (s.readGpr rB)))) :=
  (withGprs_of_usable hu).trans (if_neg (mt (divwUndefined_iff _ _).mp h))

theorem exec_divw_undefined {s : State} {rD rA rB : Reg} {oe rc : Bool} (hu : s.gprsUsable [rD, rA, rB] = true)
    (h : s.readGpr rB = 0 ∨ (s.readGpr rA = 0x80000000 ∧ s.readGpr rB = 0xFFFFFFFF)) :
    exec (.divw rD rA rB oe rc) s = undefinedQuotient oe rc rD (s.draw .divw) (s.draw .divwCr) s :=
  (withGprs_of_usable hu).trans (if_pos ((divwUndefined_iff _ _).mpr h))

theorem exec_divwu_defined {s : State} {rD rA rB : Reg} {oe rc : Bool} (hu : s.gprsUsable [rD, rA, rB] = true)
    (h : s.readGpr rB ≠ 0) :
    exec (.divwu rD rA rB oe rc) s = finishInt rc rD ((s.readGpr rA).udiv (s.readGpr rB))
      (withOverflow oe false (s.writeGpr rD ((s.readGpr rA).udiv (s.readGpr rB)))) :=
  (withGprs_of_usable hu).trans (if_neg (mt eq_of_beq h))

theorem exec_divwu_undefined {s : State} {rD rA rB : Reg} {oe rc : Bool} (hu : s.gprsUsable [rD, rA, rB] = true)
    (h : s.readGpr rB = 0) :
    exec (.divwu rD rA rB oe rc) s = undefinedQuotient oe rc rD (s.draw .divwu) (s.draw .divwuCr) s :=
  (withGprs_of_usable hu).trans (if_pos (beq_iff_eq.mpr h))

/-- Settles O6: off the excluded operands each divide writes its quotient with OV = 0. -/
theorem quotients : Obligations.Quotients := by
  intro s rD rA rB oe rc hu a b ov hb
  refine ⟨fun hdefined => ?_, computes_of_overflow (exec_divwu_defined hu hb) BitVec.udiv_def rfl⟩
  refine computes_of_overflow (exec_divw_defined hu ?_) (sdiv_eq_ofInt a b) rfl
  rintro (hzero | ⟨hmin, hminus⟩)
  · exact hb hzero
  · exact hdefined ⟨(eq_intMin_iff a).mp hmin, (eq_minusOne_iff b).mp hminus⟩

/- Quotients: where they are undefined. -/

theorem onlyInteger_withCr {rD : Reg} {s t : State} (h : OnlyInteger rD s t) (cr : Word) :
    OnlyInteger rD s { t with cr := cr } where
  others := h.others
  bank := h.bank
  bytes := h.bytes
  rest := congrArg (fun u : State => { u with cr := cr }) h.rest

/-- CR0 with three free bits and SO: the other fields are kept. -/
theorem ibmBit_freeCr0 (cr free : Word) (so : Bool) :
    ibmBit (setField4 cr 0 (free.extractLsb' 29 3 ++ BitVec.ofBool so)) 3 = so ∧
      ∀ k, 4 ≤ k → k < 32 → ibmBit (setField4 cr 0 (free.extractLsb' 29 3 ++ BitVec.ofBool so)) k = ibmBit cr k := by
  refine ⟨(ibmBit_setField4 _ _ _ 3 (by decide)).trans ((if_pos rfl).trans ?_), fun k hk hk' =>
    (ibmBit_setField4 _ _ _ k hk').trans (if_neg fun h : k / 4 = 0 => by omega)⟩
  rw [BitVec.getLsbD_append]
  cases so <;> rfl

theorem xer_of_advance {t u : State} (h : advance t = .next u) : u.xer = t.xer := by
  cases h
  rfl

theorem advance_setCrField {t u : State} (n : BitVec 3) (v : BitVec 4) (h : advance t = .next u) :
    advance (setCrField t n v) = .next (setCrField u n v) := by
  cases h
  rfl

/-- An undefined quotient ends as an overflowing result without a record does, but for CR0 of the record form. -/
theorem undefinedQuotient_eq {oe rc : Bool} {rD : Reg} {free crFree : Word} {s u : State}
    (h : finishInt false rD free (withOverflow oe true (s.writeGpr rD free)) = .next u) :
    undefinedQuotient oe rc rD free crFree s =
      .next (if rc then setCrField u 0 (crFree.extractLsb' 29 3 ++ BitVec.ofBool (xerSO u.xer)) else u) := by
  have hadvance : advance (withOverflow oe true (s.writeGpr rD free)) = .next u := h
  unfold undefinedQuotient
  dsimp only
  rw [← xer_of_advance hadvance]
  cases rc with
  | false => exact hadvance
  | true => exact advance_setCrField _ _ hadvance

/-- What an instruction leaves whose quotient is undefined: rD and CR0 bits 0 to 2 are free (R321, R322). -/
theorem undefinedQuotient_next {i : Instr} {oe rc : Bool} {rD : Reg} {free crFree : Word} {s : State}
    (h : exec i s = undefinedQuotient oe rc rD free crFree s) :
    ∃ t, exec i s = .next t ∧ t.cia = s.cia + 4 ∧ XerAfter (if oe then some true else none) none s t ∧
      (rc = false → t.cr = s.cr) ∧
      (rc = true → ibmBit t.cr 3 = ibmBit t.xer 0 ∧ ∀ k, 4 ≤ k → k < 32 → ibmBit t.cr k = ibmBit s.cr k) ∧
      OnlyInteger rD s t := by
  obtain ⟨u, hnext, -, hcia, hcr, hxer, honly⟩ := resultOverflow_computes oe false rD free true s
  replace hcr : u.cr = s.cr := hcr
  refine ⟨_, h.trans (undefinedQuotient_eq hnext), ?_⟩
  cases rc with
  | false => exact ⟨hcia, hxer, fun _ => hcr, nofun, honly⟩
  | true =>
    obtain ⟨hso, hkept⟩ := ibmBit_freeCr0 u.cr crFree (xerSO u.xer)
    exact ⟨hcia, hxer, nofun, fun _ => ⟨hso, fun k hk hk' => (hkept k hk hk').trans (congrArg (ibmBit · k) hcr)⟩,
      onlyInteger_withCr honly _⟩

/-- Settles O7: on the excluded operands each divide ends in `undefinedQuotient`. -/
theorem undefinedQuotients : Obligations.UndefinedQuotients := by
  intro s rD rA rB oe rc hu a b goesOn
  exact ⟨fun h => undefinedQuotient_next (exec_divw_undefined hu h),
    fun h => undefinedQuotient_next (exec_divwu_undefined hu h)⟩

end Sys2Proof.Machine

/-!
Compares (O8).
-/
namespace Sys2Proof.Machine

theorem compareSigned_eq (a b : Word) (so : Bool) :
    compareSigned a b so =
      crBits (decide (a.toInt < b.toInt)) (decide (b.toInt < a.toInt)) (decide (a = b)) so := by
  rw [compareSigned, BitVec.slt_eq_decide, BitVec.slt_eq_decide, beq_eq_decide]

theorem compareUnsigned_eq (a b : Word) (so : Bool) :
    compareUnsigned a b so =
      crBits (decide (a.toNat < b.toNat)) (decide (b.toNat < a.toNat)) (decide (a = b)) so := by
  rw [compareUnsigned, BitVec.ult_eq_decide, BitVec.ult_eq_decide, beq_eq_decide]

theorem toNat_zext16 (imm : BitVec 16) : (zext16 imm).toNat = imm.toNat :=
  BitVec.toNat_setWidth_of_le (by decide)

/-- A compare of registers that may be used is the write of its CR field. -/
theorem compare_body {s : State} {rs : List Reg} {o : Out} (hu : s.gprsUsable rs = true) :
    proceed (guardForm (compareOk 0)) (fun _ => withGprs s rs o) = o :=
  (guardForm_true rfl).trans (withGprs_of_usable hu)

/-- What a compare leaves: its CR field, and nothing else but CIA. -/
theorem compare_next {i : Instr} {s : State} {crfD : BitVec 3} {v : BitVec 4} {lt gt eq : Bool}
    (h : exec i s = advance (setCrField s crfD v)) (hv : v = crBits lt gt eq (ibmBit s.xer 0)) :
    ∃ t, exec i s = .next t ∧ CrFieldIs crfD lt gt eq (ibmBit s.xer 0) s t ∧ SameBytes s t ∧
      t = { s with cr := t.cr, cia := s.cia + 4 } := by
  subst hv
  exact ⟨_, h, crFieldIs_setCrField s crfD lt gt eq (ibmBit s.xer 0), fun _ => rfl, rfl⟩

/-- Settles O8: with L = 0 each compare writes its CR field; with L = 1 the form check stops it (R330). -/
theorem compares : Obligations.Compares := by
  intro s crfD rA rB imm a b sets
  have hsigned : a = sext16 imm ↔ a.toInt = imm.toInt := by
    rw [← toInt_sext16, BitVec.toInt_inj]
  have hunsigned : a = zext16 imm ↔ a.toNat = imm.toNat := by
    rw [← toNat_zext16, BitVec.toNat_inj]
  refine ⟨fun hu => ⟨compare_next (compare_body hu) ?_, compare_next (compare_body hu) ?_⟩,
    fun hu => ⟨compare_next (compare_body hu) (compareSigned_eq a b _),
      compare_next (compare_body hu) (compareUnsigned_eq a b _)⟩,
    rfl, rfl, rfl, rfl⟩
  · refine (compareSigned_eq a (sext16 imm) _).trans ?_
    simp only [toInt_sext16, hsigned]
    rfl
  · refine (compareUnsigned_eq a (zext16 imm) _).trans ?_
    simp only [toNat_zext16, hunsigned]
    rfl

end Sys2Proof.Machine

end

section
/-!
SUPPORT. The logical family: bitwise combinations, sign extension, leading zeros and shifts.
-/

/-!
Bitwise combinations (O9).
-/
namespace Sys2Proof.Machine

theorem getLsbD_not_of_lt (w : Word) {k : Nat} (hk : k < 32) : (~~~w).getLsbD k = !w.getLsbD k := by
  rw [BitVec.getLsbD_not, decide_eq_true hk, Bool.true_and]

/-- Each bit of `r` is the combination `f` of the bits of `x` and `y` in its place. -/
def CombinesBits (f : Bool → Bool → Bool) (x y r : Word) : Prop :=
  ∀ k, k < 32 → r.getLsbD k = f (x.getLsbD k) (y.getLsbD k)

theorem combinesBits_and {x y : Word} : CombinesBits (fun a b => a && b) x y (x &&& y) :=
  fun _ _ => BitVec.getLsbD_and

theorem combinesBits_or {x y : Word} : CombinesBits (fun a b => a || b) x y (x ||| y) :=
  fun _ _ => BitVec.getLsbD_or

theorem combinesBits_xor {x y : Word} : CombinesBits (fun a b => a != b) x y (x ^^^ y) :=
  fun _ _ => BitVec.getLsbD_xor

theorem CombinesBits.not {f : Bool → Bool → Bool} {x y r : Word} (h : CombinesBits f x y r) :
    CombinesBits (fun a b => !f a b) x y (~~~r) :=
  fun k hk => (getLsbD_not_of_lt r hk).trans (congrArg _ (h k hk))

theorem CombinesBits.of_not_right {f : Bool → Bool → Bool} {x y r : Word} (h : CombinesBits f x (~~~y) r) :
    CombinesBits (fun a b => f a !b) x y r :=
  fun k hk => (h k hk).trans (congrArg _ (getLsbD_not_of_lt y hk))

/-- Two bits agree where they do not differ: `eqv` is the complement of `xor` (R362). -/
theorem combinesBits_eqv {x y : Word} : CombinesBits (fun a b => a == b) x y (~~~(x ^^^ y)) :=
  fun k hk => (combinesBits_xor.not k hk).trans (Bool.not_not _)

theorem zext16_eq_ofNat (imm : BitVec 16) : zext16 imm = BitVec.ofNat 32 imm.toNat :=
  (BitVec.ofNat_toNat 32 imm).symm

theorem high16_eq_ofNat (imm : BitVec 16) : high16 imm = BitVec.ofNat 32 (imm.toNat * 2 ^ 16) := by
  have hzero : (0 : BitVec 16).toNat = 0 := rfl
  apply BitVec.eq_of_toNat_eq
  rw [high16, toNat_append_add, hzero, BitVec.toNat_ofNat]
  omega

/-- Settles O9: each writes its combination of rS with rB, or with its immediate in the low or the high half. -/
theorem logical : Obligations.Logical := by
  intro s rS rA rB uimm rc hu combines low high b
  have hu2 : s.gprsUsable [rA, rS] = true := gprsUsable_mono hu (by simp)
  have hlow : zext16 uimm = low := zext16_eq_ofNat uimm
  have hhigh : high16 uimm = high := high16_eq_ofNat uimm
  have register {i : Instr} {rec : Bool} {r : Word} (h : exec i s = withGprs s [rA, rS, rB] (resultInto rec rA r s)) :
      Computes i s rA r rec none none := computes_of_resultInto (h.trans (withGprs_of_usable hu)) rfl
  have immediate {i : Instr} {rec : Bool} {r : Word} (h : exec i s = withGprs s [rA, rS] (resultInto rec rA r s)) :
      Computes i s rA r rec none none := computes_of_resultInto (h.trans (withGprs_of_usable hu2)) rfl
  rw [← hlow, ← hhigh]
  exact ⟨⟨_, combinesBits_and, register rfl⟩, ⟨_, combinesBits_or, register rfl⟩,
    ⟨_, combinesBits_xor, register rfl⟩, ⟨_, combinesBits_and.not, register rfl⟩,
    ⟨_, combinesBits_or.not, register rfl⟩, ⟨_, combinesBits_eqv, register rfl⟩,
    ⟨_, combinesBits_and.of_not_right, register rfl⟩, ⟨_, combinesBits_or.of_not_right, register rfl⟩,
    ⟨_, combinesBits_and, immediate rfl⟩, ⟨_, combinesBits_and, immediate rfl⟩,
    ⟨_, combinesBits_or, immediate rfl⟩, ⟨_, combinesBits_or, immediate rfl⟩,
    ⟨_, combinesBits_xor, immediate rfl⟩, ⟨_, combinesBits_xor, immediate rfl⟩⟩

end Sys2Proof.Machine

/-!
Sign extension and leading zeros (O10).
-/
namespace Sys2Proof.Machine

/-- The signed and the unsigned value of a word differ by 0 or 2^w, so their low bits agree. -/
theorem toInt_emod_two_pow {w n : Nat} (x : BitVec w) (hn : n ≤ w) : x.toInt % 2 ^ n = (x.toNat : Int) % 2 ^ n := by
  have hdvd : (2 ^ n : Int) ∣ ((2 ^ w : Nat) : Int) := by exact_mod_cast pow_dvd_pow 2 hn
  rw [BitVec.toInt_eq_toNat_bmod, ← Int.emod_emod_of_dvd _ hdvd, Int.bmod_emod, Int.emod_emod_of_dvd _ hdvd]

/-- The low `n` bits as a signed integer are congruent to the word (R365, R366). -/
theorem toInt_lowBits_emod (v : Word) {n : Nat} (hn : n ≤ 32) :
    ((v.extractLsb' 0 n).toInt - v.toInt) % 2 ^ n = 0 := by
  rw [← Int.emod_eq_emod_iff_emod_sub_eq_zero, toInt_emod_two_pow _ le_rfl, toInt_emod_two_pow v hn, extract_toNat,
    pow_zero, Nat.div_one, Int.natCast_emod]
  exact Int.emod_emod_of_dvd _ (dvd_of_eq (by norm_cast))

/-- The count of leading zeros as a number (R367). -/
def leadingZeros (v : Word) : Nat := if v = 0 then 32 else 31 - Nat.log2 v.toNat

theorem countLeadingZeros_eq (v : Word) : countLeadingZeros v = BitVec.ofNat 32 (leadingZeros v) := rfl

theorem leadingZeros_le (v : Word) : leadingZeros v ≤ 32 := by
  unfold leadingZeros
  split <;> omega

theorem ibmBit_of_lt_leadingZeros (v : Word) {k : Nat} (hk : k < leadingZeros v) : ibmBit v k = false := by
  unfold leadingZeros at hk
  by_cases hv : v = 0
  · rw [hv]
    exact BitVec.getLsbD_zero
  · rw [if_neg hv] at hk
    have hbound : v.toNat < 2 ^ (31 - k) :=
      Nat.lt_log2_self.trans_le (Nat.pow_le_pow_right (by decide) (by omega))
    exact Nat.testBit_lt_two_pow hbound

theorem ibmBit_leadingZeros (v : Word) (h : leadingZeros v < 32) : ibmBit v (leadingZeros v) = true := by
  unfold leadingZeros at h ⊢
  by_cases hv : v = 0
  · rw [if_pos hv] at h
    exact absurd h (lt_irrefl 32)
  · have hne : v.toNat ≠ 0 := fun h0 => hv (BitVec.eq_of_toNat_eq h0)
    have hlog : v.toNat.log2 < 32 := (Nat.log2_lt hne).mpr v.isLt
    rw [if_neg hv, ibmBit, Nat.sub_sub_self (Nat.le_of_lt_succ hlog)]
    exact Nat.testBit_log2 hne

/-- Settles O10: the signed low bits are the integer extended, and `leadingZeros` is the number counted. -/
theorem extendAndCount : Obligations.ExtendAndCount := by
  intro s rS rA rc hu v signed
  have hsigned {n : Nat} (hn : n ≤ 32) : signed n (v.extractLsb' 0 n).toInt :=
    ⟨BitVec.le_toInt _, BitVec.toInt_lt, toInt_lowBits_emod v hn⟩
  exact ⟨⟨_, hsigned (by decide), computes_of_resultInto (withGprs_of_usable hu) rfl⟩,
    ⟨_, hsigned (by decide), computes_of_resultInto (withGprs_of_usable hu) rfl⟩,
    leadingZeros v, leadingZeros_le v, fun k hk => ibmBit_of_lt_leadingZeros v hk, ibmBit_leadingZeros v,
    computes_of_resultInto (withGprs_of_usable hu) (countLeadingZeros_eq v)⟩

end Sys2Proof.Machine

/-!
Shifts (O12).
-/
namespace Sys2Proof.Machine

theorem shiftAmount_eq (b : Word) : shiftAmount b = b.toNat % 64 := by
  rw [shiftAmount, extract_toNat, pow_zero, Nat.div_one]
  rfl

theorem shiftLeft_eq_ofNat (v : Word) (n : Nat) : v <<< n = BitVec.ofNat 32 (v.toNat * 2 ^ n) := by
  apply BitVec.eq_of_toNat_eq
  rw [BitVec.toNat_shiftLeft, BitVec.toNat_ofNat, Nat.shiftLeft_eq]

theorem ushiftRight_eq_ofNat (v : Word) (n : Nat) : v >>> n = BitVec.ofNat 32 (v.toNat / 2 ^ n) := by
  have hlt : v.toNat / 2 ^ n < 2 ^ 32 := (Nat.div_le_self ..).trans_lt v.isLt
  apply BitVec.eq_of_toNat_eq
  rw [BitVec.toNat_ushiftRight, BitVec.toNat_ofNat, Nat.shiftRight_eq_div_pow, Nat.mod_eq_of_lt hlt]

theorem sshiftRight_eq_ofInt (v : Word) (n : Nat) : v.sshiftRight n = BitVec.ofInt 32 (v.toInt / 2 ^ n) := by
  rw [BitVec.sshiftRight_eq, Int.shiftRight_eq_div_pow, Nat.cast_pow, Nat.cast_ofNat]

/-- No 1 is shifted out exactly where the signed value is a multiple of 2^n: up to 32 bits because the low bits agree,
beyond because only zero is a multiple. -/
theorem dvd_toNat_iff_dvd_toInt (v : Word) (n : Nat) : 2 ^ n ∣ v.toNat ↔ (2 ^ n : Int) ∣ v.toInt := by
  rcases le_total n 32 with hn | hn
  · rw [Int.dvd_iff_emod_eq_zero, toInt_emod_two_pow v hn, ← Int.dvd_iff_emod_eq_zero]
    exact_mod_cast Iff.rfl
  · have hlow : -2 ^ 31 ≤ v.toInt := v.le_toInt
    have hhigh : v.toInt < 2 ^ 31 := v.toInt_lt
    constructor
    · intro h
      have hzero : v.toNat = 0 := Nat.eq_zero_of_dvd_of_lt ((pow_dvd_pow 2 hn).trans h) v.isLt
      rw [show v = 0 from BitVec.eq_of_toNat_eq hzero, show (0 : Word).toInt = 0 from rfl]
      exact dvd_zero _
    · intro h
      have hdvd : (2 ^ 32 : Int) ∣ v.toInt := (pow_dvd_pow 2 hn).trans h
      have hzero : v.toInt = 0 := by omega
      rw [show v = 0 from BitVec.eq_of_toInt_eq hzero]
      exact dvd_zero _

/-- CA of the algebraic shifts: the source is negative and a 1 is shifted out (R382). -/
theorem shiftedOut_eq (v : Word) (n : Nat) :
    (v.msb && v.toNat % 2 ^ n != 0) = decide (v.toInt < 0 ∧ v.toInt % 2 ^ n ≠ 0) := by
  have hout : v.toNat % 2 ^ n = 0 ↔ v.toInt % 2 ^ n = 0 := by
    rw [← Nat.dvd_iff_mod_eq_zero, ← Int.dvd_iff_emod_eq_zero]
    exact dvd_toNat_iff_dvd_toInt v n
  rw [BitVec.msb_eq_toInt, Bool.eq_iff_iff, Bool.and_eq_true, bne_iff_ne, decide_eq_true_eq, decide_eq_true_eq,
    ne_eq, hout]

/-- What a shift right algebraic by `n` leaves (R382, R383). -/
theorem computes_of_shiftRightAlgebraic {i : Instr} {s : State} {rc : Bool} {rA : Reg} {v : Word} {n : Nat}
    (h : exec i s = shiftRightAlgebraic rc rA v n s) :
    Computes i s rA (BitVec.ofInt 32 (v.toInt / 2 ^ n)) rc none
      (some (decide (v.toInt < 0 ∧ v.toInt % 2 ^ n ≠ 0))) := by
  rw [← sshiftRight_eq_ofInt, ← shiftedOut_eq]
  exact computes_of_outcome h (resultCarry_computes ..)

/-- Settles O12: the logical shifts write a product and a quotient, the algebraic ones the quotient rounded down. -/
theorem shifts : Obligations.Shifts := by
  intro s rS rA rB sh rc hu v n carry
  have hn : shiftAmount (s.readGpr rB) = n := shiftAmount_eq _
  rw [← hn]
  exact ⟨computes_of_resultInto (withGprs_of_usable hu) (shiftLeft_eq_ofNat v _),
    computes_of_resultInto (withGprs_of_usable hu) (ushiftRight_eq_ofNat v _),
    computes_of_shiftRightAlgebraic (withGprs_of_usable hu),
    computes_of_shiftRightAlgebraic (withGprs_of_usable (gprsUsable_mono hu (by simp)))⟩

end Sys2Proof.Machine

end

/-!
Floating-point instructions that stop at their guards (O42).
-/
namespace Sys2Proof.Machine

/- The guards of spec/42_floating_point.md R400, R402. -/

theorem isIntTagged_of_tagged {s : State} {r : Reg} (h : s.isSingle r = false) (ht : s.isTagged r = true) :
    s.isIntTagged r = true := by
  unfold State.isSingle at h
  unfold State.isTagged at ht
  unfold State.isIntTagged
  revert h ht
  cases s.spTag r <;> cases s.ltTag r <;> decide

theorem guardSingles_all {s : State} {srcs : List Reg} (h : ∀ r ∈ srcs, s.isSingle r = true) :
    guardSingles s srcs = .ok () := by
  induction srcs with
  | nil => rfl
  | cons r rest ih =>
    rw [List.forall_mem_cons] at h
    exact (if_pos h.1).trans (ih h.2)

/-- What a list of sources that are not all singles stops with: the refusal where each is tagged, the fault where none is an
integer word. -/
def StopsUnfit (s : State) (srcs : List Reg) (o : Out) : Prop :=
  ((∀ x ∈ srcs, s.isTagged x = true) → o = .refused .fprIntegerOperand) ∧
  ((∀ x ∈ srcs, s.isIntTagged x = false) → o = .fault .fprUntagged) ∧
  (o = .refused .fprIntegerOperand ∨ o = .fault .fprUntagged)

theorem guardSingles_unfit {s : State} {srcs : List Reg} (h : ∃ x ∈ srcs, s.isSingle x = false) :
    ∃ o, guardSingles s srcs = .error o ∧ StopsUnfit s srcs o := by
  induction srcs with
  | nil =>
    obtain ⟨x, hx, -⟩ := h
    exact absurd hx List.not_mem_nil
  | cons r rest ih =>
    simp only [StopsUnfit, List.forall_mem_cons, guardSingles]
    by_cases hs : s.isSingle r = true
    · rw [if_pos hs]
      have hrest : ∃ x ∈ rest, s.isSingle x = false := by
        rw [List.exists_mem_cons_iff, hs] at h
        exact h.resolve_left Bool.noConfusion
      obtain ⟨o, ho, htagged, hword, heither⟩ := ih hrest
      exact ⟨o, ho, fun ht => htagged ht.2, fun hw => hword hw.2, heither⟩
    · rw [if_neg hs]
      by_cases hi : s.isIntTagged r = true
      · rw [if_pos hi]
        exact ⟨_, rfl, fun _ => rfl, fun hw => absurd hi (by simp [hw.1]), .inl rfl⟩
      · rw [if_neg hi]
        exact ⟨_, rfl, fun ht => absurd (isIntTagged_of_tagged (Bool.eq_false_of_not_eq_true hs) ht.1) hi,
          fun _ => rfl, .inr rfl⟩

section
variable {s : State} {srcs : List Reg} {o : Out}

theorem guardSingles_stops (h : ∃ x ∈ srcs, s.isSingle x = false) (k : Unit → Out) :
    StopsUnfit s srcs (proceed (guardSingles s srcs) k) := by
  obtain ⟨o, ho, hstops⟩ := guardSingles_unfit h
  rw [ho]
  exact hstops

theorem guardArith_stops (hfp : s.msrBit msrFP = true) (h : ∃ x ∈ srcs, s.isSingle x = false) (k : Unit → Out) :
    StopsUnfit s srcs (proceed (guardArith s srcs) k) := by
  obtain ⟨o, ho, hstops⟩ := guardSingles_unfit h
  have hg : guardArith s srcs = .error o := by
    simp only [guardArith, guardFp, hfp, require_true, ho]
    rfl
  rw [hg]
  exact hstops

theorem guardCompare_stops {frA frB : Reg} (hfp : s.msrBit msrFP = true)
    (h : ∃ x ∈ [frA, frB], s.isSingle x = false) (k : Unit → Out) :
    StopsUnfit s [frA, frB] (proceed (guardCompare s frA frB) k) := by
  obtain ⟨o, ho, hstops⟩ := guardSingles_unfit h
  have hg : guardCompare s frA frB = .error o := by
    simp only [guardCompare, guardFp, hfp, require_true]
    exact ho
  rw [hg]
  exact hstops

theorem guardArith_off (hfp : s.msrBit msrFP = false) (k : Unit → Out) :
    proceed (guardArith s srcs) k = raise .fpUnavailable 0 s := by
  simp only [guardArith, guardFp, hfp, require_false]
  rfl

theorem guardCompare_off {frA frB : Reg} (hfp : s.msrBit msrFP = false) (k : Unit → Out) :
    proceed (guardCompare s frA frB) k = raise .fpUnavailable 0 s := by
  simp only [guardCompare, guardFp, hfp, require_false]
  rfl

/-- A guard behind the check of MSR[FP], met. -/
theorem afterFp {P : Out → Prop} {k : Unit → Out} (hfp : s.msrBit msrFP = true) (h : P (k ())) :
    P (proceed (guardFp s) k) := by
  rw [guardFp_on hfp]
  exact h

theorem guardTagged_untagged {r : Reg} (h : s.isTagged r = false) (k : Unit → Out) :
    proceed (guardTagged s r) k = .fault .fprUntagged := by
  simp only [guardTagged, h, require_false, proceed_error]

end

section
variable {s : State} {named : List Reg} {frS : Reg}

theorem storeSingleFp_stops (hfp : s.msrBit msrFP = true) (hu : s.gprsUsable named = true)
    (h : ∃ x ∈ [frS], s.isSingle x = false) (w ea : Word) (base : Option Reg) :
    StopsUnfit s [frS] (storeSingleFp s w named ea frS base) := by
  refine afterFp hfp ?_
  rw [withGprs_of_usable hu]
  exact guardSingles_stops h _

theorem storeDoubleFp_stops (hfp : s.msrBit msrFP = true) (hu : s.gprsUsable named = true)
    (h : s.isTagged frS = false) (w ea : Word) (base : Option Reg) :
    storeDoubleFp s w named ea frS base = .fault .fprUntagged := by
  refine (guardFp_on hfp).trans ?_
  rw [withGprs_of_usable hu]
  exact guardTagged_untagged h _

end

/-- Settles O42: with MSR[FP] = 0 the first guard ends each of these instructions; with MSR[FP] = 1 the guard of the
sources does. -/
theorem floatUnavailable : Obligations.FloatUnavailable := by
  intro s a b c d x y z fm disp rc b0 unfit untagged
  refine ⟨fun hoff => ⟨?_, fun hb => ?_⟩, fun hfp => ?_⟩
  · have hguard {k : Unit → Out} := guardFp_off (k := k) hoff
    have harith (srcs : List Reg) (k : Unit → Out) := guardArith_off (srcs := srcs) hoff k
    simp only [List.forall_mem_cons]
    exact ⟨harith _ _, harith _ _, harith _ _, harith _ _, harith _ _, harith _ _, harith _ _, harith _ _, harith _ _,
      harith _ _, harith _ _, harith _ _, guardCompare_off hoff _, guardCompare_off hoff _, hguard, hguard, hguard, hguard,
      hguard, hguard, hguard, hguard, hguard, hguard, hguard, hguard, hguard, hguard, hguard, hguard, hguard, hguard,
      hguard, List.forall_mem_nil _⟩
  · have hguard {k k' : Unit → Out} (h : k' () = proceed (guardFp s) k) :
        proceed (guardForm (updateOk b)) k' = raise .fpUnavailable 0 s :=
      (guardForm_true (updateOk_of_ne hb)).trans (h.trans (guardFp_off hoff))
    simp only [List.forall_mem_cons]
    exact ⟨hguard rfl, hguard rfl, hguard rfl, hguard rfl, hguard rfl, hguard rfl, hguard rfl, hguard rfl,
      List.forall_mem_nil _⟩
  · have harith {srcs : List Reg} (h : ∃ x ∈ srcs, s.isSingle x = false) (k : Unit → Out) := guardArith_stops hfp h k
    have hmove {srcs : List Reg} (h : ∃ x ∈ srcs, s.isSingle x = false) (k : Unit → Out) :
        StopsUnfit s srcs (proceed (guardFp s) fun _ => proceed (guardSingles s srcs) k) :=
      afterFp hfp (guardSingles_stops h k)
    have htagged {r : Reg} (h : s.isTagged r = false) (k : Unit → Out) :
        (proceed (guardFp s) fun _ => proceed (guardTagged s r) k) = .fault .fprUntagged :=
      (guardFp_on hfp).trans (guardTagged_untagged h k)
    have hbase (hb : b ≠ 0) : b0 = [b] := if_neg hb
    refine ⟨fun h => ?_, fun h => ?_, fun h => ?_, fun h => ?_, fun h => ?_, fun hsingle => ?_, fun hu => ?_, fun hu => ?_⟩
    · change ∀ i ∈ _, StopsUnfit s _ (exec i s)
      simp only [List.forall_mem_cons]
      exact ⟨harith h _, harith h _, harith h _, harith h _, List.forall_mem_nil _⟩
    · change ∀ i ∈ _, StopsUnfit s _ (exec i s)
      simp only [List.forall_mem_cons]
      exact ⟨harith h _, harith h _, harith h _, harith h _, List.forall_mem_nil _⟩
    · change ∀ i ∈ _, StopsUnfit s _ (exec i s)
      simp only [List.forall_mem_cons]
      exact ⟨harith h _, harith h _, harith h _, harith h _, hmove h _, hmove h _, hmove h _, hmove h _,
        List.forall_mem_nil _⟩
    · change ∀ i ∈ _, StopsUnfit s _ (exec i s)
      simp only [List.forall_mem_cons]
      exact ⟨guardCompare_stops hfp h _, guardCompare_stops hfp h _, List.forall_mem_nil _⟩
    · simp only [List.forall_mem_cons]
      exact ⟨htagged h _, htagged h _, List.forall_mem_nil _⟩
    · intro v hsrc
      rw [← if_congr (fpNotLess_iff v) rfl rfl] at hsrc
      rw [List.forall_mem_singleton]
      exact (guardFp_on hfp).trans ((guardSingles_single hsingle).trans (guardTagged_untagged hsrc _))
    · refine ⟨fun h => ?_, fun h => ?_, fun hb => ⟨fun h => ?_, fun h => ?_⟩⟩ <;> rw [List.forall_mem_singleton]
      · exact storeSingleFp_stops hfp hu h _ _ _
      · exact storeDoubleFp_stops hfp hu h _ _ _
      all_goals rw [hbase hb] at hu
      · exact (congrArg (StopsUnfit s [a]) (guardForm_true (updateOk_of_ne hb))).mpr (storeSingleFp_stops hfp hu h _ _ _)
      · exact (guardForm_true (updateOk_of_ne hb)).trans (storeDoubleFp_stops hfp hu h _ _ _)
    · have hindexed : s.gprsUsable (b0 ++ [c]) = true := gprsUsable_mono hu (by simp)
      refine ⟨fun h => ?_, fun h => ?_, fun hb => ⟨fun h => ?_, fun h => ?_⟩⟩ <;> rw [List.forall_mem_singleton]
      · exact storeSingleFp_stops hfp hindexed h _ _ _
      · exact storeDoubleFp_stops hfp hindexed h _ _ _
      all_goals rw [hbase hb] at hindexed
      · exact (congrArg (StopsUnfit s [a]) (guardForm_true (updateOk_of_ne hb))).mpr (storeSingleFp_stops hfp hindexed h _ _ _)
      · exact (guardForm_true (updateOk_of_ne hb)).trans (storeDoubleFp_stops hfp hindexed h _ _ _)

end Sys2Proof.Machine

/-!
What a floating-point instruction leaves in the FPSCR, and how it ends; the FPSCR moves (O21).
-/
namespace Sys2Proof.Machine

/- Bits of words. -/

theorem ibmBit_not (w : Word) {k : Nat} (hk : k < 32) : ibmBit (~~~w) k = !ibmBit w k := getLsbD_not_of_lt w (by omega)

theorem ibmBit_shiftLeft (w : Word) (n : Nat) {k : Nat} (hk : k + n < 32) : ibmBit (w <<< n) k = ibmBit w (k + n) := by
  unfold ibmBit
  rw [BitVec.getLsbD_shiftLeft, decide_eq_true (by omega : 31 - k < 32), decide_eq_false (by omega : ¬31 - k < n),
    Nat.sub_sub 31 k n]
  rfl

theorem ibmBit_bit {n k : Nat} (hn : n < 32) (hk : k < 32) : ibmBit (0x80000000#32 >>> n) k = decide (k = n) := by
  unfold ibmBit
  rw [BitVec.getLsbD_ushiftRight, signMask_getLsbD, decide_eq_decide]
  omega

/-- A word is not 0 where one of its bits is 1. -/
theorem ne_zero_eq_any (w : Word) : (w != 0) = (List.range 32).any (ibmBit w) := by
  rw [Bool.eq_iff_iff, bne_iff_ne, List.any_eq_true, Ne, ← not_iff_not, not_not]
  refine ⟨fun h ⟨k, _, hk⟩ => ?_, fun h => word_eq_of_ibmBits fun k hk => ?_⟩
  · rw [h] at hk
    exact Bool.false_ne_true ((BitVec.getLsbD_zero).symm.trans hk)
  · have hb : ibmBit w k = false := Bool.eq_false_of_not_eq_true fun hb => h ⟨k, List.mem_range.mpr hk, hb⟩
    exact hb.trans BitVec.getLsbD_zero.symm

/-- A word under a mask is not 0 where one of the bits the mask names is 1. -/
theorem masked_ne_zero {mask : Word} {ks : List Nat} (hmask : ∀ k < 32, ibmBit mask k = ks.contains k)
    (hks : ∀ k ∈ ks, k < 32) (w : Word) : (w &&& mask != 0) = ks.any (ibmBit w) := by
  rw [ne_zero_eq_any, Bool.eq_iff_iff, List.any_eq_true, List.any_eq_true]
  constructor
  · rintro ⟨k, hk, hb⟩
    rw [ibmBit_and, Bool.and_eq_true, hmask k (List.mem_range.mp hk)] at hb
    exact ⟨k, List.contains_iff_mem.mp hb.2, hb.1⟩
  · rintro ⟨k, hk, hb⟩
    have hlt := hks k hk
    refine ⟨k, List.mem_range.mpr hlt, ?_⟩
    rw [ibmBit_and, hmask k hlt, hb, List.contains_iff_mem.mpr hk]
    rfl

/- The summaries of the FPSCR (spec/10_state.md R51, R52). -/

theorem ibmBit_fpNormalize {f : Word} {k : Nat} (hk : k < 32) (h1 : k ≠ 1) (h2 : k ≠ 2) (h20 : k ≠ 20) :
    ibmBit (fpNormalize f) k = ibmBit f k := by
  have hstored : ibmBit fpscrStored k = true := by
    revert k
    decide
  simpa only [ibmBit_and, hstored, Bool.and_true] using congrArg (ibmBit · k) (fpNormalize_stored f)

theorem ibmBit_fpNormalize_reserved (f : Word) : ibmBit (fpNormalize f) 20 = false := by
  simp only [fpNormalize, ibmBit_or, ibmBit_and, ibmBit_maskIf]
  rw [show ibmBit 0x9FFFF7FF 20 = false from rfl, show ibmBit 0x20000000 20 = false from rfl,
    show ibmBit 0x40000000 20 = false from rfl]
  simp only [Bool.and_false, Bool.or_false]

theorem ibmBit_fpNormalize_invalid (f : Word) : ibmBit (fpNormalize f) 2 = fpscrInvalids.any (ibmBit f) := by
  rw [← masked_ne_zero (mask := fpInvalidBits) (by decide) (by decide) f]
  simp only [fpNormalize, ibmBit_or, ibmBit_and, ibmBit_maskIf]
  rw [show ibmBit 0x9FFFF7FF 2 = false from rfl, show ibmBit 0x20000000 2 = true from rfl,
    show ibmBit 0x40000000 2 = false from rfl]
  simp only [Bool.and_false, Bool.or_false, Bool.and_true, Bool.false_or]
  rfl

/-- FEX is computed from VX and the stored bits, each with the enable 22 places below it. -/
theorem ibmBit_fpNormalize_enabled (f : Word) :
    ibmBit (fpNormalize f) 1 = [2, 3, 4, 5, 6].any fun k => ibmBit (fpNormalize f) k && ibmBit f (k + 22) := by
  set vx := maskIf (fpBit f fpInvalidBits) 0x20000000 with hvx
  set g := (f &&& 0x9FFFF7FF) ||| vx with hg
  have hnorm : fpNormalize f = g ||| maskIf (g &&& (0x3E000000 : Word) &&& ((f &&& 0xF8) <<< 22) != 0) 0x40000000 := rfl
  have hlow (k : Nat) (hk : ibmBit 0x40000000 k = false) : ibmBit (fpNormalize f) k = ibmBit g k := by
    rw [hnorm, ibmBit_or, ibmBit_maskIf, hk, Bool.and_false, Bool.or_false]
  have hfex : ibmBit (fpNormalize f) 1 = (g &&& (0x3E000000 : Word) &&& ((f &&& 0xF8) <<< 22) != 0) := by
    rw [hnorm, ibmBit_or, ibmBit_maskIf, show ibmBit 0x40000000 1 = true from rfl, Bool.and_true, hg, ibmBit_or,
      ibmBit_and, hvx, ibmBit_maskIf, show ibmBit 0x9FFFF7FF 1 = false from rfl, show ibmBit 0x20000000 1 = false from rfl]
    simp only [Bool.and_false, Bool.or_false, Bool.false_or]
  have hcomm (e : Word) : g &&& (0x3E000000 : Word) &&& e = g &&& e &&& (0x3E000000 : Word) := by
    rw [BitVec.and_assoc, BitVec.and_comm (0x3E000000 : Word), BitVec.and_assoc]
  rw [hfex, hcomm, masked_ne_zero (ks := [2, 3, 4, 5, 6]) (by decide) (by decide)]
  have hterm (k : Nat) (hk : k ∈ [2, 3, 4, 5, 6]) :
      ibmBit (g &&& ((f &&& 0xF8) <<< 22)) k = (ibmBit (fpNormalize f) k && ibmBit f (k + 22)) := by
    have hlt : k + 22 < 32 := by
      revert k
      decide
    have hlowk : ibmBit 0x40000000 k = false ∧ ibmBit 0xF8 (k + 22) = true := by
      revert k
      decide
    rw [ibmBit_and, ibmBit_shiftLeft _ _ hlt, ibmBit_and, hlow k hlowk.1, hlowk.2, Bool.and_true]
  rw [Bool.eq_iff_iff, List.any_eq_true, List.any_eq_true]
  exact exists_congr fun k => and_congr_right fun hk => by rw [hterm k hk]

theorem fpNormalize_summed (f : Word) : FpscrSummed (fpNormalize f) := by
  have hkept (k : Nat) (hk : k < 32 ∧ k ≠ 1 ∧ k ≠ 2 ∧ k ≠ 20) : ibmBit (fpNormalize f) k = ibmBit f k :=
    ibmBit_fpNormalize hk.1 hk.2.1 hk.2.2.1 hk.2.2.2
  refine ⟨?_, ?_⟩
  · rw [ibmBit_fpNormalize_invalid, Bool.eq_iff_iff, List.any_eq_true, List.any_eq_true]
    refine exists_congr fun k => and_congr_right fun hk => ?_
    rw [hkept k (by revert k; decide)]
  · rw [ibmBit_fpNormalize_enabled, hkept 24 (by decide), hkept 25 (by decide), hkept 26 (by decide),
      hkept 27 (by decide), hkept 28 (by decide)]
    simp only [List.any_cons, List.any_nil, Bool.or_false, Bool.or_assoc]

/- The last steps of an instruction that updates the FPSCR (spec/42_floating_point.md R411, R412). -/

/-- The effects of `finishFp` before its enabled exception. -/
def fpFinished (s : State) (rc : Bool) (f : Word) : State := recordCr1 rc { s with fpscr := fpNormalize f }

@[simp] theorem fpFinished_fpscr (s : State) (rc : Bool) (f : Word) : (fpFinished s rc f).fpscr = fpNormalize f := by
  cases rc <;> rfl

theorem fpFinished_rest (s : State) (rc : Bool) (f : Word) :
    fpFinished s rc f = { s with fpscr := (fpFinished s rc f).fpscr, cr := (fpFinished s rc f).cr } := by
  cases rc <;> rfl

theorem fpFinished_cr1 (s : State) (rc : Bool) (f : Word) : Cr1After rc s (fpFinished s rc f) := by
  have h := recordCr1_after rc { s with fpscr := fpNormalize f }
  cases rc <;> exact h

/-- How an instruction that comes to `finishFp` ends, the part before it having left CIA and the MSR. -/
theorem finishFp_ends (s u : State) (rc : Bool) (f : Word) (hcia : u.cia = s.cia) (hmsr : u.msr = s.msr) :
    EndsFloat (finishFp u rc f) s (fpFinished u rc f) := by
  have hciaf : (fpFinished u rc f).cia = s.cia := by cases rc <;> exact hcia
  have hmsrf : (fpFinished u rc f).msr = s.msr := by cases rc <;> exact hmsr
  have hunfold : finishFp u rc f = if fpTrapEnabled (fpFinished u rc f).msr (fpFinished u rc f).fpscr
      then raise .program infoFpEnabled (fpFinished u rc f) else advance (fpFinished u rc f) := rfl
  rw [hmsrf] at hunfold
  rw [hunfold]
  have htrap : fpTrapEnabled s.msr (fpFinished u rc f).fpscr = true ↔
      s.msr &&& 0x00000900 ≠ 0 ∧ ibmBit (fpFinished u rc f).fpscr 1 = true := by
    rw [fpTrapEnabled, Bool.and_eq_true, bne_iff_ne]
    exact Iff.rfl
  generalize fpFinished u rc f = v at *
  constructor
  · intro h
    rw [if_neg, advance_next, hciaf]
    rw [htrap]
    rintro ⟨hfe, hfex⟩
    exact h.elim hfe fun hf => Bool.false_ne_true (hf.symm.trans hfex)
  · intro hfe hfex
    rw [if_pos (htrap.mpr ⟨hfe, hfex⟩), ← hciaf]
    rfl

/- The FPSCR moves (spec/42_floating_point.md R460 to R465). -/

/-- An FPSCR move that comes to `finishFp`, CR at most written before it: the bits given, and the summaries. -/
theorem fpscrMove_of_eq {i : Instr} {s u : State} {rc done rec : Bool} {f : Word} {crWritten : State → Prop}
    {bit : Nat → Bool} (h : exec i s = finishFp u done f) (hu : u = { s with cr := u.cr })
    (hbit : ∀ k, k < 32 → ibmBit f k = bit k) (hcr1 : rec = true → Cr1After rc s (fpFinished u done f))
    (hcr : crWritten (fpFinished u done f)) :
    ∃ t, EndsFloat (exec i s) s t ∧ FpscrSummed t.fpscr ∧
      (∀ k, k < 32 → k ≠ 1 → k ≠ 2 → k ≠ 20 → ibmBit t.fpscr k = bit k) ∧ ibmBit t.fpscr 20 = false ∧
      (rec = true → Cr1After rc s t) ∧ crWritten t ∧ t = { s with cr := t.cr, fpscr := t.fpscr } := by
  refine ⟨fpFinished u done f, ?_, ?_, fun k hk h1 h2 h20 => ?_, ?_, hcr1, hcr, ?_⟩
  · rw [h]
    exact finishFp_ends s u done f (by rw [hu]) (by rw [hu])
  · rw [fpFinished_fpscr]
    exact fpNormalize_summed f
  · rw [fpFinished_fpscr, ibmBit_fpNormalize hk h1 h2 h20, hbit k hk]
  · rw [fpFinished_fpscr, ibmBit_fpNormalize_reserved]
  · refine (fpFinished_rest u done f).trans ?_
    generalize fpFinished u done f = t
    rw [hu]

/-- A mask of one 4-bit field. -/
theorem ibmBit_field (n : BitVec 3) {k : Nat} (hk : k < 32) :
    ibmBit (0xF0000000#32 >>> (4 * n.toNat)) k = decide (k / 4 = n.toNat) := by
  have hn := n.isLt
  unfold ibmBit
  rw [BitVec.getLsbD_ushiftRight, topFour_getLsbD, decide_eq_decide]
  omega

theorem ibmBit_fieldMask (sel : BitVec 8) {k : Nat} (hk : k < 32) :
    ibmBit (fieldMask sel) k = sel.getLsbD (7 - k / 4) := by
  have hfield : ∀ j < 8, ibmBit (0xF0000000#32 >>> (4 * j)) k = decide (k / 4 = j) := fun j hj => by
    simpa [Nat.mod_eq_of_lt hj] using ibmBit_field (BitVec.ofNat 3 j) hk
  have hfold (js : List Nat) (hjs : ∀ j ∈ js, j < 8) (m : Word) :
      ibmBit (js.foldl (fun m j => m ||| maskIf (sel.getLsbD (7 - j)) (0xF0000000#32 >>> (4 * j))) m) k =
        (ibmBit m k || (js.contains (k / 4) && sel.getLsbD (7 - k / 4))) := by
    induction js generalizing m with
    | nil => simp
    | cons j js ih =>
      rw [List.forall_mem_cons] at hjs
      rw [List.foldl_cons, ih hjs.2, ibmBit_or, ibmBit_maskIf, hfield j hjs.1, List.contains_cons, Bool.or_assoc]
      by_cases hj : k / 4 = j
      · rw [hj, beq_self_eq_true, decide_eq_true rfl]
        cases sel.getLsbD (7 - j) <;> simp
      · rw [beq_eq_false_iff_ne.mpr hj, decide_eq_false hj, Bool.and_false, Bool.false_or, Bool.false_or]
  have hmem : (List.range 8).contains (k / 4) = true := List.contains_iff_mem.mpr (List.mem_range.mpr (by omega))
  rw [fieldMask, hfold _ (fun j hj => List.mem_range.mp hj), hmem, show ibmBit 0 k = false from BitVec.getLsbD_zero,
    Bool.false_or, Bool.true_and]

theorem ibmBit_setIbmBit_false (w : Word) {n k : Nat} (hn : n < 32) (hk : k < 32) :
    ibmBit (setIbmBit w n false) k = (ibmBit w k && k != n) := by
  by_cases h : k = n
  · rw [h, ibmBit_setIbmBit_same w n false hn]
    simp
  · rw [ibmBit_setIbmBit_other w n k false hk h]
    simp [h]

theorem fpExceptionBits_bit {k : Nat} (hk : k < 32) : ibmBit fpExceptionBits k = fpscrExceptions.contains k := by
  revert k
  decide

theorem ibmBit_fpFX {k : Nat} (hk : k < 32) : ibmBit fpFX k = (k == 0) := by
  revert k
  decide

/-- The implicit update of exception bits: FX where one of them was 0 (spec/42_floating_point.md R403 e). -/
theorem ibmBit_fpSetSticky (raised f : Word) {k : Nat} (hk : k < 32) :
    ibmBit (fpSetSticky raised f) k = (ibmBit f k || ibmBit raised k ||
      (k == 0 && fpscrExceptions.any fun j => ibmBit raised j && !ibmBit f j)) := by
  have hnew : (raised &&& fpExceptionBits &&& ~~~f != 0) =
      fpscrExceptions.any fun j => ibmBit raised j && !ibmBit f j := by
    have hcomm : raised &&& fpExceptionBits &&& ~~~f = raised &&& ~~~f &&& fpExceptionBits := by
      rw [BitVec.and_assoc, BitVec.and_comm fpExceptionBits, BitVec.and_assoc]
    rw [hcomm, masked_ne_zero (fun j hj => fpExceptionBits_bit hj) (by decide)]
    rw [Bool.eq_iff_iff, List.any_eq_true, List.any_eq_true]
    refine exists_congr fun j => and_congr_right fun hj => ?_
    rw [ibmBit_and, ibmBit_not f (by revert j; decide)]
  unfold fpSetSticky
  rw [ibmBit_or, ibmBit_or, ibmBit_maskIf, ibmBit_fpFX hk, hnew, Bool.and_comm (k == 0)]

/-- The four bits of a field as `field4` takes them. -/
theorem field4_eq_crBits (w : Word) (n : BitVec 3) :
    field4 w n = crBits (ibmBit w (4 * n.toNat)) (ibmBit w (4 * n.toNat + 1)) (ibmBit w (4 * n.toNat + 2))
      (ibmBit w (4 * n.toNat + 3)) := by
  have hn := n.isLt
  apply BitVec.eq_of_getLsbD_eq
  intro i hi
  have hbit (j : Nat) (hj : i + j = 3) : (field4 w n).getLsbD i = ibmBit w (4 * n.toNat + j) := by
    unfold field4 ibmBit
    rw [BitVec.getLsbD_extractLsb', decide_eq_true hi, Bool.true_and]
    congr 1
    omega
  obtain ⟨h3, h2, h1, h0⟩ := crBits_getLsbD (ibmBit w (4 * n.toNat)) (ibmBit w (4 * n.toNat + 1))
    (ibmBit w (4 * n.toNat + 2)) (ibmBit w (4 * n.toNat + 3))
  match i, hi with
  | 0, _ => rw [h0, hbit 3 rfl]
  | 1, _ => rw [h1, hbit 2 rfl]
  | 2, _ => rw [h2, hbit 1 rfl]
  | 3, _ => rw [h3, hbit 0 rfl, Nat.add_zero]

theorem spTag_eq_isSingle {s : State} {r : Reg} (h : s.isTagged r = true) : s.isSingle r = s.spTag r := by
  unfold State.isTagged at h
  unfold State.isSingle
  revert h
  cases s.spTag r <;> cases s.ltTag r <;> decide

/-- Settles O21: `mffs` is a move; each of the others comes to `finishFp` with the FPSCR its bits are read off from. -/
theorem fpscrMoves : Obligations.FpscrMoves := by
  intro s frD frB crfD crfS imm fm crbD rc hfp f writes any
  refine ⟨?_, ?_, ?_, fun htag => ?_, ?_, ?_⟩
  · exact move_of_eq (i := .mffs frD rc) (guardFp_on hfp) rfl
  · refine fpscrMove_of_eq (i := .mcrfs crfD crfS) (done := false) (rec := false) (guardFp_on hfp) rfl (fun k hk => ?_)
      (fun h => Bool.noConfusion h) ?_
    · rw [ibmBit_and, ibmBit_not _ hk, ibmBit_and, ibmBit_or, fpExceptionBits_bit hk, ibmBit_fpFX hk, fieldMaskOf,
        ibmBit_field _ hk]
    · rw [field4_eq_crBits]
      exact crFieldIs_setCrField ..
  · refine fpscrMove_of_eq (i := .mtfsfi crfD imm rc) (guardFp_on hfp) rfl (fun k hk => ?_) (fun _ => fpFinished_cr1 s rc _) trivial
    rw [ibmBit_merge _ _ _ hk, fieldMaskOf, ibmBit_field _ hk, ibmBit_setField4 _ _ _ _ hk]
    by_cases h : k / 4 = crfD.toNat
    · simp [h]
    · simp [h, f]
  · refine fpscrMove_of_eq (i := .mtfsf fm frB rc) ((guardFp_on hfp).trans (guardTagged_tagged htag)) rfl
      (fun k hk => ?_) (fun _ => fpFinished_cr1 s rc _) trivial
    rw [ibmBit_merge _ _ _ hk, ibmBit_fieldMask _ hk, fprLowWord, spTag_eq_isSingle htag]
  · refine fpscrMove_of_eq (i := .mtfsb0 crbD rc) (guardFp_on hfp) rfl (fun k hk => ?_) (fun _ => fpFinished_cr1 s rc _) trivial
    exact ibmBit_setIbmBit_false _ crbD.isLt hk
  · refine fpscrMove_of_eq (i := .mtfsb1 crbD rc) (guardFp_on hfp) rfl (fun k hk => ?_) (fun _ => fpFinished_cr1 s rc _) trivial
    have hset : (fpscrExceptions.any fun j => ibmBit (0x80000000#32 >>> crbD.toNat) j && !ibmBit f j) =
        (fpscrExceptions.contains crbD.toNat && !ibmBit f crbD.toNat) := by
      rw [Bool.eq_iff_iff, List.any_eq_true, Bool.and_eq_true, List.contains_iff_mem]
      have hbit (j : Nat) (hj : j ∈ fpscrExceptions) :
          ibmBit (0x80000000#32 >>> crbD.toNat) j = decide (j = crbD.toNat) :=
        ibmBit_bit crbD.isLt (by revert j; decide)
      constructor
      · rintro ⟨j, hj, h⟩
        rw [hbit j hj, Bool.and_eq_true, decide_eq_true_eq] at h
        exact h.1 ▸ ⟨hj, h.2⟩
      · rintro ⟨hj, h⟩
        exact ⟨_, hj, by rw [hbit _ hj, h]; simp⟩
    rw [ibmBit_fpSetSticky _ _ hk, hset, ibmBit_bit crbD.isLt hk, Bool.and_assoc]
    rfl

end Sys2Proof.Machine

/-!
The FPSCR after arithmetic, conversions and compares; the compares (O19).
-/
namespace Sys2Proof.Machine

/- The FPSCR an instruction leaves (spec/10_state.md R51 to R53, spec/42_floating_point.md R403 e). -/

theorem fpSetSticky_zero (f : Word) : fpSetSticky 0 f = f := by
  have hnone : (0 : Word) &&& fpExceptionBits &&& ~~~f = 0 := by
    rw [BitVec.and_assoc]
    exact BitVec.zero_and
  rw [fpSetSticky, hnone]
  exact BitVec.or_zero.trans BitVec.or_zero

theorem getLsbD_fprf (g : Word) {i : Nat} (hi : i < 5) : (g.extractLsb' 12 5).getLsbD i = ibmBit g (19 - i) := by
  unfold ibmBit
  rw [BitVec.getLsbD_extractLsb', decide_eq_true hi, Bool.true_and]
  congr 1
  omega

section
variable {raised : Word}

theorem ibmBit_raised (hr : raised &&& ~~~fpExceptionBits = 0) {k : Nat} (hk : k < 32)
    (hnot : fpscrExceptions.contains k = false) : ibmBit raised k = false := by
  have h : ibmBit (raised &&& ~~~fpExceptionBits) k = false := by
    rw [hr]
    exact BitVec.getLsbD_zero
  rwa [ibmBit_and, ibmBit_not _ hk, fpExceptionBits_bit hk, hnot, Bool.not_false, Bool.and_true] at h

theorem ibmBit_fpSetSticky_kept (hr : raised &&& ~~~fpExceptionBits = 0) (f : Word) {k : Nat} (hk : k < 32)
    (h0 : k ≠ 0) (hnot : fpscrExceptions.contains k = false) : ibmBit (fpSetSticky raised f) k = ibmBit f k := by
  rw [ibmBit_fpSetSticky _ _ hk, ibmBit_raised hr hk hnot, beq_eq_false_iff_ne.mpr h0]
  simp only [Bool.or_false, Bool.false_and]

/-- An FPSCR that has the raised bits set and FR, FI and FPRF written, once its summaries are computed. -/
theorem fpscrAfter_of_status {f h : Word} {fr fi : Option Bool} {fprf : Option (BitVec 5)}
    (hr : raised &&& ~~~fpExceptionBits = 0)
    (hrest : ∀ k, k < 32 → ¬(13 ≤ k ∧ k < 20) → ibmBit h k = ibmBit (fpSetSticky raised f) k)
    (hfr : ibmBit h 13 = fr.getD (ibmBit f 13)) (hfi : ibmBit h 14 = fi.getD (ibmBit f 14))
    (hfprf : h.extractLsb' 12 5 = fprf.getD (f.extractLsb' 12 5)) :
    FpscrAfter raised fr fi fprf f (fpNormalize h) := by
  have hkept {k : Nat} (hk : k < 32) (h1 : k ≠ 1) (h2 : k ≠ 2) (h20 : k ≠ 20) := ibmBit_fpNormalize (f := h) hk h1 h2 h20
  refine ⟨fun k hk => ?_, ?_, fpNormalize_summed h, (hkept (by decide) (by decide) (by decide) (by decide)).trans hfr,
    (hkept (by decide) (by decide) (by decide) (by decide)).trans hfi, ?_, ibmBit_fpNormalize_reserved h,
    fun k hk hk' => ?_⟩
  · have hplace : k < 32 ∧ k ≠ 0 ∧ k ≠ 1 ∧ k ≠ 2 ∧ k ≠ 20 ∧ ¬(13 ≤ k ∧ k < 20) := by
      revert k
      decide
    obtain ⟨hlt, h0, h1, h2, h20, hout⟩ := hplace
    rw [hkept hlt h1 h2 h20, hrest k hlt hout, ibmBit_fpSetSticky _ _ hlt, beq_eq_false_iff_ne.mpr h0, Bool.false_and,
      Bool.or_false]
  · rw [hkept (by decide) (by decide) (by decide) (by decide), hrest 0 (by decide) (by decide),
      ibmBit_fpSetSticky _ _ (by decide), ibmBit_raised hr (by decide) (by decide), Bool.or_false, beq_self_eq_true,
      Bool.true_and]
  · rw [← hfprf]
    apply BitVec.eq_of_getLsbD_eq
    intro i hi
    rw [getLsbD_fprf _ hi, getLsbD_fprf _ hi, hkept (by omega) (by omega) (by omega) (by omega)]
  · have hnot : fpscrExceptions.contains k = false := by
      rw [← Bool.not_eq_true, List.contains_iff_mem]
      intro hmem
      have hle : ∀ j ∈ fpscrExceptions, j < 24 := by decide
      exact absurd (hle k hmem) (by omega)
    rw [hkept hk' (by omega) (by omega) (by omega), hrest k hk' (by omega),
      ibmBit_fpSetSticky_kept hr f hk' (by omega) hnot]

/-- Exception bits raised, and nothing else. -/
theorem fpscrAfter_sticky (hr : raised &&& ~~~fpExceptionBits = 0) (f : Word) :
    FpscrAfter raised none none none f (fpNormalize (fpSetSticky raised f)) := by
  have hkept (k : Nat) (hk : 13 ≤ k ∧ k < 20) : ibmBit (fpSetSticky raised f) k = ibmBit f k := by
    obtain ⟨hge, hlt⟩ := hk
    refine ibmBit_fpSetSticky_kept hr f (by omega) (by omega) ?_
    interval_cases k <;> rfl
  refine fpscrAfter_of_status hr (fun _ _ _ => rfl) (hkept 13 (by decide)) (hkept 14 (by decide)) ?_
  apply BitVec.eq_of_getLsbD_eq
  intro i hi
  exact (getLsbD_fprf _ hi).trans ((hkept _ (by omega)).trans (getLsbD_fprf _ hi).symm)

theorem ibmBit_fpFPRF {k : Nat} (hk : k < 32) : ibmBit fpFPRF k = decide (15 ≤ k ∧ k < 20) := by
  revert k
  decide

theorem ibmBit_fpFR {k : Nat} (hk : k < 32) : ibmBit fpFR k = decide (k = 13) := by
  revert k
  decide

theorem ibmBit_fpFI {k : Nat} (hk : k < 32) : ibmBit fpFI k = decide (k = 14) := by
  revert k
  decide

theorem ibmBit_fpSetRounding (fr fi : Bool) (f : Word) {k : Nat} (hk : k < 32) :
    ibmBit (fpSetRounding fr fi f) k = if k = 13 then fr else if k = 14 then fi else ibmBit f k := by
  rw [fpSetRounding, ibmBit_merge _ _ _ hk, ibmBit_or, ibmBit_or, ibmBit_maskIf, ibmBit_maskIf, ibmBit_fpFR hk,
    ibmBit_fpFI hk]
  by_cases h13 : k = 13
  · simp [h13]
  · by_cases h14 : k = 14
    · simp [h14]
    · simp [h13, h14]

theorem ibmBit_fpSetFprf (c : BitVec 5) (f : Word) {k : Nat} (hk : k < 32) :
    ibmBit (fpSetFprf c f) k = if 15 ≤ k ∧ k < 20 then c.getLsbD (19 - k) else ibmBit f k := by
  rw [fpSetFprf, ibmBit_merge _ _ _ hk, ibmBit_fpFPRF hk]
  by_cases h : 15 ≤ k ∧ k < 20
  · rw [if_pos h, if_pos (decide_eq_true h), ibmBit_shiftLeft _ 12 (by omega)]
    unfold ibmBit
    rw [BitVec.getLsbD_setWidth, decide_eq_true (by omega : 31 - (k + 12) < 32), Bool.true_and]
    congr 1
    omega
  · rw [if_neg h, decide_eq_false h]
    rfl

/-- Exception bits raised, and FR, FI and FPRF written. -/
theorem fpscrAfter_delivered (hr : raised &&& ~~~fpExceptionBits = 0) (fr fi : Bool) (c : BitVec 5) (f : Word) :
    FpscrAfter raised (some fr) (some fi) (some c) f
      (fpNormalize (fpSetFprf c (fpSetRounding fr fi (fpSetSticky raised f)))) := by
  refine fpscrAfter_of_status hr (fun k hk hout => ?_) ?_ ?_ ?_
  · rw [ibmBit_fpSetFprf _ _ hk, if_neg (by omega), ibmBit_fpSetRounding _ _ _ hk, if_neg (by omega), if_neg (by omega)]
  · rw [ibmBit_fpSetFprf _ _ (by decide), if_neg (by decide), ibmBit_fpSetRounding _ _ _ (by decide), if_pos rfl]
    rfl
  · rw [ibmBit_fpSetFprf _ _ (by decide), if_neg (by decide), ibmBit_fpSetRounding _ _ _ (by decide), if_neg (by decide),
      if_pos rfl]
    rfl
  · apply BitVec.eq_of_getLsbD_eq
    intro i hi
    rw [getLsbD_fprf _ hi, ibmBit_fpSetFprf _ _ (by omega), if_pos (by omega), Option.getD_some]
    congr 1
    omega

theorem ibmBit_fpSetFpcc (c : BitVec 4) (f : Word) {k : Nat} (hk : k < 32) :
    ibmBit (fpSetFpcc c f) k = if 16 ≤ k ∧ k < 20 then c.getLsbD (19 - k) else ibmBit f k := by
  have hmask : ∀ k < 32, ibmBit 0x0000F000 k = decide (16 ≤ k ∧ k < 20) := by decide
  rw [fpSetFpcc, ibmBit_merge _ _ _ hk, hmask k hk]
  by_cases h : 16 ≤ k ∧ k < 20
  · rw [if_pos h, if_pos (decide_eq_true h), ibmBit_shiftLeft _ 12 (by omega)]
    unfold ibmBit
    rw [BitVec.getLsbD_setWidth, decide_eq_true (by omega : 31 - (k + 12) < 32), Bool.true_and]
    congr 1
    omega
  · rw [if_neg h, decide_eq_false h]
    rfl

theorem getLsbD_underC : ∀ (c lt gt eq un : Bool), ∀ i < 5,
    (BitVec.ofBool c ++ BitVec.ofBool lt ++ BitVec.ofBool gt ++ BitVec.ofBool eq ++ BitVec.ofBool un).getLsbD i =
      if i < 4 then (crBits lt gt eq un).getLsbD i else c := by
  decide

/-- Exception bits raised, and FPCC written under the old C. -/
theorem fpscrAfter_compared (hr : raised &&& ~~~fpExceptionBits = 0) (lt gt eq un : Bool) (f : Word) :
    FpscrAfter raised none none
      (some (BitVec.ofBool (ibmBit f 15) ++ BitVec.ofBool lt ++ BitVec.ofBool gt ++ BitVec.ofBool eq ++ BitVec.ofBool un)) f
      (fpNormalize (fpSetFpcc (crBits lt gt eq un) (fpSetSticky raised f))) := by
  have hkept (k : Nat) (hk : 13 ≤ k ∧ k < 16) :
      ibmBit (fpSetFpcc (crBits lt gt eq un) (fpSetSticky raised f)) k = ibmBit f k := by
    obtain ⟨hge, hlt⟩ := hk
    rw [ibmBit_fpSetFpcc _ _ (by omega), if_neg (by omega)]
    refine ibmBit_fpSetSticky_kept hr f (by omega) (by omega) ?_
    interval_cases k <;> rfl
  refine fpscrAfter_of_status hr (fun k hk hout => ?_) (hkept 13 (by decide)) (hkept 14 (by decide)) ?_
  · rw [ibmBit_fpSetFpcc _ _ hk, if_neg (by omega)]
  · apply BitVec.eq_of_getLsbD_eq
    intro i hi
    rw [getLsbD_fprf _ hi]
    rw [Option.getD_some, getLsbD_underC _ _ _ _ _ i hi]
    by_cases h4 : i < 4
    · rw [ibmBit_fpSetFpcc _ _ (by omega), if_pos (by omega), if_pos h4]
      congr 1
      omega
    · obtain rfl : i = 4 := by omega
      exact hkept 15 (by decide)

end

/- Data in order (spec/42_floating_point.md R401, R445). -/

/-- The magnitude of a finite datum in units of the smallest one, 2^-149. -/
def fpUnits (w : Word) : Nat := if fpExp w = 0 then fpFrac w else (2 ^ 23 + fpFrac w) * 2 ^ (fpExp w - 1)

theorem fpFrac_lt (w : Word) : fpFrac w < 2 ^ 23 := (w.extractLsb' 0 23).isLt

theorem fpExp_lt (w : Word) : fpExp w < 256 := (w.extractLsb' 23 8).isLt

theorem fpValue_eq_units (w : Word) :
    fpValue w = (if fpNeg w then -1 else 1) * (fpUnits w : ℚ) * (2 : ℚ) ^ (-149 : ℤ) := by
  have hmag : (fpSignificand w : ℚ) * (2 : ℚ) ^ fpScale w = (fpUnits w : ℚ) * (2 : ℚ) ^ (-149 : ℤ) := by
    unfold fpSignificand fpScale fpUnits
    by_cases h : fpExp w = 0
    · rw [if_pos h, if_pos h, if_pos h]
    · have hscale : ((fpExp w : ℤ) - 150) = ((fpExp w - 1 : ℕ) : ℤ) + (-149) := by omega
      rw [if_neg h, if_neg h, if_neg h, hscale, zpow_add₀ two_ne_zero, zpow_natCast, Nat.cast_mul, Nat.cast_pow,
        Nat.cast_ofNat, mul_assoc]
  rw [fpValue, mul_assoc, hmag, mul_assoc]

/-- Magnitudes are in the order of exponent and fraction read as one number. -/
theorem fpUnits_lt {v w : Word} (h : 2 ^ 23 * fpExp v + fpFrac v < 2 ^ 23 * fpExp w + fpFrac w) :
    fpUnits v < fpUnits w := by
  have hv := fpFrac_lt v
  have hw := fpFrac_lt w
  unfold fpUnits
  rcases (by omega : fpExp v = fpExp w ∧ fpFrac v < fpFrac w ∨ fpExp v < fpExp w) with ⟨he, hf⟩ | he
  · rw [he]
    split
    · exact hf
    · exact Nat.mul_lt_mul_of_pos_right (by omega) (by positivity)
  · rw [if_neg (by omega : ¬fpExp w = 0)]
    have hone : 1 ≤ 2 ^ (fpExp w - 1) := Nat.one_le_two_pow
    have hfloor : 2 ^ 23 * 2 ^ (fpExp w - 1) ≤ (2 ^ 23 + fpFrac w) * 2 ^ (fpExp w - 1) :=
      Nat.mul_le_mul_right _ (by omega)
    by_cases h0 : fpExp v = 0
    · rw [if_pos h0]
      omega
    · rw [if_neg h0]
      have hstep : 2 * 2 ^ (fpExp v - 1) ≤ 2 ^ (fpExp w - 1) := by
        rw [← Nat.pow_succ']
        exact Nat.pow_le_pow_right (by decide) (by omega)
      have hbelow : (2 ^ 23 + fpFrac v) * 2 ^ (fpExp v - 1) < 2 ^ 24 * 2 ^ (fpExp v - 1) :=
        Nat.mul_lt_mul_of_pos_right (by omega) (by positivity)
      omega

/-- The magnitude as one number, which `fpOrder` signs. -/
def fpMagnitude (w : Word) : Nat := 2 ^ 23 * fpExp w + fpFrac w

theorem fpOrder_eq (w : Word) : fpOrder w = if fpNeg w then -(fpMagnitude w : ℤ) else (fpMagnitude w : ℤ) := by
  unfold fpOrder
  rw [magnitude_eq]
  rfl

theorem fpUnits_lt_iff (v w : Word) : fpUnits v < fpUnits w ↔ fpMagnitude v < fpMagnitude w := by
  refine ⟨fun h => ?_, fpUnits_lt⟩
  rcases Nat.lt_trichotomy (fpMagnitude v) (fpMagnitude w) with hlt | heq | hgt
  · exact hlt
  · have hv := fpFrac_lt v
    have hw := fpFrac_lt w
    unfold fpMagnitude at heq
    have he : fpExp v = fpExp w := by omega
    have hf : fpFrac v = fpFrac w := by omega
    unfold fpUnits at h
    rw [he, hf] at h
    exact absurd h (lt_irrefl _)
  · exact absurd (fpUnits_lt hgt) (by omega)

theorem fpUnits_eq_zero (w : Word) : fpUnits w = 0 ↔ fpMagnitude w = 0 := by
  unfold fpUnits fpMagnitude
  split
  · omega
  · have := Nat.mul_pos (show 0 < 2 ^ 23 + fpFrac w by omega) (Nat.two_pow_pos (fpExp w - 1))
    omega

/-- The values of two data compare as their signed units. -/
theorem fpValue_lt_iff (v w : Word) : fpValue v < fpValue w ↔
    (if fpNeg v then -(fpUnits v : ℤ) else fpUnits v) < (if fpNeg w then -(fpUnits w : ℤ) else (fpUnits w : ℤ)) := by
  have hsigned (w : Word) : fpValue w =
      ((if fpNeg w then -(fpUnits w : ℤ) else (fpUnits w : ℤ) : ℤ) : ℚ) * (2 : ℚ) ^ (-149 : ℤ) := by
    rw [fpValue_eq_units]
    split
    · push_cast
      ring
    · push_cast
      ring
  rw [hsigned v, hsigned w, mul_lt_mul_iff_of_pos_right (by positivity), Int.cast_lt]

/-- `fpOrder` orders finite and infinite data as their values lie. -/
theorem fpOrder_lt_iff_value (v w : Word) : fpOrder v < fpOrder w ↔ fpValue v < fpValue w := by
  have hvw := fpUnits_lt_iff v w
  have hwv := fpUnits_lt_iff w v
  have hv := fpUnits_eq_zero v
  have hw := fpUnits_eq_zero w
  rw [fpValue_lt_iff, fpOrder_eq, fpOrder_eq]
  cases fpNeg v <;> cases fpNeg w <;> simp <;> omega

theorem fpIsNan_eq_false_iff (w : Word) : fpIsNan w = false ↔ (fpExp w = 255 → fpFrac w = 0) := by
  simp [fpIsNan]

theorem fpIsInf_iff (w : Word) : fpIsInf w = true ↔ fpExp w = 255 ∧ fpFrac w = 0 := by
  simp [fpIsInf]

/-- Of the data that are no NaN the infinities have the largest magnitude. -/
theorem fpMagnitude_bound {w : Word} (h : fpIsNan w = false) : fpMagnitude w ≤ 2 ^ 23 * 255 ∧
    (fpIsInf w = true ↔ fpMagnitude w = 2 ^ 23 * 255) ∧ (fpFinite w ↔ fpMagnitude w < 2 ^ 23 * 255) := by
  have hf := fpFrac_lt w
  have he := fpExp_lt w
  rw [fpIsNan_eq_false_iff] at h
  rw [fpIsInf_iff]
  unfold fpFinite fpMagnitude
  omega

/-- One datum less than another: the infinities beyond every finite value. -/
def FpLess (x y : Word) : Prop :=
  (fpIsInf x = true ∧ fpNeg x = true ∧ ¬(fpIsInf y = true ∧ fpNeg y = true)) ∨
  (fpIsInf y = true ∧ fpNeg y = false ∧ ¬(fpIsInf x = true ∧ fpNeg x = false)) ∨
  (fpFinite x ∧ fpFinite y ∧ fpValue x < fpValue y)

theorem fpLess_iff {x y : Word} (hx : fpIsNan x = false) (hy : fpIsNan y = false) :
    FpLess x y ↔ fpOrder x < fpOrder y := by
  obtain ⟨hxb, hxinf, hxfin⟩ := fpMagnitude_bound hx
  obtain ⟨hyb, hyinf, hyfin⟩ := fpMagnitude_bound hy
  unfold FpLess
  rw [hxinf, hyinf, hxfin, hyfin, ← fpOrder_lt_iff_value, fpOrder_eq, fpOrder_eq]
  cases fpNeg x <;> cases fpNeg y <;> simp <;> omega

/- Compares (spec/42_floating_point.md R445, R446). -/

theorem guardCompare_singles {s : State} {frA frB : Reg} {k : Unit → Out} (hfp : s.msrBit msrFP = true)
    (hA : s.isSingle frA = true) (hB : s.isSingle frB = true) : proceed (guardCompare s frA frB) k = k () := by
  have hsingles : guardSingles s [frA, frB] = .ok () := guardSingles_all (by simp [hA, hB])
  have hguard : guardCompare s frA frB = .ok () := by
    simp only [guardCompare, guardFp, hfp, require_true]
    exact hsingles
  rw [hguard, proceed_ok]

/-- A compare gives one of the four relations. -/
theorem fpCompare_relation (a b : Word) :
    ∃ lt gt eq un, fpCompare a b = crBits lt gt eq un ∧ (un = true ↔ fpIsNan a = true ∨ fpIsNan b = true) ∧
      (lt = true ↔ un = false ∧ FpLess a b) ∧ (gt = true ↔ un = false ∧ FpLess b a) ∧
      (eq = true ↔ un = false ∧ lt = false ∧ gt = false) := by
  unfold fpCompare
  by_cases hun : (fpIsNan a || fpIsNan b) = true
  · rw [if_pos hun]
    exact ⟨false, false, false, true, rfl, by simpa using hun, by simp, by simp, by simp⟩
  · rw [if_neg hun]
    obtain ⟨ha, hb⟩ := Bool.or_eq_false_iff.mp (Bool.eq_false_of_not_eq_true hun)
    simp only [fpLess_iff ha hb, fpLess_iff hb ha, ha, hb]
    by_cases hlt : fpOrder a < fpOrder b
    · exact ⟨true, false, false, false, if_pos hlt, by simp, by simp [hlt], by simp [hlt.le], by simp⟩
    · by_cases hgt : fpOrder b < fpOrder a
      · exact ⟨false, true, false, false, (if_neg hlt).trans (if_pos hgt), by simp, by simp [hgt.le], by simp [hgt],
          by simp⟩
      · exact ⟨false, false, true, false, (if_neg hlt).trans (if_neg hgt), by simp, by simpa using hlt, by simpa using hgt,
          by simp⟩

/-- An instruction that comes to a compare writes one of the four relations to CR and FPCC. -/
theorem compare_of_eq {i : Instr} {s : State} {crfD : BitVec 3} {a b raised raised' : Word}
    (h : exec i s = deliverCompare s crfD (fpCompare a b) raised') (hraised : raised' = raised)
    (hr : raised &&& ~~~fpExceptionBits = 0) :
    ∃ u lt gt eq un, (un = true ↔ fpIsNan a = true ∨ fpIsNan b = true) ∧
      (lt = true ↔ un = false ∧ FpLess a b) ∧ (gt = true ↔ un = false ∧ FpLess b a) ∧
      (eq = true ↔ un = false ∧ lt = false ∧ gt = false) ∧ CrFieldIs crfD lt gt eq un s u ∧
      FpscrAfter raised none none
        (some (BitVec.ofBool (ibmBit s.fpscr 15) ++ BitVec.ofBool lt ++ BitVec.ofBool gt ++ BitVec.ofBool eq ++
          BitVec.ofBool un)) s.fpscr u.fpscr ∧
      u = { s with cr := u.cr, fpscr := u.fpscr } ∧ EndsFloat (exec i s) s u := by
  obtain ⟨lt, gt, eq, un, hcompare, hun, hlt, hgt, heq⟩ := fpCompare_relation a b
  rw [hcompare, hraised] at h
  set c := crBits lt gt eq un
  rw [h]
  exact ⟨fpFinished (setCrField s crfD c) false (fpSetFpcc c (fpSetSticky raised s.fpscr)), lt, gt, eq, un, hun, hlt, hgt,
    heq, crFieldIs_setCrField s crfD lt gt eq un, fpscrAfter_compared hr lt gt eq un s.fpscr, rfl,
    finishFp_ends s (setCrField s crfD c) false _ rfl rfl⟩

/-- Settles O19: each compare passes its guard and writes the order of the data. -/
theorem floatCompares : Obligations.FloatCompares := by
  intro s crfD frA frB hfp hA hB a b less snan compares
  have hve : fpBit s.fpscr fpVE = ibmBit s.fpscr 24 := and_twoPow_ne_zero s.fpscr 7 (by decide)
  refine ⟨compare_of_eq (i := .fcmpu crfD frA frB) (guardCompare_singles hfp hA hB) ?_ ?_,
    compare_of_eq (i := .fcmpo crfD frA frB) (guardCompare_singles hfp hA hB) ?_ ?_⟩
  · simp only [snanBits, List.any_cons, List.any_nil, Bool.or_false]
    rfl
  · split <;> decide
  · rw [hve, orderedInvalid]
    refine if_congr Iff.rfl ?_ rfl
    cases ibmBit s.fpscr 24 <;> rfl
  · split_ifs <;> decide

end Sys2Proof.Machine

/-!
Results that need no rounding: zero divides (O16), NaNs, invalid operations and infinities (O17).
-/
namespace Sys2Proof.Machine

/- The effects of an instruction that ends with `finishFp` (spec/42_floating_point.md R411, R412). -/

theorem floatWrites_fpFinished (s : State) (frD : Reg) (w : Word) (single rc : Bool) (f : Word) :
    FloatWrites s (fpFinished (s.writeFpr frD w single) rc f) frD w single rc := by
  have hcr1 := fpFinished_cr1 (s.writeFpr frD w single) rc f
  have hrest := fpFinished_rest (s.writeFpr frD w single) rc f
  generalize fpFinished (s.writeFpr frD w single) rc f = u at hcr1 hrest ⊢
  have hdata (r : Reg) : u.fprData r = (s.writeFpr frD w single).fprData r := by
    rw [hrest]
    rfl
  have hsp (r : Reg) : u.spTag r = (s.writeFpr frD w single).spTag r := by
    rw [hrest]
    rfl
  have hlt (r : Reg) : u.ltTag r = (s.writeFpr frD w single).ltTag r := by
    rw [hrest]
    rfl
  refine ⟨(hdata frD).trans (fprData_writeFpr_same ..), (hsp frD).trans (spTag_writeFpr_same ..),
    (hlt frD).trans (ltTag_writeFpr_same ..), ?_, hcr1, fun r hr => ⟨?_, ?_, ?_⟩, fun a => ?_, ?_⟩
  · rw [hrest]
    rfl
  · exact (hdata r).trans (fprData_writeFpr_other s frD r w single hr)
  · exact (hsp r).trans (spTag_writeFpr_other s frD r w single hr)
  · exact (hlt r).trans (ltTag_writeFpr_other s frD r w single hr)
  · rw [hrest]
    rfl
  · rw [hrest]
    rfl

theorem floatKeeps_fpFinished (s : State) (rc : Bool) (f : Word) : FloatKeeps s (fpFinished s rc f) rc :=
  ⟨fpFinished_rest s rc f, fpFinished_cr1 s rc f⟩

/-- The instruction writes `w` to frD, raises `raised` and says how the result was rounded. -/
def FloatDelivers (o : Out) (s : State) (frD : Reg) (rc : Bool) (w raised : Word) (fr fi : Bool) : Prop :=
  ∃ u, FloatWrites s u frD w true rc ∧
    FpscrAfter raised (some fr) (some fi) (some (fpClass w)) s.fpscr u.fpscr ∧ EndsFloat o s u

/-- The instruction raises `raised`, which is enabled, and leaves frD, FR, FI and FPRF. -/
def FloatWithholds (o : Out) (s : State) (rc : Bool) (raised : Word) : Prop :=
  ∃ u, FloatKeeps s u rc ∧ FpscrAfter raised none none none s.fpscr u.fpscr ∧ EndsFloat o s u

section
variable {s : State} {raised : Word}

theorem deliverFp_delivers (hr : raised &&& ~~~fpExceptionBits = 0) (frD : Reg) (rc : Bool) (w : Word) (fr fi : Bool) :
    FloatDelivers (deliverFp s frD rc w fr fi (fpSetSticky raised s.fpscr)) s frD rc w raised fr fi :=
  ⟨_, floatWrites_fpFinished s frD w true rc _, (fpFinished_fpscr _ rc _).symm ▸ fpscrAfter_delivered hr fr fi _ _,
    finishFp_ends s (s.writeFpr frD w true) rc _ rfl rfl⟩

theorem finishFp_withholds (hr : raised &&& ~~~fpExceptionBits = 0) (rc : Bool) :
    FloatWithholds (finishFp s rc (fpSetSticky raised s.fpscr)) s rc raised :=
  ⟨_, floatKeeps_fpFinished s rc _, (fpFinished_fpscr s rc _).symm ▸ fpscrAfter_sticky hr _,
    finishFp_ends s s rc _ rfl rfl⟩

end

/- The guard of arithmetic, met (spec/42_floating_point.md R400, R402). -/

/-- The register holds a single that is not denormalized. -/
def FpSource (s : State) (r : Reg) : Prop := s.isSingle r = true ∧ fpIsDenormal (s.fprData r) = false

theorem guardArith_ready {s : State} {srcs : List Reg} {k : Unit → Out} (hfp : s.msrBit msrFP = true)
    (h : ∀ r ∈ srcs, FpSource s r) : proceed (guardArith s srcs) k = k () := by
  have hsingles : guardSingles s srcs = .ok () := guardSingles_all fun r hr => (h r hr).1
  have hnormal : (srcs.map s.fprData).any fpIsDenormal = false := by
    rw [List.any_map, List.any_eq_false]
    exact fun r hr => by simp [(h r hr).2]
  have hguard : guardArith s srcs = .ok () := by
    simp only [guardArith, guardFp, hfp, require_true, hsingles, guardDenormal, hnormal]
    rfl
  rw [hguard, proceed_ok]

theorem FpReady.source {s : State} {srcs : List Reg} (h : FpReady s srcs) : ∀ r ∈ srcs, FpSource s r :=
  fun r hr => ⟨(h.2.2 r hr).1, (h.2.2 r hr).2.2⟩

/- Bits of the FPSCR that choose a result. -/

theorem fpBit_ve (f : Word) : fpBit f fpVE = ibmBit f 24 := and_twoPow_ne_zero f 7 (by decide)

theorem fpBit_oe (f : Word) : fpBit f fpOE = ibmBit f 25 := and_twoPow_ne_zero f 6 (by decide)

theorem fpBit_ze (f : Word) : fpBit f fpZE = ibmBit f 27 := and_twoPow_ne_zero f 4 (by decide)

theorem fpBit_ni (f : Word) : fpBit f fpNI = ibmBit f 29 := and_twoPow_ne_zero f 2 (by decide)

theorem niResult_ieee {s : State} (h : ibmBit s.fpscr 29 = false) (e : NiEvent) (a b c : Word) :
    niResult s e a b c = none := by
  rw [niResult, fpBit_ni, h]
  rfl

/- Data with the sign inverted and NaNs made quiet. -/

theorem fpNegate_bit (w : Word) {i : Nat} (hi : i < 31) : (fpNegate w).getLsbD i = w.getLsbD i := by
  rw [fpNegate_eq, getLsbD_withSign _ _ _ (by omega), if_neg (by omega)]

@[simp] theorem fpNeg_fpNegate (w : Word) : fpNeg (fpNegate w) = !fpNeg w := by
  rw [fpNeg, fpNegate_eq, getLsbD_withSign _ _ _ (by decide), if_pos rfl]
  rfl

@[simp] theorem fpExp_fpNegate (w : Word) : fpExp (fpNegate w) = fpExp w := by
  unfold fpExp
  congr 1
  apply BitVec.eq_of_getLsbD_eq
  intro i hi
  rw [BitVec.getLsbD_extractLsb', BitVec.getLsbD_extractLsb', fpNegate_bit w (by omega)]

@[simp] theorem fpFrac_fpNegate (w : Word) : fpFrac (fpNegate w) = fpFrac w := by
  unfold fpFrac
  congr 1
  apply BitVec.eq_of_getLsbD_eq
  intro i hi
  rw [BitVec.getLsbD_extractLsb', BitVec.getLsbD_extractLsb', fpNegate_bit w (by omega)]

@[simp] theorem fpIsNan_fpNegate (w : Word) : fpIsNan (fpNegate w) = fpIsNan w := by simp [fpIsNan]

@[simp] theorem fpIsInf_fpNegate (w : Word) : fpIsInf (fpNegate w) = fpIsInf w := by simp [fpIsInf]

@[simp] theorem fpIsNan_negateOperand (w : Word) : fpIsNan (negateOperand w) = fpIsNan w := by
  unfold negateOperand
  split <;> simp

@[simp] theorem fpIsInf_negateOperand (w : Word) : fpIsInf (negateOperand w) = fpIsInf w := by
  unfold negateOperand
  split <;> simp

theorem negateOperand_nan {w : Word} (h : fpIsNan w = true) : negateOperand w = w := if_pos h

theorem negateOperand_number {w : Word} (h : fpIsNan w = false) : negateOperand w = fpNegate w := if_neg (by simp [h])

@[simp] theorem fpIsSnan_negateOperand (w : Word) : fpIsSnan (negateOperand w) = fpIsSnan w := by
  cases h : fpIsNan w
  · simp [fpIsSnan, h]
  · rw [negateOperand_nan h]

theorem fpIsNan_fpQuiet {w : Word} (h : fpIsNan w = true) : fpIsNan (fpQuiet w) = true := by
  unfold fpIsNan at h ⊢
  rw [Bool.and_eq_true, beq_iff_eq] at h
  have hexp : fpExp (fpQuiet w) = 255 := by
    rw [← h.1]
    unfold fpExp fpQuiet
    rw [BitVec.extractLsb'_or]
    exact congrArg BitVec.toNat (BitVec.or_zero)
  have hfrac : fpFrac (fpQuiet w) ≠ 0 := fun h0 => by
    have hzero : (fpQuiet w).extractLsb' 0 23 = 0 := BitVec.eq_of_toNat_eq h0
    have hbit := congrArg (fun v : BitVec 23 => v.getLsbD 22) hzero
    simp [fpQuiet] at hbit
  rw [hexp, bne_iff_ne.mpr hfrac]
  rfl

theorem fpIsNan_resultNan (ws : List Word) : fpIsNan (resultNan ws) = true := by
  unfold resultNan
  split
  · next w h => exact fpIsNan_fpQuiet (List.find?_some h)
  · decide

/- Exact results (spec/42_floating_point.md R403, R406). -/

theorem negateResult_nan {w : Word} (negate : Bool) (h : fpIsNan w = true) : negateResult negate w = w :=
  if_neg (by simp [h])

theorem negateResult_number {w : Word} (negate : Bool) (h : fpIsNan w = false) :
    negateResult negate w = if negate then fpNegate w else w := by
  cases negate <;> simp [negateResult, h]

section
variable {s : State} (hni : ibmBit s.fpscr 29 = false) (frD : Reg) (rc negate : Bool) (a b c : Word)

theorem deliverRaw_exact (w : Word) :
    FloatDelivers (deliverRaw s frD rc negate a b c (exactRaw w)) s frD rc (negateResult negate w) 0 false false := by
  have h := deliverFp_delivers (s := s) (raised := 0) (by decide) frD rc (negateResult negate w) false false
  rw [fpSetSticky_zero] at h
  exact h

include hni

theorem deliverRaw_invalid {bits : Word} (hbits : bits &&& ~~~fpExceptionBits = 0) (h0 : bits ≠ 0) (ws : List Word) :
    if ibmBit s.fpscr 24 then FloatWithholds (deliverRaw s frD rc negate a b c (nanRaw bits ws)) s rc bits
    else FloatDelivers (deliverRaw s frD rc negate a b c (nanRaw bits ws)) s frD rc (resultNan ws) bits false false := by
  have hne : (bits != 0) = true := bne_iff_ne.mpr h0
  unfold deliverRaw nanRaw
  simp only [hne, if_true, fpBit_ve, niResult_ieee hni]
  cases ibmBit s.fpscr 24
  · exact deliverFp_delivers hbits frD rc _ false false
  · exact finishFp_withholds hbits rc

theorem deliverRaw_zeroDivide (w : Word) :
    if ibmBit s.fpscr 27 then
      FloatWithholds (deliverRaw s frD rc negate a b c { invalid := 0, zeroDivide := true, value := .datum w }) s rc fpZX
    else FloatDelivers (deliverRaw s frD rc negate a b c { invalid := 0, zeroDivide := true, value := .datum w }) s frD rc
      (negateResult negate w) fpZX false false := by
  unfold deliverRaw
  simp only [bne_self_eq_false, Bool.false_eq_true, if_false, if_true, fpBit_ze, niResult_ieee hni]
  cases ibmBit s.fpscr 27
  · exact deliverFp_delivers (by decide) frD rc _ false false
  · exact finishFp_withholds (by decide) rc

end

/- Zero divides (spec/42_floating_point.md R406). -/

theorem fpIsZero_iff (w : Word) : fpIsZero w = true ↔ fpExp w = 0 ∧ fpFrac w = 0 := by simp [fpIsZero]

theorem fpIsDenormal_eq_false_iff (w : Word) : fpIsDenormal w = false ↔ (fpExp w = 0 → fpFrac w = 0) := by
  simp [fpIsDenormal]

theorem not_special_of_finite {w : Word} (h : fpFinite w) : fpIsNan w = false ∧ fpIsInf w = false := by
  unfold fpFinite at h
  simp [fpIsNan, fpIsInf, h]

theorem fpFinite_of_zero {w : Word} (h : fpIsZero w = true) : fpFinite w := by
  rw [fpIsZero_iff] at h
  unfold fpFinite
  omega

theorem divRaw_zeroDivide {a b : Word} (ha : fpFinite a) (ha0 : fpIsZero a = false) (hb : fpIsZero b = true) :
    divRaw a b = { invalid := 0, zeroDivide := true, value := .datum (fpInf (fpNeg a != fpNeg b)) } := by
  obtain ⟨hanan, hainf⟩ := not_special_of_finite ha
  obtain ⟨hbnan, hbinf⟩ := not_special_of_finite (fpFinite_of_zero hb)
  simp [divRaw, hanan, hainf, hbnan, hbinf, ha0, hb]

/-- How an instruction ends, as one condition. -/
theorem EndsFloat.eq_ite {o : Out} {s u : State} (h : EndsFloat o s u) :
    o = if ibmBit u.fpscr 1 = true ∧ s.msr &&& 0x00000900 ≠ 0 then .next (takeException .program s.cia 0x00100000 u)
      else .next { u with cia := s.cia + 4 } := by
  obtain ⟨hnext, htrap⟩ := h
  split
  · next hfex => exact htrap hfex.2 hfex.1
  · next hfex =>
    refine hnext ?_
    by_cases hfe : s.msr &&& 0x00000900 = 0
    · exact .inl hfe
    · exact .inr (Bool.eq_false_of_not_eq_true fun h1 => hfex ⟨h1, hfe⟩)

/-- ZX with its enable makes FEX 1. -/
theorem FpscrAfter.zeroDivide_enabled {fr fi : Option Bool} {c : Option (BitVec 5)} {f g : Word}
    (h : FpscrAfter fpZX fr fi c f g) (hze : ibmBit f 27 = true) : ibmBit g 1 = true := by
  obtain ⟨hexceptions, -, ⟨-, hfex⟩, -, -, -, -, hmodes⟩ := h
  rw [hfex, hmodes 27 (by decide) (by decide), hze, hexceptions 5 (by decide), show ibmBit fpZX 5 = true from rfl]
  simp

theorem fpNeg_one : fpNeg 0x3F800000 = false := by decide

/-- Settles O16: a zero divide, by ZE. -/
theorem floatZeroDivide : Obligations.FloatZeroDivide := by
  intro s frD frA frB rc hb infinity divides
  have hdivides {i : Instr} {x y z : Word} {raw : FpRaw} {negative : Bool} (hni : ibmBit s.fpscr 29 = false)
      (h : exec i s = deliverRaw s frD rc false x y z raw)
      (hraw : raw = { invalid := 0, zeroDivide := true, value := .datum (fpInf negative) }) : divides i negative := by
    have hresult := deliverRaw_zeroDivide hni frD rc false x y z (fpInf negative)
    rw [← hraw, ← h] at hresult
    change ∃ u, _
    cases hze : ibmBit s.fpscr 27
    · rw [hze] at hresult
      obtain ⟨u, ⟨hdata, hsp, hlt, hcia, hcr1, honly⟩, hafter, hends⟩ := hresult
      exact ⟨u, ⟨hdata, by simp [State.isSingle, hsp, hlt], hcia, honly, hafter⟩, hcr1, hends.eq_ite⟩
    · rw [hze] at hresult
      obtain ⟨u, ⟨hrest, hcr1⟩, hafter, hends⟩ := hresult
      exact ⟨u, ⟨hafter, hafter.zeroDivide_enabled hze, hrest⟩, hcr1, hends.eq_ite⟩
  refine ⟨fun hready ha => ?_, fun hready => ?_⟩
  · exact hdivides (i := .fdivs frD frA frB rc) hready.2.1 (guardArith_ready hready.1 hready.source)
      (divRaw_zeroDivide (hready.2.2 frA (by simp)).2.1 ha hb)
  · have hraw := divRaw_zeroDivide (a := 0x3F800000) (by unfold fpFinite; decide) (by decide) hb
    rw [fpNeg_one, Bool.false_bne] at hraw
    exact hdivides (i := .fres frD frB rc) hready.2.1 (guardArith_ready hready.1 hready.source) hraw

/- NaNs, invalid operations and infinities (spec/42_floating_point.md R403, R420 to R428). -/

/-- The instruction gives `w` with no rounding, having raised `raised`: where that is enabled, frD, FR, FI and FPRF stay. -/
def FloatExact (o : Out) (s : State) (frD : Reg) (rc : Bool) (w raised : Word) : Prop :=
  ∃ u, EndsFloat o s u ∧
    if raised ≠ 0 ∧ ibmBit s.fpscr 24 = true then
      FpscrAfter raised none none none s.fpscr u.fpscr ∧ FloatKeeps s u rc
    else
      FpscrAfter raised (some false) (some false) (some (fpClass w)) s.fpscr u.fpscr ∧ FloatWrites s u frD w true rc

theorem negateResult_fpInf : ∀ negate negative : Bool,
    negateResult negate (fpInf negative) = if (negative != negate) then 0xFF800000 else 0x7F800000 := by
  decide

section
variable {s : State} {i : Instr} {frD : Reg} {rc negate : Bool} {a b c w : Word} {raw : FpRaw}
  (h : exec i s = deliverRaw s frD rc negate a b c raw)
include h

theorem floatExact_number {v : Word} (hraw : raw = exactRaw v) (hw : negateResult negate v = w) :
    FloatExact (exec i s) s frD rc w 0 := by
  obtain ⟨u, hwrites, hafter, hends⟩ := deliverRaw_exact frD rc negate a b c v (s := s)
  rw [hw] at hwrites hafter
  rw [h, hraw]
  exact ⟨u, hends, by rw [if_neg fun hne => hne.1 rfl]; exact ⟨hafter, hwrites⟩⟩

theorem floatExact_nan (hni : ibmBit s.fpscr 29 = false) {bits : Word} {ws : List Word} (hraw : raw = nanRaw bits ws)
    (hbits : bits &&& ~~~fpExceptionBits = 0) (hw : resultNan ws = w) : FloatExact (exec i s) s frD rc w bits := by
  by_cases h0 : bits = 0
  · rw [h0] at hraw ⊢
    refine floatExact_number h (v := w) (hraw.trans (by rw [← hw]; rfl)) (negateResult_nan negate ?_)
    rw [← hw]
    exact fpIsNan_resultNan ws
  · have hresult := deliverRaw_invalid hni frD rc negate a b c hbits h0 ws
    rw [← hraw, ← h, hw] at hresult
    unfold FloatExact
    cases hve : ibmBit s.fpscr 24
    · rw [hve] at hresult
      obtain ⟨u, hwrites, hafter, hends⟩ := hresult
      exact ⟨u, hends, by rw [if_neg (by simp)]; exact ⟨hafter, hwrites⟩⟩
    · rw [hve] at hresult
      obtain ⟨u, hkeeps, hafter, hends⟩ := hresult
      exact ⟨u, hends, by rw [if_pos ⟨h0, rfl⟩]; exact ⟨hafter, hkeeps⟩⟩

/-- An operation that is invalid under a condition, else an infinity. -/
theorem floatExact_infinite (hni : ibmBit s.fpscr 29 = false) {invalid : Prop} [Decidable invalid] {negative : Bool}
    (hraw : raw = if invalid then nanRaw fpVXISI [] else exactRaw (fpInf negative)) :
    if invalid then FloatExact (exec i s) s frD rc 0x7FC00000 fpVXISI
    else FloatExact (exec i s) s frD rc (if (negative != negate) then 0xFF800000 else 0x7F800000) 0 := by
  by_cases hinvalid : invalid
  · rw [if_pos hinvalid] at hraw ⊢
    exact floatExact_nan h hni hraw (by decide) rfl
  · rw [if_neg hinvalid] at hraw ⊢
    exact floatExact_number h hraw (negateResult_fpInf negate negative)

end

/-- The first of two data that is a NaN, made quiet. -/
def firstNan (x y : Word) : Word := if fpIsNan x then fpQuiet x else fpQuiet y

/-- An infinity times a zero. -/
def infTimesZero (x y : Word) : Bool := (fpIsInf x && fpIsZero y) || (fpIsZero x && fpIsInf y)

theorem resultNan_pair {x y : Word} (h : (fpIsNan x || fpIsNan y) = true) : resultNan [x, y] = firstNan x y := by
  unfold resultNan firstNan
  cases hx : fpIsNan x
  · rw [hx, Bool.false_or] at h
    simp [hx, h]
  · simp [hx]

theorem resultNan_triple {x y z : Word} (h : (fpIsNan x || fpIsNan y || fpIsNan z) = true) :
    resultNan [x, y, z] = if fpIsNan x then fpQuiet x else firstNan y z := by
  unfold resultNan firstNan
  cases hx : fpIsNan x
  · cases hy : fpIsNan y
    · rw [hx, hy, Bool.false_or, Bool.false_or] at h
      simp [hx, hy, h]
    · simp [hx, hy]
  · simp [hx]

/-- A NaN is subtracted as it is. -/
theorem resultNan_negateOperand (x y : Word) (zs : List Word) :
    resultNan (x :: negateOperand y :: zs) = resultNan (x :: y :: zs) := by
  cases hy : fpIsNan y
  · simp [resultNan, List.find?_cons, hy]
  · rw [negateOperand_nan hy]

theorem snanBits_negateOperand (x y : Word) (zs : List Word) :
    snanBits (x :: negateOperand y :: zs) = snanBits (x :: y :: zs) := by
  simp [snanBits]

theorem snanBits_exceptions (ws : List Word) : snanBits ws &&& ~~~fpExceptionBits = 0 := by
  unfold snanBits
  cases ws.any fpIsSnan <;> decide

theorem snanBits_numbers {ws : List Word} (h : ∀ w ∈ ws, fpIsNan w = false) : snanBits ws = 0 := by
  have hnone : ws.any fpIsSnan = false := List.any_eq_false.mpr fun w hw => by simp [fpIsSnan, h w hw]
  rw [snanBits, hnone]
  rfl

theorem resultNan_numbers {ws : List Word} (h : ∀ w ∈ ws, fpIsNan w = false) : resultNan ws = fpDefaultNan := by
  have hnone : ws.find? fpIsNan = none := List.find?_eq_none.mpr fun w hw => by simp [h w hw]
  rw [resultNan, hnone]

/-- The three kinds of data exclude each other. -/
theorem not_nan_of_inf {w : Word} (h : fpIsInf w = true) : fpIsNan w = false ∧ fpIsZero w = false := by
  rw [fpIsInf_iff] at h
  simp [fpIsNan, fpIsZero, h.1, h.2]

theorem not_nan_of_zero {w : Word} (h : fpIsZero w = true) : fpIsNan w = false ∧ fpIsInf w = false :=
  not_special_of_finite (fpFinite_of_zero h)

theorem not_nan_of_infTimesZero {x y : Word} (h : infTimesZero x y = true) : fpIsNan x = false ∧ fpIsNan y = false := by
  rw [infTimesZero, Bool.or_eq_true, Bool.and_eq_true, Bool.and_eq_true] at h
  rcases h with ⟨hx, hy⟩ | ⟨hx, hy⟩
  · exact ⟨(not_nan_of_inf hx).1, (not_nan_of_zero hy).1⟩
  · exact ⟨(not_nan_of_zero hx).1, (not_nan_of_inf hy).1⟩

section
variable {rn : BitVec 2} {a b c : Word}

theorem addRaw_infinite (ha : fpIsNan a = false) (hb : fpIsNan b = false) (h : (fpIsInf a || fpIsInf b) = true) :
    addRaw rn a b = if fpIsInf a = true ∧ fpIsInf b = true ∧ fpNeg a ≠ fpNeg b then nanRaw fpVXISI []
      else exactRaw (fpInf (if fpIsInf a then fpNeg a else fpNeg b)) := by
  unfold addRaw
  cases hia : fpIsInf a
  · rw [hia, Bool.false_or] at h
    simp [ha, hb, h]
  · simp [ha, hb]

theorem subRaw_nan (h : (fpIsNan a || fpIsNan b) = true) :
    subRaw rn a b = nanRaw (snanBits [a, b]) [a, negateOperand b] := by
  rw [← snanBits_negateOperand]
  exact if_pos (by rwa [fpIsNan_negateOperand])

theorem divRaw_nan (h : (fpIsNan a || fpIsNan b) = true) : divRaw a b = nanRaw (snanBits [a, b]) [a, b] := if_pos h

theorem divRaw_infinities (ha : fpIsInf a = true) (hb : fpIsInf b = true) : divRaw a b = nanRaw fpVXIDI [] := by
  simp [divRaw, not_nan_of_inf ha, not_nan_of_inf hb, ha, hb]

theorem divRaw_zeros (ha : fpIsZero a = true) (hb : fpIsZero b = true) : divRaw a b = nanRaw fpVXZDZ [] := by
  simp [divRaw, not_nan_of_zero ha, not_nan_of_zero hb, ha, hb]

theorem divRaw_infinite (ha : fpIsInf a = true) (hb : fpIsNan b = false) (hbi : fpIsInf b = false) :
    divRaw a b = exactRaw (fpInf (fpNeg a != fpNeg b)) := by
  simp [divRaw, not_nan_of_inf ha, ha, hb, hbi]

theorem divRaw_byInfinity (ha : fpIsNan a = false) (hai : fpIsInf a = false) (hb : fpIsInf b = true) :
    divRaw a b = exactRaw (fpZero (fpNeg a != fpNeg b)) := by
  simp [divRaw, not_nan_of_inf hb, ha, hai, hb]

theorem mulRaw_infTimesZero (h : infTimesZero a c = true) : mulRaw a c = nanRaw fpVXIMZ [] := by
  obtain ⟨ha, hc⟩ := not_nan_of_infTimesZero h
  rw [infTimesZero] at h
  simp only [mulRaw, ha, hc, h]
  rfl

theorem mulRaw_infinite (ha : fpIsNan a = false) (hc : fpIsNan c = false) (h : infTimesZero a c = false)
    (hinf : (fpIsInf a || fpIsInf c) = true) : mulRaw a c = exactRaw (fpInf (fpNeg a != fpNeg c)) := by
  rw [infTimesZero] at h
  simp only [mulRaw, ha, hc, h, hinf]
  rfl

/-- A multiply-add with a NaN operand, or an infinity times a zero. -/
theorem maddRaw_nan (h : (fpIsNan a || fpIsNan b || fpIsNan c || infTimesZero a c) = true) :
    maddRaw rn a c b = nanRaw (snanBits [a, b, c] ||| maskIf (infTimesZero a c) fpVXIMZ) [a, b, c] := by
  have himz : (!fpIsNan a && !fpIsNan c && infTimesZero a c) = infTimesZero a c := by
    cases hz : infTimesZero a c
    · rw [Bool.and_false]
    · rw [(not_nan_of_infTimesZero hz).1, (not_nan_of_infTimesZero hz).2]
      rfl
  rw [← himz] at h ⊢
  exact if_pos h

theorem msubRaw_nan (h : (fpIsNan a || fpIsNan b || fpIsNan c || infTimesZero a c) = true) :
    msubRaw rn a c b =
      nanRaw (snanBits [a, b, c] ||| maskIf (infTimesZero a c) fpVXIMZ) [a, negateOperand b, c] := by
  rw [← snanBits_negateOperand]
  exact maddRaw_nan (by rwa [fpIsNan_negateOperand])

theorem subRaw_infinite (ha : fpIsNan a = false) (hb : fpIsNan b = false) (h : (fpIsInf a || fpIsInf b) = true) :
    subRaw rn a b = if fpIsInf a = true ∧ fpIsInf b = true ∧ fpNeg a ≠ !fpNeg b then nanRaw fpVXISI []
      else exactRaw (fpInf (if fpIsInf a then fpNeg a else !fpNeg b)) := by
  have hraw := addRaw_infinite (rn := rn) (b := negateOperand b) ha (by rwa [fpIsNan_negateOperand])
    (by rwa [fpIsInf_negateOperand])
  rwa [fpIsInf_negateOperand, negateOperand_number hb, fpNeg_fpNegate, ← negateOperand_number hb] at hraw

theorem maddRaw_infinite (ha : fpIsNan a = false) (hb : fpIsNan b = false) (hc : fpIsNan c = false)
    (h : infTimesZero a c = false) (hinf : (fpIsInf a || fpIsInf b || fpIsInf c) = true) :
    maddRaw rn a c b =
      if (fpIsInf a || fpIsInf c) = true ∧ fpIsInf b = true ∧ (fpNeg a != fpNeg c) ≠ fpNeg b then nanRaw fpVXISI []
      else exactRaw (fpInf (if fpIsInf a || fpIsInf c then fpNeg a != fpNeg c else fpNeg b)) := by
  rw [infTimesZero] at h
  have hproduct : (fpIsInf a || fpIsInf c) = false → fpIsInf b = true := fun hac => by
    rw [Bool.or_eq_false_iff] at hac
    simpa [hac] using hinf
  simp only [maddRaw, ha, hb, hc, h]
  cases hac : fpIsInf a || fpIsInf c
  · simp [hproduct hac]
  · cases fpIsInf b
    · simp
    · generalize (fpNeg a != fpNeg c) = product
      cases product <;> cases fpNeg b <;> simp

theorem msubRaw_infinite (ha : fpIsNan a = false) (hb : fpIsNan b = false) (hc : fpIsNan c = false)
    (h : infTimesZero a c = false) (hinf : (fpIsInf a || fpIsInf b || fpIsInf c) = true) :
    msubRaw rn a c b =
      if (fpIsInf a || fpIsInf c) = true ∧ fpIsInf b = true ∧ (fpNeg a != fpNeg c) ≠ !fpNeg b then nanRaw fpVXISI []
      else exactRaw (fpInf (if fpIsInf a || fpIsInf c then fpNeg a != fpNeg c else !fpNeg b)) := by
  have hraw := maddRaw_infinite (rn := rn) (b := negateOperand b) ha (by rwa [fpIsNan_negateOperand]) hc h
    (by rwa [fpIsInf_negateOperand])
  rwa [fpIsInf_negateOperand, negateOperand_number hb, fpNeg_fpNegate, ← negateOperand_number hb] at hraw

end

/- What each arithmetic instruction delivers, its guard met. -/

section
variable {s : State} (hfp : s.msrBit msrFP = true) (frD : Reg) (rc : Bool) {frA frB frC : Reg}
include hfp

theorem exec_fadds (h : ∀ r ∈ [frA, frB], FpSource s r) : exec (.fadds frD frA frB rc) s =
    deliverRaw s frD rc false (s.fprData frA) (s.fprData frB) 0 (addRaw (fpRn s.fpscr) (s.fprData frA) (s.fprData frB)) :=
  guardArith_ready hfp h

theorem exec_fsubs (h : ∀ r ∈ [frA, frB], FpSource s r) : exec (.fsubs frD frA frB rc) s =
    deliverRaw s frD rc false (s.fprData frA) (s.fprData frB) 0 (subRaw (fpRn s.fpscr) (s.fprData frA) (s.fprData frB)) :=
  guardArith_ready hfp h

theorem exec_fmuls (h : ∀ r ∈ [frA, frC], FpSource s r) : exec (.fmuls frD frA frC rc) s =
    deliverRaw s frD rc false (s.fprData frA) 0 (s.fprData frC) (mulRaw (s.fprData frA) (s.fprData frC)) :=
  guardArith_ready hfp h

theorem exec_fdivs (h : ∀ r ∈ [frA, frB], FpSource s r) : exec (.fdivs frD frA frB rc) s =
    deliverRaw s frD rc false (s.fprData frA) (s.fprData frB) 0 (divRaw (s.fprData frA) (s.fprData frB)) :=
  guardArith_ready hfp h

theorem exec_fres (h : ∀ r ∈ [frB], FpSource s r) : exec (.fres frD frB rc) s =
    deliverRaw s frD rc false 0x3F800000 (s.fprData frB) 0 (divRaw 0x3F800000 (s.fprData frB)) :=
  guardArith_ready hfp h

theorem exec_fmadds (h : ∀ r ∈ [frA, frB, frC], FpSource s r) : exec (.fmadds frD frA frB frC rc) s =
    deliverRaw s frD rc false (s.fprData frA) (s.fprData frB) (s.fprData frC)
      (maddRaw (fpRn s.fpscr) (s.fprData frA) (s.fprData frC) (s.fprData frB)) :=
  guardArith_ready hfp h

theorem exec_fmsubs (h : ∀ r ∈ [frA, frB, frC], FpSource s r) : exec (.fmsubs frD frA frB frC rc) s =
    deliverRaw s frD rc false (s.fprData frA) (s.fprData frB) (s.fprData frC)
      (msubRaw (fpRn s.fpscr) (s.fprData frA) (s.fprData frC) (s.fprData frB)) :=
  guardArith_ready hfp h

theorem exec_fnmadds (h : ∀ r ∈ [frA, frB, frC], FpSource s r) : exec (.fnmadds frD frA frB frC rc) s =
    deliverRaw s frD rc true (s.fprData frA) (s.fprData frB) (s.fprData frC)
      (maddRaw (fpRn s.fpscr) (s.fprData frA) (s.fprData frC) (s.fprData frB)) :=
  guardArith_ready hfp h

theorem exec_fnmsubs (h : ∀ r ∈ [frA, frB, frC], FpSource s r) : exec (.fnmsubs frD frA frB frC rc) s =
    deliverRaw s frD rc true (s.fprData frA) (s.fprData frB) (s.fprData frC)
      (msubRaw (fpRn s.fpscr) (s.fprData frA) (s.fprData frC) (s.fprData frB)) :=
  guardArith_ready hfp h

end

/-- The multiply-adds with a NaN operand, or with an infinity times a zero. -/
theorem madds_nan {s : State} (frD : Reg) {frA frB frC : Reg} (rc : Bool) (hready : FpReady s [])
    (hsrc : ∀ r ∈ [frA, frB, frC], FpSource s r) {a b c w bits : Word} (ha : s.fprData frA = a) (hb : s.fprData frB = b)
    (hc : s.fprData frC = c) (h : (fpIsNan a || fpIsNan b || fpIsNan c || infTimesZero a c) = true)
    (hw : resultNan [a, b, c] = w) (hbits : snanBits [a, b, c] ||| maskIf (infTimesZero a c) fpVXIMZ = bits) :
    ∀ i ∈ [Instr.fmadds frD frA frB frC rc, .fmsubs frD frA frB frC rc, .fnmadds frD frA frB frC rc,
      .fnmsubs frD frA frB frC rc], FloatExact (exec i s) s frD rc w bits := by
  obtain ⟨hfp, hni, -⟩ := hready
  subst ha hb hc hbits
  have hw' := (resultNan_negateOperand _ _ _).trans hw
  have hexc : (snanBits [s.fprData frA, s.fprData frB, s.fprData frC] |||
      maskIf (infTimesZero (s.fprData frA) (s.fprData frC)) fpVXIMZ) &&& ~~~fpExceptionBits = 0 :=
    outside_or (snanBits_exceptions _) (outside_maskIf _ (by decide))
  simp only [List.forall_mem_cons]
  exact ⟨floatExact_nan (exec_fmadds hfp frD rc hsrc) hni (maddRaw_nan h) hexc hw,
    floatExact_nan (exec_fmsubs hfp frD rc hsrc) hni (msubRaw_nan h) hexc hw',
    floatExact_nan (exec_fnmadds hfp frD rc hsrc) hni (maddRaw_nan h) hexc hw,
    floatExact_nan (exec_fnmsubs hfp frD rc hsrc) hni (msubRaw_nan h) hexc hw', List.forall_mem_nil _⟩

/-- Settles O17: each instruction comes to `deliverRaw`, and each case of its operands to one exact result. -/
theorem floatInvalid : Obligations.FloatInvalid := by
  intro s frD frA frB frC rc hready hsrc a b c delivers quiet first snan timesZero infinity product madds noNan
  obtain ⟨hfp, hni, -⟩ := id hready
  have hsource {rs : List Reg} (h : ∀ r ∈ rs, r ∈ [frA, frB, frC]) : ∀ r ∈ rs, FpSource s r := fun r hr => hsrc r (h r hr)
  have hadd := exec_fadds hfp frD rc (hsource (rs := [frA, frB]) (by simp))
  have hsub := exec_fsubs hfp frD rc (hsource (rs := [frA, frB]) (by simp))
  have hmul := exec_fmuls hfp frD rc (hsource (rs := [frA, frC]) (by simp))
  have hdiv := exec_fdivs hfp frD rc (hsource (rs := [frA, frB]) (by simp))
  have hres := exec_fres hfp frD rc (hsource (rs := [frB]) (by simp))
  have hnumbers {x y : Word} (h : noNan x y = true) : fpIsNan x = false ∧ fpIsNan y = false := by
    simpa [noNan] using h
  refine ⟨fun h => ⟨?_, ?_, ?_⟩, fun h => ?_, fun h => ?_, fun h => ?_, fun h => ?_, fun h => ⟨?_, fun hb => ?_⟩, fun h => ?_,
    fun hn hinf => ⟨?_, ?_, fun hb => ?_, fun ha => ?_⟩, fun h => ?_, fun hn hinf hz => ?_, fun hn hb hz hinf => ?_⟩
  · exact floatExact_nan hadd hni (if_pos h) (snanBits_exceptions _) (resultNan_pair h)
  · exact floatExact_nan hsub hni (subRaw_nan h) (snanBits_exceptions _)
      ((resultNan_negateOperand ..).trans (resultNan_pair h))
  · exact floatExact_nan hdiv hni (divRaw_nan h) (snanBits_exceptions _) (resultNan_pair h)
  · exact floatExact_nan hmul hni (if_pos h) (snanBits_exceptions _) (resultNan_pair h)
  · exact floatExact_nan hres hni (divRaw_nan h) (snanBits_exceptions _) (resultNan_pair h)
  · exact madds_nan frD rc hready hsrc rfl rfl rfl (by rw [h, Bool.true_or]) (resultNan_triple h) rfl
  · rw [Bool.and_eq_true] at h
    exact floatExact_nan hdiv hni (divRaw_infinities h.1 h.2) (by decide) rfl
  · exact floatExact_nan hmul hni (mulRaw_infTimesZero h) (by decide) rfl
  · have hnumbers : ∀ w ∈ [a, b, c], fpIsNan w = false := by simp [hb, not_nan_of_infTimesZero h]
    refine madds_nan frD rc hready hsrc rfl rfl rfl (Bool.or_eq_true_iff.mpr (.inr h)) (resultNan_numbers hnumbers) ?_
    rw [snanBits_numbers hnumbers, show infTimesZero a c = true from h]
    rfl
  · rw [Bool.and_eq_true] at h
    exact floatExact_nan hdiv hni (divRaw_zeros h.1 h.2) (by decide) rfl
  · obtain ⟨ha, hb⟩ := hnumbers hn
    have h := floatExact_infinite hadd hni (addRaw_infinite ha hb hinf)
    rwa [Bool.bne_false] at h
  · obtain ⟨ha, hb⟩ := hnumbers hn
    have h := floatExact_infinite hsub hni (subRaw_infinite ha hb hinf)
    rwa [Bool.bne_false] at h
  · rw [hb, Bool.or_false] at hinf
    exact floatExact_number hdiv (divRaw_infinite hinf (hnumbers hn).2 hb) (by rw [negateResult_fpInf, Bool.bne_false])
  · rw [ha, Bool.false_or] at hinf
    exact floatExact_number hdiv (divRaw_byInfinity (hnumbers hn).1 ha hinf) rfl
  · have hraw := divRaw_byInfinity (a := 0x3F800000) (by decide) (by decide) h
    rw [fpNeg_one, Bool.false_bne] at hraw
    exact floatExact_number hres hraw rfl
  · have hraw := mulRaw_infinite (hnumbers hn).1 (hnumbers hn).2 hz hinf
    exact floatExact_number hmul hraw (by rw [negateResult_fpInf, Bool.bne_false])
  · obtain ⟨ha, hc⟩ := hnumbers hn
    have hadd {negate : Bool} {i : Instr} (h : exec i s = deliverRaw s frD rc negate a b c (maddRaw (fpRn s.fpscr) a c b)) :=
      floatExact_infinite h hni (maddRaw_infinite ha hb hc hz hinf)
    have hsub {negate : Bool} {i : Instr} (h : exec i s = deliverRaw s frD rc negate a b c (msubRaw (fpRn s.fpscr) a c b)) :=
      floatExact_infinite h hni (msubRaw_infinite ha hb hc hz hinf)
    exact ⟨hadd (exec_fmadds hfp frD rc hsrc), hsub (exec_fmsubs hfp frD rc hsrc), hadd (exec_fnmadds hfp frD rc hsrc),
      hsub (exec_fnmsubs hfp frD rc hsrc)⟩

end Sys2Proof.Machine

/-!
One rounding of an exact real: the rule of each rounding mode, and conversions to an integer word (O18).
-/
namespace Sys2Proof.Machine

/- Exact reals as the model holds them (spec/42_floating_point.md R404). -/

/-- A magnitude with a sign. -/
def signedBy (neg : Bool) (y : ℚ) : ℚ := if neg then -y else y

@[simp] theorem signedBy_false (y : ℚ) : signedBy false y = y := rfl

@[simp] theorem signedBy_true (y : ℚ) : signedBy true y = -y := rfl

@[simp] theorem abs_signedBy (neg : Bool) (y : ℚ) : |signedBy neg y| = |y| := by
  cases neg
  · rfl
  · exact abs_neg y

/-- The magnitude `y` is `mant * 2 ^ exp`, or with `sticky` strictly between that and `(mant + 1) * 2 ^ exp`. -/
def FpSpans (mant : ℕ) (exp : ℤ) (sticky : Bool) (y : ℚ) : Prop :=
  if sticky then mant * (2 : ℚ) ^ exp < y ∧ y < (mant + 1) * (2 : ℚ) ^ exp else y = mant * (2 : ℚ) ^ exp

theorem FpSpans.le {mant : ℕ} {exp : ℤ} {sticky : Bool} {y : ℚ} (h : FpSpans mant exp sticky y) :
    mant * (2 : ℚ) ^ exp ≤ y := by
  cases sticky
  · exact ge_of_eq h
  · exact h.1.le

theorem FpSpans.lt {mant : ℕ} {exp : ℤ} {sticky : Bool} {y : ℚ} (h : FpSpans mant exp sticky y) :
    y < (mant + 1) * (2 : ℚ) ^ exp := by
  have hpos : (0 : ℚ) < 2 ^ exp := by positivity
  cases sticky
  · rw [show y = mant * (2 : ℚ) ^ exp from h]
    linarith
  · exact h.2

theorem FpSpans.scale {mant : ℕ} {exp : ℤ} {sticky : Bool} {y : ℚ} (h : FpSpans mant exp sticky y) (k : ℤ) :
    FpSpans mant (exp + k) sticky (y * (2 : ℚ) ^ k) := by
  have hpos : (0 : ℚ) < 2 ^ k := by positivity
  have hadd : (2 : ℚ) ^ (exp + k) = 2 ^ exp * 2 ^ k := zpow_add₀ two_ne_zero exp k
  unfold FpSpans at h ⊢
  rw [hadd, ← mul_assoc, ← mul_assoc]
  cases sticky
  · exact congrArg (· * (2 : ℚ) ^ k) h
  · exact ⟨mul_lt_mul_of_pos_right h.1 hpos, mul_lt_mul_of_pos_right h.2 hpos⟩

/- The rule of a rounding mode. -/

/-- Whether the magnitude `q + t` of a sign, `t` below 1, is rounded to `q + 1` under RN. -/
def RoundsAway (rn : BitVec 2) (neg : Bool) (q : ℕ) (t : ℚ) : Prop :=
  match rn.toNat with
  | 0 => 1 / 2 < t ∨ t = 1 / 2 ∧ q % 2 = 1
  | 1 => False
  | 2 => t ≠ 0 ∧ neg = false
  | _ => t ≠ 0 ∧ neg = true

theorem rn_cases : ∀ rn : BitVec 2, rn = 0 ∨ rn = 1 ∨ rn = 2 ∨ rn = 3 := by decide

section
variable (neg : Bool) (q : ℕ) (t : ℚ)

theorem roundsAway_nearest : RoundsAway 0 neg q t ↔ 1 / 2 < t ∨ t = 1 / 2 ∧ q % 2 = 1 := Iff.rfl

theorem roundsAway_zero : ¬RoundsAway 1 neg q t := not_false

theorem roundsAway_up : RoundsAway 2 neg q t ↔ t ≠ 0 ∧ neg = false := Iff.rfl

theorem roundsAway_down : RoundsAway 3 neg q t ↔ t ≠ 0 ∧ neg = true := Iff.rfl

end

theorem not_roundsAway_exact (rn : BitVec 2) (neg : Bool) (q : ℕ) : ¬RoundsAway rn neg q 0 := by
  rcases rn_cases rn with rfl | rfl | rfl | rfl
  · rw [roundsAway_nearest]
    norm_num
  · exact roundsAway_zero neg q 0
  · exact fun h => h.1 rfl
  · exact fun h => h.1 rfl

section
variable {r sh : ℕ} {sticky : Bool} {t : ℚ}

/-- The fraction left by a division by `2 ^ sh`, in units of that division's remainder. -/
theorem FpSpans.fraction (h : FpSpans r (-(sh : ℤ)) sticky t) : FpSpans r 0 sticky (t * 2 ^ sh) := by
  have hscaled := h.scale sh
  rwa [neg_add_cancel, zpow_natCast] at hscaled

theorem fraction_ne_zero_iff (h : FpSpans r (-(sh : ℤ)) sticky t) : (r != 0 || sticky) = true ↔ t ≠ 0 := by
  have hpos : (0 : ℚ) < 2 ^ (-(sh : ℤ)) := by positivity
  cases sticky
  · rw [show t = r * (2 : ℚ) ^ (-(sh : ℤ)) from h]
    simp
  · have hle := h.1
    have hr : (0 : ℚ) ≤ r * 2 ^ (-(sh : ℤ)) := by positivity
    simp only [Bool.or_true, true_iff]
    exact (lt_of_le_of_lt hr hle).ne'

theorem fraction_lt_one (h : FpSpans r (-(sh : ℤ)) sticky t) (hr : r < 2 ^ sh) : t < 1 := by
  have hlt := h.fraction.lt
  have hr' : (r : ℚ) + 1 ≤ 2 ^ sh := by exact_mod_cast hr
  have hpos : (0 : ℚ) < 2 ^ sh := by positivity
  rw [zpow_zero, mul_one] at hlt
  by_contra hge
  nlinarith

theorem fraction_nonneg (h : FpSpans r (-(sh : ℤ)) sticky t) : 0 ≤ t := le_trans (by positivity) h.le

/-- The fraction against one half, by the remainder doubled. -/
theorem half_lt_fraction_iff (h : FpSpans r (-(sh : ℤ)) sticky t) (hsh : 0 < sh) :
    (1 / 2 < t ↔ 2 ^ sh < 2 * r ∨ 2 * r = 2 ^ sh ∧ sticky = true) ∧
      (t = 1 / 2 ↔ 2 * r = 2 ^ sh ∧ sticky = false) := by
  obtain ⟨n, rfl⟩ : ∃ n, sh = n + 1 := ⟨sh - 1, by omega⟩
  have hpow : 2 ^ (n + 1) = 2 * 2 ^ n := Nat.pow_succ'
  have hfraction := h.fraction
  have hpos : (0 : ℚ) < 2 ^ n := by positivity
  have hpowq : (2 : ℚ) ^ (n + 1) = 2 * 2 ^ n := pow_succ' 2 n
  rw [hpow]
  rw [hpowq] at hfraction
  have hhalf : (1 / 2 < t ↔ (2 : ℚ) ^ n < t * (2 * 2 ^ n)) ∧ (t = 1 / 2 ↔ t * (2 * 2 ^ n) = (2 : ℚ) ^ n) := by
    constructor
    · constructor <;> intro ht <;> nlinarith
    · constructor <;> intro ht
      · rw [ht]
        ring
      · have hprod : (2 * t - 1) * (2 : ℚ) ^ n = 0 := by linarith
        rcases mul_eq_zero.mp hprod with h0 | h0
        · linarith
        · exact absurd h0 hpos.ne'
  rw [hhalf.1, hhalf.2]
  generalize t * (2 * 2 ^ n) = u at hfraction
  generalize hm : 2 ^ n = m
  have hmq : (2 : ℚ) ^ n = (m : ℚ) := by
    rw [← hm]
    push_cast
    rfl
  rw [hmq]
  unfold FpSpans at hfraction
  rw [zpow_zero, mul_one, mul_one] at hfraction
  cases sticky
  · rw [show u = (r : ℚ) from hfraction, Nat.cast_lt, Nat.cast_inj]
    simp
  · obtain ⟨hlo, hhi⟩ := hfraction
    have hne : u ≠ (m : ℚ) := fun hu => by
      rw [hu] at hlo hhi
      have h1 : r < m := by exact_mod_cast hlo
      have h2 : m < r + 1 := by exact_mod_cast hhi
      omega
    have hlt : (m : ℚ) < u ↔ m ≤ r := by
      constructor
      · intro hu
        have h2 : m < r + 1 := by exact_mod_cast hu.trans hhi
        omega
      · intro hu
        exact lt_of_le_of_lt (by exact_mod_cast hu) hlo
    simp [hne, hlt]
    omega

/-- The model's rounding decision, from quotient and remainder, is the rule of the rounding mode. -/
theorem roundsUp_iff (rn : BitVec 2) (neg : Bool) (q : ℕ) (h : FpSpans r (-(sh : ℤ)) sticky t) (hsh : 0 < sh) :
    roundsUp rn neg q r sh sticky = true ↔ RoundsAway rn neg q t := by
  obtain ⟨hgt, heq⟩ := half_lt_fraction_iff h hsh
  have hne := fraction_ne_zero_iff h
  rcases rn_cases rn with rfl | rfl | rfl | rfl
  · rw [roundsAway_nearest, hgt, heq]
    have hpos := Nat.two_pow_pos sh
    have hr : 2 * r = 2 ^ sh → r ≠ 0 := by omega
    change (decide (2 ^ sh < 2 * r) ||
      (2 * r == 2 ^ sh && (r != 0 || sticky) && (sticky || q % 2 == 1))) = true ↔ _
    cases sticky
    · simp
      tauto
    · simp
  · exact iff_of_false Bool.false_ne_true (roundsAway_zero neg q t)
  · rw [roundsAway_up, ← hne, ← Bool.not_eq_true', ← Bool.and_eq_true]
    exact Iff.rfl
  · rw [roundsAway_down, ← hne, ← Bool.and_eq_true]
    exact Iff.rfl

end

/- Rounding to an integer (spec/42_floating_point.md R441). -/

section
variable {rn : BitVec 2} {neg up : Bool} {q : ℕ} {t : ℚ}

/-- The rounded magnitude is larger where it was rounded away. -/
theorem lt_rounded_iff (h0 : 0 ≤ t) (h1 : t < 1) : (q : ℚ) + t < q + (up.toNat : ℚ) ↔ up = true := by
  cases up
  · simp [h0]
  · simp [h1]

/-- The rounded magnitude is another one where something was left. -/
theorem rounded_ne_iff (h1 : t < 1) (hup : up = true ↔ RoundsAway rn neg q t) :
    (q : ℚ) + (up.toNat : ℚ) ≠ q + t ↔ t ≠ 0 := by
  cases up
  · simp
  · have ht : t ≠ 0 := fun ht => not_roundsAway_exact rn neg q (ht ▸ hup.mp rfl)
    simp [h1.ne', ht]

/-- Rounded up wherever something is left, the fraction is within one unit. -/
theorem ceil_bounds (h0 : 0 ≤ t) (h1 : t < 1) (haway : up = true ↔ t ≠ 0) :
    t ≤ (up.toNat : ℚ) ∧ (up.toNat : ℚ) < t + 1 := by
  cases up
  · have ht : t = 0 := not_not.mp fun ht => Bool.false_ne_true (haway.mpr ht)
    rw [ht]
    norm_num
  · have ht : 0 < t := lt_of_le_of_ne h0 (haway.mp rfl).symm
    rw [Bool.toNat_true, Nat.cast_one]
    exact ⟨h1.le, by linarith⟩

theorem roundsToInt_signed (h0 : 0 ≤ t) (h1 : t < 1) (hup : up = true ↔ RoundsAway rn neg q t) {z : ℤ}
    (hz : (z : ℚ) = signedBy neg (q + (up.toNat : ℚ))) : RoundsToInt rn (signedBy neg (q + t)) z := by
  have hq : (0 : ℚ) ≤ q := Nat.cast_nonneg q
  have hparity : z % 2 = ((q + up.toNat : ℕ) : ℤ) % 2 := by
    have hzint : z = if neg then -((q + up.toNat : ℕ) : ℤ) else ((q + up.toNat : ℕ) : ℤ) := by
      have hcast : (z : ℚ) = ((if neg then -((q + up.toNat : ℕ) : ℤ) else ((q + up.toNat : ℕ) : ℤ) : ℤ) : ℚ) := by
        rw [hz]
        cases neg <;> simp
      exact_mod_cast hcast
    rw [hzint]
    split <;> omega
  have habs : |signedBy neg (q + t) - z| = |t - up.toNat| := by
    rw [hz]
    cases neg
    · simp
    · rw [signedBy_true, signedBy_true, ← abs_neg]
      congr 1
      ring
  rcases rn_cases rn with rfl | rfl | rfl | rfl
  · change |signedBy neg (q + t) - z| ≤ 1 / 2 ∧ (|signedBy neg (q + t) - z| = 1 / 2 → z % 2 = 0)
    rw [roundsAway_nearest] at hup
    rw [habs, hparity]
    cases up
    · simp only [Bool.false_eq_true, false_iff, not_or, not_and] at hup
      rw [Bool.toNat_false, Nat.cast_zero, sub_zero, abs_of_nonneg h0]
      exact ⟨not_lt.mp hup.1, fun ht => by have := hup.2 ht; omega⟩
    · simp only [true_iff] at hup
      have hhalf : 1 / 2 ≤ t := hup.elim le_of_lt fun h => h.1.ge
      rw [Bool.toNat_true, Nat.cast_one, abs_of_neg (by linarith)]
      refine ⟨by linarith, fun ht => ?_⟩
      have hodd := (hup.resolve_left (by linarith)).2
      omega
  · change |(z : ℚ)| ≤ |signedBy neg (q + t)| ∧ |signedBy neg (q + t)| - |(z : ℚ)| < 1 ∧ 0 ≤ z * signedBy neg (q + t)
    have hdown : up = false := Bool.eq_false_of_not_eq_true fun h => roundsAway_zero neg q t (hup.mp h)
    rw [hdown, Bool.toNat_false, Nat.cast_zero, add_zero] at hz
    rw [hz, abs_signedBy, abs_signedBy, abs_of_nonneg hq, abs_of_nonneg (add_nonneg hq h0)]
    refine ⟨by linarith, by linarith, ?_⟩
    have hprod : 0 ≤ (q : ℚ) * (q + t) := mul_nonneg hq (add_nonneg hq h0)
    cases neg
    · exact hprod
    · rw [signedBy_true, signedBy_true, neg_mul_neg]
      exact hprod
  · change signedBy neg (q + t) ≤ z ∧ z < signedBy neg (q + t) + 1
    rw [roundsAway_up] at hup
    rw [hz]
    cases neg
    · have hceil := ceil_bounds h0 h1 (hup.trans (and_iff_left rfl))
      exact ⟨by rw [signedBy_false, signedBy_false]; linarith, by rw [signedBy_false, signedBy_false]; linarith⟩
    · obtain rfl : up = false := Bool.eq_false_of_not_eq_true fun h => Bool.noConfusion (hup.mp h).2
      rw [Bool.toNat_false, Nat.cast_zero, signedBy_true, signedBy_true]
      exact ⟨by linarith, by linarith⟩
  · change z ≤ signedBy neg (q + t) ∧ signedBy neg (q + t) - 1 < z
    rw [roundsAway_down] at hup
    rw [hz]
    cases neg
    · obtain rfl : up = false := Bool.eq_false_of_not_eq_true fun h => Bool.noConfusion (hup.mp h).2
      rw [Bool.toNat_false, Nat.cast_zero, signedBy_false, signedBy_false]
      exact ⟨by linarith, by linarith⟩
    · have hceil := ceil_bounds h0 h1 (hup.trans (and_iff_left rfl))
      exact ⟨by rw [signedBy_true, signedBy_true]; linarith, by rw [signedBy_true, signedBy_true]; linarith⟩

end

/-- What `roundToInt` gives: quotient and fraction of the magnitude, and whether it was rounded up or is inexact. -/
theorem roundToInt_eq (rn : BitVec 2) (neg : Bool) (mant : ℕ) (exp : ℤ) :
    ∃ (q : ℕ) (t : ℚ) (up : Bool), 0 ≤ t ∧ t < 1 ∧ (mant : ℚ) * 2 ^ exp = q + t ∧ (up = true ↔ RoundsAway rn neg q t) ∧
      roundToInt rn neg mant exp = (q + up.toNat, up, decide (t ≠ 0)) := by
  unfold roundToInt
  by_cases hexp : 0 ≤ exp
  · rw [if_pos hexp]
    refine ⟨mant * 2 ^ exp.toNat, 0, false, le_rfl, one_pos, ?_, iff_of_false Bool.false_ne_true
      (not_roundsAway_exact rn neg _), by simp⟩
    obtain ⟨n, rfl⟩ := Int.eq_ofNat_of_zero_le hexp
    simp
  · rw [if_neg hexp]
    obtain ⟨sh, rfl, hsh⟩ : ∃ sh : ℕ, exp = -(sh : ℤ) ∧ 0 < sh := ⟨(-exp).toNat, by omega, by omega⟩
    rw [neg_neg, Int.toNat_natCast]
    have hspans : FpSpans (mant % 2 ^ sh) (-(sh : ℤ)) false (((mant % 2 ^ sh : ℕ) : ℚ) * 2 ^ (-(sh : ℤ))) := rfl
    refine ⟨mant / 2 ^ sh, _, roundsUp rn neg (mant / 2 ^ sh) (mant % 2 ^ sh) sh false, fraction_nonneg hspans,
      fraction_lt_one hspans (Nat.mod_lt _ (Nat.two_pow_pos sh)), ?_, roundsUp_iff rn neg _ hspans hsh, ?_⟩
    · have hdiv : ((mant : ℕ) : ℚ) = 2 ^ sh * ((mant / 2 ^ sh : ℕ) : ℚ) + ((mant % 2 ^ sh : ℕ) : ℚ) := by
        exact_mod_cast (Nat.div_add_mod mant (2 ^ sh)).symm
      have hinv : (2 : ℚ) ^ sh * 2 ^ (-(sh : ℤ)) = 1 := by
        rw [zpow_neg, zpow_natCast, mul_inv_cancel₀ (by positivity)]
      rw [hdiv]
      linear_combination ((mant / 2 ^ sh : ℕ) : ℚ) * hinv
    · have hinexact := fraction_ne_zero_iff hspans
      rw [Bool.or_false] at hinexact
      rw [← Bool.decide_congr hinexact, Bool.decide_coe]

/- Conversions (spec/42_floating_point.md R440 to R442). -/

theorem fpValue_eq_signedBy (w : Word) :
    fpValue w = signedBy (fpNeg w) ((fpSignificand w : ℚ) * (2 : ℚ) ^ fpScale w) := by
  unfold fpValue
  cases fpNeg w
  · simp
  · simp

/-- The instruction writes the integer word `v`, or leaves frD where an invalid operation it raises is enabled; FPRF is
some value. -/
def FloatConverts (o : Out) (s : State) (frD : Reg) (rc : Bool) (v raised : Word) (fr fi : Bool) : Prop :=
  ∃ u c, (if raised &&& 0x01F80700 ≠ 0 ∧ ibmBit s.fpscr 24 = true then FloatKeeps s u rc
      else FloatWrites s u frD v false rc) ∧
    FpscrAfter raised (some fr) (some fi) (some c) s.fpscr u.fpscr ∧ EndsFloat o s u

section
variable {s : State} {i : Instr} {frD : Reg} {rc : Bool} {w : Word} {x : FpInt}
  (h : exec i s = deliverInt s frD rc w x) (hni : ibmBit s.fpscr 29 = false)
include h hni

theorem floatConverts_invalid {bits v : Word} (hx : x = { invalid := bits, word := v, fr := false, fi := false })
    (hr : bits &&& ~~~fpExceptionBits = 0) (htrap : bits &&& 0x01F80700 ≠ 0) :
    FloatConverts (exec i s) s frD rc v bits false false := by
  have hne : (bits != 0) = true := bne_iff_ne.mpr fun h0 => htrap (by rw [h0]; rfl)
  have hsticky : bits ||| maskIf false fpXX = bits := BitVec.or_zero
  have hafter := fpscrAfter_delivered hr false false ((s.draw .fctiwFprf).extractLsb' 0 5) s.fpscr
  rw [hx] at h
  unfold deliverInt at h
  simp only [hne, hsticky, Bool.true_and, if_true, fpBit_ve, niResult_ieee hni] at h
  unfold FloatConverts
  rw [h]
  cases ibmBit s.fpscr 24
  · exact ⟨_, _, by rw [if_neg (by simp)]; exact floatWrites_fpFinished s frD v false rc _,
      (fpFinished_fpscr _ rc _).symm ▸ hafter, finishFp_ends s (s.writeFpr frD v false) rc _ rfl rfl⟩
  · exact ⟨_, _, by rw [if_pos ⟨htrap, rfl⟩]; exact floatKeeps_fpFinished s rc _,
      (fpFinished_fpscr _ rc _).symm ▸ hafter, finishFp_ends s s rc _ rfl rfl⟩

omit hni in
theorem floatConverts_valid {v : Word} {fr fi : Bool} (hx : x = { invalid := 0, word := v, fr, fi }) :
    FloatConverts (exec i s) s frD rc v (maskIf fi fpXX) fr fi := by
  have hr : maskIf fi fpXX &&& ~~~fpExceptionBits = 0 := outside_maskIf _ (by decide)
  have hsticky : 0 ||| maskIf fi fpXX = maskIf fi fpXX := BitVec.zero_or
  have huntrapped : maskIf fi fpXX &&& 0x01F80700 = 0 := by cases fi <;> decide
  have hafter := fpscrAfter_delivered hr fr fi ((s.draw .fctiwFprf).extractLsb' 0 5) s.fpscr
  rw [hx] at h
  unfold deliverInt at h
  simp only [bne_self_eq_false, Bool.false_and, Bool.false_eq_true, if_false, hsticky] at h
  unfold FloatConverts
  rw [h]
  exact ⟨_, _, by rw [if_neg fun ht => ht.1 huntrapped]; exact floatWrites_fpFinished s frD v false rc _,
    (fpFinished_fpscr _ rc _).symm ▸ hafter, finishFp_ends s (s.writeFpr frD v false) rc _ rfl rfl⟩

end

theorem snanBits_single (w : Word) : snanBits [w] = if fpIsSnan w then fpVXSNAN else 0 := by
  simp only [snanBits, List.any_cons, List.any_nil, Bool.or_false]
  rfl

/-- A conversion of a datum that is no NaN and no infinity: the integer it rounds to, saturated. -/
theorem convertToInt_finite (rn : BitVec 2) {w : Word} (hnan : fpIsNan w = false) (hinf : fpIsInf w = false) :
    ∃ z : ℤ, RoundsToInt rn (fpValue w) z ∧
      convertToInt rn w = if 2 ^ 31 ≤ z then { invalid := fpVXCVI, word := 0x7FFFFFFF, fr := false, fi := false }
        else if z < -2 ^ 31 then { invalid := fpVXCVI, word := 0x80000000, fr := false, fi := false }
        else { invalid := 0, word := BitVec.ofInt 32 z, fr := decide (|fpValue w| < |(z : ℚ)|),
               fi := decide ((z : ℚ) ≠ fpValue w) } := by
  obtain ⟨q, t, up, h0, h1, hmag, hup, hround⟩ := roundToInt_eq rn (fpNeg w) (fpSignificand w) (fpScale w)
  have hq : (0 : ℚ) ≤ q := Nat.cast_nonneg q
  have hvalue : fpValue w = signedBy (fpNeg w) (q + t) := by rw [fpValue_eq_signedBy, hmag]
  set n := q + up.toNat with hn
  have hz : (((if fpNeg w then -(n : ℤ) else n) : ℤ) : ℚ) = signedBy (fpNeg w) (q + (up.toNat : ℚ)) := by
    rw [hn]
    cases fpNeg w <;> simp
  refine ⟨if fpNeg w then -(n : ℤ) else n, ?_, ?_⟩
  · rw [hvalue]
    exact roundsToInt_signed h0 h1 hup hz
  · have hfr : decide (|fpValue w| < |(((if fpNeg w then -(n : ℤ) else n) : ℤ) : ℚ)|) = up := by
      rw [hz, hvalue, abs_signedBy, abs_signedBy, abs_of_nonneg (add_nonneg hq h0),
        abs_of_nonneg (add_nonneg hq (Nat.cast_nonneg _)), Bool.eq_iff_iff, decide_eq_true_iff]
      exact lt_rounded_iff h0 h1
    have hfi : decide ((((if fpNeg w then -(n : ℤ) else n) : ℤ) : ℚ) ≠ fpValue w) = decide (t ≠ 0) := by
      rw [hz, hvalue, decide_eq_decide, ← rounded_ne_iff h1 hup]
      cases fpNeg w <;> simp
    rw [hfr, hfi]
    unfold convertToInt
    simp only [hnan, hinf, hround]
    cases fpNeg w
    · simp only [Bool.false_eq_true, if_false, Bool.not_false, Bool.true_and, Bool.false_and, decide_eq_true_eq]
      by_cases hhigh : 2 ^ 31 ≤ n
      · rw [if_pos hhigh, if_pos (by exact_mod_cast hhigh)]
      · rw [if_neg hhigh, if_neg (by exact_mod_cast hhigh), if_neg (by omega), BitVec.ofInt_natCast]
    · simp only [if_true, Bool.not_true, Bool.true_and, Bool.false_and, Bool.false_eq_true, if_false, decide_eq_true_eq]
      rw [if_neg (by omega : ¬(2 ^ 31 : ℤ) ≤ -(n : ℤ))]
      by_cases hlow : 2 ^ 31 < n
      · rw [if_pos hlow, if_pos (by omega)]
      · rw [if_neg hlow, if_neg (by omega), BitVec.ofInt_neg, BitVec.ofInt_natCast,
          show (0 : Word) - BitVec.ofNat 32 n = -BitVec.ofNat 32 n from BitVec.zero_sub _]

/-- An instruction that comes to a conversion. -/
theorem conversion_of_eq {i : Instr} {s : State} {frD : Reg} {rc : Bool} {w : Word} {rn : BitVec 2}
    (h : exec i s = deliverInt s frD rc w (convertToInt rn w)) (hni : ibmBit s.fpscr 29 = false) :
    if fpIsNan w then
      FloatConverts (exec i s) s frD rc 0x80000000 (fpVXCVI ||| if fpIsSnan w then fpVXSNAN else 0) false false
    else if fpIsInf w then
      FloatConverts (exec i s) s frD rc (if fpNeg w then 0x80000000 else 0x7FFFFFFF) fpVXCVI false false
    else ∃ z : ℤ, RoundsToInt rn (fpValue w) z ∧
      if 2 ^ 31 ≤ z then FloatConverts (exec i s) s frD rc 0x7FFFFFFF fpVXCVI false false
      else if z < -2 ^ 31 then FloatConverts (exec i s) s frD rc 0x80000000 fpVXCVI false false
      else FloatConverts (exec i s) s frD rc (BitVec.ofInt 32 z) (if (z : ℚ) = fpValue w then 0 else fpXX)
        (decide (|fpValue w| < |(z : ℚ)|)) (decide ((z : ℚ) ≠ fpValue w)) := by
  by_cases hnan : fpIsNan w = true
  · rw [if_pos hnan]
    have hx : convertToInt rn w = { invalid := fpVXCVI ||| snanBits [w], word := 0x80000000, fr := false, fi := false } :=
      if_pos hnan
    rw [snanBits_single] at hx
    refine floatConverts_invalid h hni hx ?_ ?_ <;> cases fpIsSnan w <;> decide
  · rw [if_neg hnan]
    by_cases hinf : fpIsInf w = true
    · rw [if_pos hinf]
      exact floatConverts_invalid h hni ((if_neg hnan).trans (if_pos hinf)) (by decide) (by decide)
    · rw [if_neg hinf]
      obtain ⟨z, hz, hx⟩ := convertToInt_finite rn (Bool.eq_false_of_not_eq_true hnan) (Bool.eq_false_of_not_eq_true hinf)
      refine ⟨z, hz, ?_⟩
      by_cases hhigh : 2 ^ 31 ≤ z
      · rw [if_pos hhigh] at hx ⊢
        exact floatConverts_invalid h hni hx (by decide) (by decide)
      · rw [if_neg hhigh] at hx ⊢
        by_cases hlow : z < -2 ^ 31
        · rw [if_pos hlow] at hx ⊢
          exact floatConverts_invalid h hni hx (by decide) (by decide)
        · rw [if_neg hlow] at hx ⊢
          have hraised : (if (z : ℚ) = fpValue w then 0 else fpXX) = maskIf (decide ((z : ℚ) ≠ fpValue w)) fpXX := by
            by_cases he : (z : ℚ) = fpValue w <;> simp [maskIf, he]
          rw [hraised]
          exact floatConverts_valid h hx

theorem or_quiet {w : Word} (h : w.getLsbD 22 = true) : w ||| 0x00400000 = w := by
  apply BitVec.eq_of_getLsbD_eq
  intro i hi
  rw [BitVec.getLsbD_or, show (0x00400000 : Word) = BitVec.twoPow 32 22 from rfl, BitVec.getLsbD_twoPow]
  by_cases h22 : i = 22
  · rw [h22, h, Bool.true_or]
  · rw [decide_eq_false (Ne.symm h22), Bool.and_false, Bool.or_false]

/-- `frsp` copies the datum, a NaN made quiet. -/
theorem frsp_of_eq {i : Instr} {s : State} {frD : Reg} {rc : Bool} {w : Word}
    (h : exec i s = deliverRounded s frD rc w) (hni : ibmBit s.fpscr 29 = false) (hd : fpIsDenormal w = false) :
    ∃ u, (if (if fpIsSnan w then fpVXSNAN else 0) &&& 0x01F80700 ≠ 0 ∧ ibmBit s.fpscr 24 = true then
        FloatKeeps s u rc ∧ FpscrAfter (if fpIsSnan w then fpVXSNAN else 0) none none none s.fpscr u.fpscr
      else FloatWrites s u frD (if fpIsNan w then w ||| 0x00400000 else w) true rc ∧
        FpscrAfter (if fpIsSnan w then fpVXSNAN else 0) (some false) (some false) (some (fpClass w)) s.fpscr u.fpscr) ∧
      EndsFloat (exec i s) s u := by
  have hclass (hnan : fpIsNan w = true) : fpClass (fpQuiet w) = fpClass w := by
    unfold fpClass
    rw [if_pos hnan, if_pos (fpIsNan_fpQuiet hnan)]
  rw [h]
  unfold deliverRounded
  dsimp only
  by_cases hsnan : fpIsSnan w = true
  · have hnan : fpIsNan w = true := (Bool.and_eq_true _ _ ▸ hsnan).1
    rw [if_pos hsnan, if_pos hsnan, if_pos hnan, fpBit_ve, niResult_ieee hni]
    cases ibmBit s.fpscr 24
    · obtain ⟨u, hwrites, hafter, hends⟩ :=
        deliverFp_delivers (s := s) (raised := fpVXSNAN) (by decide) frD rc (fpQuiet w) false false
      rw [hclass hnan] at hafter
      exact ⟨u, by rw [if_neg (by simp)]; exact ⟨hwrites, hafter⟩, hends⟩
    · obtain ⟨u, hkeeps, hafter, hends⟩ := finishFp_withholds (s := s) (raised := fpVXSNAN) (by decide) rc
      exact ⟨u, by rw [if_pos ⟨by decide, rfl⟩]; exact ⟨hkeeps, hafter⟩, hends⟩
  · have hquiet : (if fpIsNan w then w ||| 0x00400000 else w) = w := by
      split
      · next hnan =>
        have hbit : w.getLsbD 22 = true := by simpa [fpIsSnan, hnan] using hsnan
        exact or_quiet hbit
      · rfl
    obtain ⟨u, hwrites, hafter, hends⟩ := deliverFp_delivers (s := s) (raised := 0) (by decide) frD rc w false false
    rw [fpSetSticky_zero] at hends
    rw [if_neg hsnan, if_neg hsnan, hd, hquiet]
    exact ⟨u, by rw [if_neg fun ht => ht.1 rfl]; exact ⟨hwrites, hafter⟩, hends⟩

/-- Settles O18: `frsp` quiets a NaN, and the two conversions round under RN and toward zero. -/
theorem floatConversions : Obligations.FloatConversions := by
  intro s frD frB rc hready hsingle hdenormal w x snan trapped gives converts
  obtain ⟨hfp, hni, -⟩ := hready
  have hsrc : ∀ r ∈ [frB], FpSource s r := List.forall_mem_singleton.mpr ⟨hsingle, hdenormal⟩
  exact ⟨frsp_of_eq (i := .frsp frD frB rc) (guardArith_ready hfp hsrc) hni hdenormal,
    conversion_of_eq (i := .fctiw frD frB rc) (guardArith_ready hfp hsrc) hni,
    conversion_of_eq (i := .fctiwz frD frB rc) (guardArith_ready hfp hsrc) hni⟩

end Sys2Proof.Machine

/-!
Single-precision arithmetic on finite operands: correct rounding (O13), tiny results (O14), overflow (O15).
-/
namespace Sys2Proof.Machine

/- One rounding to 24 significant bits, with unbounded exponent (spec/42_floating_point.md R404). -/

/-- `z` is the magnitude `y = (q + t) * 2 ^ e` of a sign rounded under RN, `q` its 24 leading bits. -/
structure FpRounding (rn : BitVec 2) (neg : Bool) (y : ℚ) (z : FpRounded) (q : ℕ) (e : ℤ) (t : ℚ) : Prop where
  low : 2 ^ 23 ≤ q
  high : q < 2 ^ 24
  nonneg : 0 ≤ t
  below : t < 1
  value : y = (q + t) * 2 ^ e
  up : z.up = true ↔ RoundsAway rn neg q t
  inexact : z.inexact = true ↔ t ≠ 0
  sig : z.sig = if q + z.up.toNat = 2 ^ 24 then 2 ^ 23 else q + z.up.toNat
  exp : z.exp = if q + z.up.toNat = 2 ^ 24 then e + 1 else e

theorem log2_bounds {n : ℕ} (h : 0 < n) : 2 ^ Nat.log2 n ≤ n ∧ n < 2 ^ (Nat.log2 n + 1) :=
  ⟨Nat.log2_self_le h.ne', Nat.lt_log2_self⟩

theorem two_pow_mul_zpow (n : ℕ) (e : ℤ) : ((2 ^ n : ℕ) : ℚ) * 2 ^ e = 2 ^ ((n : ℤ) + e) := by
  rw [zpow_add₀ two_ne_zero, zpow_natCast]
  push_cast
  rfl

/-- A magnitude of more than 24 bits, cut at its 24 leading ones. -/
theorem FpSpans.cut {mant sh : ℕ} {exp : ℤ} {sticky : Bool} {y : ℚ} (h : FpSpans mant exp sticky y) :
    FpSpans (mant % 2 ^ sh) (-(sh : ℤ)) sticky (y * 2 ^ (-(exp + sh)) - (mant / 2 ^ sh : ℕ)) := by
  have hscaled := h.scale (-(exp + sh))
  rw [show exp + -(exp + (sh : ℤ)) = -(sh : ℤ) by ring] at hscaled
  have hdiv : (mant : ℚ) = 2 ^ sh * ((mant / 2 ^ sh : ℕ) : ℚ) + ((mant % 2 ^ sh : ℕ) : ℚ) := by
    exact_mod_cast (Nat.div_add_mod mant (2 ^ sh)).symm
  have hinv : (2 : ℚ) ^ sh * 2 ^ (-(sh : ℤ)) = 1 := by
    rw [zpow_neg, zpow_natCast, mul_inv_cancel₀ (by positivity)]
  have hsplit : (mant : ℚ) * 2 ^ (-(sh : ℤ)) =
      ((mant / 2 ^ sh : ℕ) : ℚ) + ((mant % 2 ^ sh : ℕ) : ℚ) * 2 ^ (-(sh : ℤ)) := by
    rw [hdiv]
    linear_combination ((mant / 2 ^ sh : ℕ) : ℚ) * hinv
  unfold FpSpans at hscaled ⊢
  rw [add_mul, hsplit] at hscaled
  rw [add_mul]
  cases sticky
  · rw [if_neg Bool.false_ne_true] at hscaled ⊢
    linarith
  · rw [if_pos rfl] at hscaled ⊢
    exact ⟨by linarith, by linarith⟩

theorem roundMagnitude_rounding (rn : BitVec 2) (neg : Bool) {mant : ℕ} {exp : ℤ} {sticky : Bool} {y : ℚ}
    (h : FpSpans mant exp sticky y) (h0 : 0 < mant) (hsticky : sticky = true → 2 ^ 24 ≤ mant) :
    ∃ q e t, FpRounding rn neg y (roundMagnitude rn neg mant exp sticky) q e t := by
  obtain ⟨hlow, hhigh⟩ := log2_bounds h0
  unfold roundMagnitude
  dsimp only
  by_cases hbits : Nat.log2 mant + 1 ≤ 24
  · rw [if_pos hbits]
    have hexact : sticky = false := Bool.eq_false_of_not_eq_true fun hs => by
      have hle : mant < 2 ^ 24 := hhigh.trans_le (Nat.pow_le_pow_right (by decide) hbits)
      exact absurd (hsticky hs) (by omega)
    subst hexact
    obtain ⟨k, hk⟩ : ∃ k, 24 - (Nat.log2 mant + 1) = k := ⟨_, rfl⟩
    have hwide {m n : ℕ} (hmn : m + k = n) : 2 ^ m * 2 ^ k = 2 ^ n := by rw [← pow_add, hmn]
    have hq : 2 ^ 23 ≤ mant * 2 ^ k ∧ mant * 2 ^ k < 2 ^ 24 := by
      rw [← hwide (show Nat.log2 mant + k = 23 by omega), ← hwide (show Nat.log2 mant + 1 + k = 24 by omega)]
      exact ⟨Nat.mul_le_mul_right _ hlow, Nat.mul_lt_mul_of_pos_right hhigh (Nat.two_pow_pos k)⟩
    rw [hk]
    refine ⟨mant * 2 ^ k, exp - k, 0, hq.1, hq.2, le_rfl, one_pos, ?_, iff_of_false Bool.false_ne_true
      (not_roundsAway_exact rn neg _), by simp, ?_, ?_⟩
    · rw [show y = mant * (2 : ℚ) ^ exp from h, show exp = (k : ℤ) + (exp - k) by ring, zpow_add₀ two_ne_zero,
        zpow_natCast]
      push_cast
      ring_nf
    · rw [Bool.toNat_false, add_zero, if_neg hq.2.ne]
    · rw [Bool.toNat_false, add_zero, if_neg hq.2.ne]
  · rw [if_neg hbits]
    obtain ⟨sh, hsh⟩ : ∃ sh, Nat.log2 mant + 1 - 24 = sh := ⟨_, rfl⟩
    rw [hsh]
    have hwide {m n : ℕ} (hmn : m + sh = n) : 2 ^ m * 2 ^ sh = 2 ^ n := by rw [← pow_add, hmn]
    have hcut := h.cut (sh := sh)
    have hup := roundsUp_iff rn neg (mant / 2 ^ sh) hcut (by omega)
    have hinexact := fraction_ne_zero_iff hcut
    have hq : 2 ^ 23 ≤ mant / 2 ^ sh ∧ mant / 2 ^ sh < 2 ^ 24 := by
      rw [Nat.le_div_iff_mul_le (Nat.two_pow_pos sh), Nat.div_lt_iff_lt_mul (Nat.two_pow_pos sh),
        hwide (show 23 + sh = Nat.log2 mant by omega), hwide (show 24 + sh = Nat.log2 mant + 1 by omega)]
      exact ⟨hlow, hhigh⟩
    refine ⟨mant / 2 ^ sh, exp + sh, _, hq.1, hq.2, fraction_nonneg hcut,
      fraction_lt_one hcut (Nat.mod_lt _ (Nat.two_pow_pos sh)), ?_, ?_, ?_, ?_, ?_⟩
    · rw [add_sub_cancel, mul_assoc, ← zpow_add₀ two_ne_zero, neg_add_cancel, zpow_zero, mul_one]
    · split <;> exact hup
    · split <;> exact hinexact
    · split <;> rfl
    · split <;> rfl

namespace FpRounding

variable {rn : BitVec 2} {neg : Bool} {y : ℚ} {z : FpRounded} {q : ℕ} {e : ℤ} {t : ℚ}

theorem carry (h : FpRounding rn neg y z q e t) : q + z.up.toNat ≤ 2 ^ 24 := by
  have hhigh := h.high
  have hup := Bool.toNat_le z.up
  omega

theorem sig_bounds (h : FpRounding rn neg y z q e t) : 2 ^ 23 ≤ z.sig ∧ z.sig < 2 ^ 24 := by
  have hlow := h.low
  have hcarry := h.carry
  rw [h.sig]
  split <;> omega

theorem sig_parity (h : FpRounding rn neg y z q e t) : z.sig % 2 = (q + z.up.toNat) % 2 := by
  rw [h.sig]
  split <;> omega

theorem rounded (h : FpRounding rn neg y z q e t) : (z.sig : ℚ) * 2 ^ z.exp = (q + (z.up.toNat : ℚ)) * 2 ^ e := by
  rw [h.sig, h.exp]
  by_cases hc : q + z.up.toNat = 2 ^ 24
  · have hq : (q : ℚ) + (z.up.toNat : ℚ) = 2 ^ 24 := by exact_mod_cast hc
    rw [if_pos hc, if_pos hc, hq, zpow_add_one₀ two_ne_zero]
    push_cast
    ring
  · rw [if_neg hc, if_neg hc]
    push_cast
    rfl

theorem pos (h : FpRounding rn neg y z q e t) : 0 < y := by
  have hq : (0 : ℚ) < q := by exact_mod_cast (Nat.two_pow_pos 23).trans_le h.low
  have ht := h.nonneg
  rw [h.value]
  positivity

/-- `y` has its leading bit at `2 ^ (e + 23)`. -/
theorem bounds (h : FpRounding rn neg y z q e t) : (2 : ℚ) ^ (e + 23) ≤ y ∧ y < (2 : ℚ) ^ (e + 24) := by
  have hpos : (0 : ℚ) < 2 ^ e := by positivity
  have hlow : (2 : ℚ) ^ 23 ≤ q := by exact_mod_cast h.low
  have hhigh : (q : ℚ) + 1 ≤ 2 ^ 24 := by exact_mod_cast h.high
  have ht := h.nonneg
  have ht' := h.below
  have hpow (n : ℕ) : (2 : ℚ) ^ (e + n) = 2 ^ n * 2 ^ e := by rw [zpow_add₀ two_ne_zero, zpow_natCast, mul_comm]
  have h23 := hpow 23
  have h24 := hpow 24
  push_cast at h23 h24
  rw [h23, h24, h.value]
  exact ⟨mul_le_mul_of_nonneg_right (by linarith) hpos.le, mul_lt_mul_of_pos_right (by linarith) hpos⟩

theorem exp_bounds (h : FpRounding rn neg y z q e t) : e ≤ z.exp ∧ z.exp ≤ e + 1 := by
  rw [h.exp]
  split <;> omega

end FpRounding

/- Data between two neighbours (spec/42_floating_point.md R401). -/

theorem fpSignificand_lt (w : Word) : fpSignificand w < 2 ^ 24 := by
  have hf := fpFrac_lt w
  unfold fpSignificand
  split <;> omega

/-- No datum lies between two neighbours of 24 bits. -/
theorem fpValue_grid {q : ℕ} (hq : 2 ^ 23 ≤ q) (e : ℤ) (neg : Bool) (u : Word) :
    signedBy neg (fpValue u) ≤ q * (2 : ℚ) ^ e ∨ (q + 1) * (2 : ℚ) ^ e ≤ signedBy neg (fpValue u) := by
  have hpos : (0 : ℚ) < 2 ^ e := by positivity
  have hmag : (fpSignificand u : ℚ) * 2 ^ fpScale u ≤ q * (2 : ℚ) ^ e ∨
      (q + 1) * (2 : ℚ) ^ e ≤ (fpSignificand u : ℚ) * 2 ^ fpScale u := by
    rcases lt_or_ge (fpScale u) e with hlt | hge
    · have hsig : (fpSignificand u : ℚ) ≤ 2 ^ 24 := by exact_mod_cast (fpSignificand_lt u).le
      have hscale : (2 : ℚ) ^ fpScale u ≤ 2 ^ (e - 1) := zpow_le_zpow_right₀ one_le_two (by omega)
      have hq' : (2 : ℚ) ^ 23 ≤ q := by exact_mod_cast hq
      left
      calc (fpSignificand u : ℚ) * 2 ^ fpScale u ≤ 2 ^ 24 * 2 ^ (e - 1) := by gcongr
        _ = 2 ^ 23 * 2 ^ e := by
          rw [zpow_sub_one₀ two_ne_zero]
          ring
        _ ≤ q * 2 ^ e := by gcongr
    · obtain ⟨n, hn⟩ := Int.eq_ofNat_of_zero_le (sub_nonneg.mpr hge)
      have hscale : (fpSignificand u : ℚ) * 2 ^ fpScale u = ((fpSignificand u * 2 ^ n : ℕ) : ℚ) * 2 ^ e := by
        rw [show fpScale u = (n : ℤ) + e by omega, zpow_add₀ two_ne_zero, zpow_natCast]
        push_cast
        ring
      rw [hscale]
      rcases Nat.lt_or_ge q (fpSignificand u * 2 ^ n) with hgt | hle
      · exact .inr (mul_le_mul_of_nonneg_right (by exact_mod_cast hgt) hpos.le)
      · exact .inl (mul_le_mul_of_nonneg_right (by exact_mod_cast hle) hpos.le)
  have hneg : -((fpSignificand u : ℚ) * 2 ^ fpScale u) ≤ q * (2 : ℚ) ^ e := by
    have h1 : (0 : ℚ) ≤ (fpSignificand u : ℚ) * 2 ^ fpScale u := by positivity
    have h2 : (0 : ℚ) ≤ q * (2 : ℚ) ^ e := by positivity
    linarith
  rw [fpValue_eq_signedBy]
  cases neg <;> cases fpNeg u
  · exact hmag
  · exact .inl hneg
  · exact .inl hneg
  · rw [signedBy_true, signedBy_true, neg_neg]
    exact hmag

theorem signedBy_signedBy (neg : Bool) (y : ℚ) : signedBy neg (signedBy neg y) = y := by
  cases neg
  · rfl
  · exact neg_neg y

theorem abs_signedBy_sub (neg : Bool) (y v : ℚ) : |signedBy neg y - v| = |y - signedBy neg v| := by
  cases neg
  · rfl
  · rw [signedBy_true, signedBy_true, ← abs_neg]
    congr 1
    ring

/-- Of two neighbours `l` and `l + p` the nearer one to `l + d` is as near as any point outside, and only a tie is as near. -/
theorem nearest_of_neighbours {l d p a v : ℚ} (hd : 0 ≤ d) (hp : d < p) (ha : a ≤ l ∨ l + p ≤ a)
    (hv : v = l ∧ 2 * d ≤ p ∨ v = l + p ∧ p ≤ 2 * d) :
    |l + d - v| ≤ |l + d - a| ∧ (a ≠ v → |l + d - a| = |l + d - v| → 2 * d = p) := by
  have hv' : |l + d - v| = if v = l then d else p - d := by
    rcases hv with ⟨rfl, -⟩ | ⟨rfl, -⟩
    · rw [if_pos rfl, add_sub_cancel_left, abs_of_nonneg hd]
    · rw [if_neg (by linarith), abs_of_neg (by linarith)]
      ring
  rw [hv']
  rcases hv with ⟨rfl, hhalf⟩ | ⟨rfl, hhalf⟩
  · rw [if_pos rfl]
    rcases ha with ha | ha
    · rw [abs_of_nonneg (by linarith)]
      exact ⟨by linarith, fun hne heq => absurd (by linarith) hne⟩
    · rw [abs_of_neg (by linarith)]
      exact ⟨by linarith, fun _ heq => by linarith⟩
  · rw [if_neg (by linarith)]
    rcases ha with ha | ha
    · rw [abs_of_nonneg (by linarith)]
      exact ⟨by linarith, fun _ heq => by linarith⟩
    · rw [abs_of_neg (by linarith)]
      exact ⟨by linarith, fun hne heq => absurd (by linarith) hne⟩

namespace FpRounding

variable {rn : BitVec 2} {neg : Bool} {y : ℚ} {z : FpRounded} {q : ℕ} {e : ℤ} {t : ℚ} {w : Word}
  (h : FpRounding rn neg y z q e t) (hw : signedBy neg (fpValue w) = (q + (z.up.toNat : ℚ)) * 2 ^ e)
include h

/-- The magnitude lies between the neighbours `q * 2 ^ e` and `(q + 1) * 2 ^ e`. -/
theorem between : q * (2 : ℚ) ^ e ≤ y ∧ y < (q + 1) * (2 : ℚ) ^ e := by
  have hp : (0 : ℚ) < 2 ^ e := by positivity
  rw [h.value]
  exact ⟨mul_le_mul_of_nonneg_right (by linarith [h.nonneg]) hp.le, mul_lt_mul_of_pos_right (by linarith [h.below]) hp⟩

include hw

/-- Rounded down, the magnitude is the largest datum below. -/
theorem floor (hdown : z.up = false) : signedBy neg (fpValue w) ≤ y ∧
    ∀ u, signedBy neg (fpValue u) ≤ y → signedBy neg (fpValue u) ≤ signedBy neg (fpValue w) := by
  obtain ⟨hlow, hhigh⟩ := h.between
  rw [hdown, Bool.toNat_false, Nat.cast_zero, add_zero] at hw
  rw [hw]
  exact ⟨hlow, fun u hu => (fpValue_grid h.low e neg u).elim id fun ha => by linarith⟩

/-- Rounded up wherever something is left, the magnitude is the smallest datum above. -/
theorem ceil (haway : z.up = true ↔ t ≠ 0) : y ≤ signedBy neg (fpValue w) ∧
    ∀ u, y ≤ signedBy neg (fpValue u) → signedBy neg (fpValue w) ≤ signedBy neg (fpValue u) := by
  have hp : (0 : ℚ) < 2 ^ e := by positivity
  rw [hw]
  cases hz : z.up
  · have ht : t = 0 := not_not.mp fun ht => Bool.false_ne_true (hz.symm.trans (haway.mpr ht))
    rw [Bool.toNat_false, Nat.cast_zero, h.value, ht]
    exact ⟨le_rfl, fun u hu => hu⟩
  · have ht : 0 < t := lt_of_le_of_ne h.nonneg (haway.mp hz).symm
    rw [Bool.toNat_true, Nat.cast_one]
    refine ⟨h.between.2.le, fun u hu => (fpValue_grid h.low e neg u).elim (fun ha => ?_) id⟩
    have hgt : (q : ℚ) * 2 ^ e < y := by
      rw [h.value]
      exact mul_lt_mul_of_pos_right (by linarith) hp
    linarith

/-- Rounded to the nearer neighbour, the magnitude is as near as any datum, and even where another is as near. -/
theorem nearest (hup : z.up = true ↔ 1 / 2 < t ∨ t = 1 / 2 ∧ q % 2 = 1) (u : Word) :
    |y - signedBy neg (fpValue w)| ≤ |y - signedBy neg (fpValue u)| ∧
      (signedBy neg (fpValue u) ≠ signedBy neg (fpValue w) →
        |y - signedBy neg (fpValue u)| = |y - signedBy neg (fpValue w)| → z.sig % 2 = 0) := by
  have hp : (0 : ℚ) < 2 ^ e := by positivity
  have hd : 0 ≤ t * (2 : ℚ) ^ e := mul_nonneg h.nonneg hp.le
  have hbelow : t * (2 : ℚ) ^ e < 2 ^ e := by nlinarith [h.below]
  have hgrid := fpValue_grid h.low e neg u
  have hside : signedBy neg (fpValue w) = q * 2 ^ e ∧ 2 * (t * 2 ^ e) ≤ (2 : ℚ) ^ e ∨
      signedBy neg (fpValue w) = q * 2 ^ e + 2 ^ e ∧ (2 : ℚ) ^ e ≤ 2 * (t * 2 ^ e) := by
    cases hz : z.up
    · have hle : t ≤ 1 / 2 := not_lt.mp fun hlt => Bool.false_ne_true (hz.symm.trans (hup.mpr (.inl hlt)))
      rw [hz, Bool.toNat_false, Nat.cast_zero, add_zero] at hw
      exact .inl ⟨hw, by nlinarith⟩
    · have hge : 1 / 2 ≤ t := (hup.mp hz).elim le_of_lt fun ht => ht.1.ge
      rw [hz, Bool.toNat_true, Nat.cast_one, add_mul, one_mul] at hw
      exact .inr ⟨hw, by nlinarith⟩
  rw [add_mul, one_mul] at hgrid
  rw [h.value, add_mul]
  obtain ⟨hle, htie⟩ := nearest_of_neighbours hd hbelow hgrid hside
  refine ⟨hle, fun hne heq => ?_⟩
  have hprod : (2 * t - 1) * (2 : ℚ) ^ e = 0 := by linarith [htie hne heq]
  have ht : t = 1 / 2 := by linarith [(mul_eq_zero.mp hprod).resolve_right hp.ne']
  rw [h.sig_parity]
  cases hz : z.up
  · have heven : ¬q % 2 = 1 := fun hodd => Bool.false_ne_true (hz.symm.trans (hup.mpr (.inr ⟨ht, hodd⟩)))
    rw [Bool.toNat_false]
    omega
  · have hodd := ((hup.mp hz).resolve_left ht.not_gt).2
    rw [Bool.toNat_true]
    omega

omit hw in
/-- A finite datum of the rounded magnitude is what the exact value rounds to. -/
theorem roundsTo (hfinite : fpFinite w) (hvalue : fpValue w = signedBy neg ((z.sig : ℚ) * 2 ^ z.exp))
    (hparity : w.getLsbD 0 = decide (z.sig % 2 = 1)) : RoundsTo rn (signedBy neg y) w := by
  have hw : signedBy neg (fpValue w) = (q + (z.up.toNat : ℚ)) * 2 ^ e := by
    rw [hvalue, signedBy_signedBy, h.rounded]
  have hup := h.up
  rcases rn_cases rn with rfl | rfl | rfl | rfl
  · have hnearest := h.nearest hw hup
    change fpFinite w ∧ (∀ u, fpFinite u → |signedBy neg y - fpValue w| ≤ |signedBy neg y - fpValue u|) ∧
      ((∃ u, fpFinite u ∧ fpValue u ≠ fpValue w ∧
        |signedBy neg y - fpValue u| = |signedBy neg y - fpValue w|) → w.getLsbD 0 = false)
    simp only [abs_signedBy_sub]
    refine ⟨hfinite, fun u _ => (hnearest u).1, fun ⟨u, _, hne, heq⟩ => ?_⟩
    have heven := (hnearest u).2 (fun he => hne (by
      rw [← signedBy_signedBy neg (fpValue u), he, signedBy_signedBy])) heq
    rw [hparity, heven]
    rfl
  · obtain ⟨hle, hmax⟩ := h.floor hw (Bool.eq_false_of_not_eq_true fun hz => roundsAway_zero neg q t (hup.mp hz))
    change fpFinite w ∧ |fpValue w| ≤ |signedBy neg y| ∧ 0 ≤ fpValue w * signedBy neg y ∧
      ∀ u, fpFinite u → 0 ≤ fpValue u * signedBy neg y → |fpValue u| ≤ |signedBy neg y| → |fpValue u| ≤ |fpValue w|
    have hprod (u : Word) : fpValue u * signedBy neg y = signedBy neg (fpValue u) * y := by
      cases neg
      · rfl
      · rw [signedBy_true, signedBy_true]
        ring
    have hnonneg : 0 ≤ signedBy neg (fpValue w) := by
      rw [hw]
      positivity
    have habs (u : Word) : |fpValue u| = |signedBy neg (fpValue u)| := (abs_signedBy ..).symm
    simp only [hprod, abs_signedBy, abs_of_pos h.pos, mul_nonneg_iff_of_pos_right h.pos]
    simp only [habs, abs_of_nonneg hnonneg]
    refine ⟨hfinite, hle, hnonneg, fun u _ hsame hu => ?_⟩
    rw [abs_of_nonneg hsame] at hu ⊢
    exact hmax u hu
  · change fpFinite w ∧ signedBy neg y ≤ fpValue w ∧ ∀ u, fpFinite u → signedBy neg y ≤ fpValue u → fpValue w ≤ fpValue u
    rw [roundsAway_up] at hup
    cases neg
    · have hceil := h.ceil hw (hup.trans (and_iff_left rfl))
      exact ⟨hfinite, hceil.1, fun u _ => hceil.2 u⟩
    · have hfloor := h.floor hw (Bool.eq_false_of_not_eq_true fun hz => Bool.noConfusion (hup.mp hz).2)
      simp only [signedBy_true] at hfloor ⊢
      exact ⟨hfinite, by linarith [hfloor.1], fun u _ hu => by linarith [hfloor.2 u (by linarith)]⟩
  · change fpFinite w ∧ fpValue w ≤ signedBy neg y ∧ ∀ u, fpFinite u → fpValue u ≤ signedBy neg y → fpValue u ≤ fpValue w
    rw [roundsAway_down] at hup
    cases neg
    · have hfloor := h.floor hw (Bool.eq_false_of_not_eq_true fun hz => Bool.noConfusion (hup.mp hz).2)
      exact ⟨hfinite, hfloor.1, fun u _ => hfloor.2 u⟩
    · have hceil := h.ceil hw (hup.trans (and_iff_left rfl))
      simp only [signedBy_true] at hceil ⊢
      exact ⟨hfinite, by linarith [hceil.1], fun u _ hu => by linarith [hceil.2 u (by linarith)]⟩

end FpRounding

/- The datum of a rounded magnitude (spec/42_floating_point.md R401). -/

section
variable {z : FpRounded} (neg : Bool) (hsig : 2 ^ 23 ≤ z.sig ∧ z.sig < 2 ^ 24) (hexp : -149 ≤ z.exp ∧ z.exp ≤ 104)

theorem getLsbD_packNormal (z : FpRounded) {i : ℕ} (hi : i < 32) :
    (packNormal neg z).getLsbD i = if i < 23 then (BitVec.ofNat 23 z.sig).getLsbD i
      else if i < 31 then (BitVec.ofNat 8 (z.exp + 150).toNat).getLsbD (i - 23) else neg := by
  unfold packNormal
  rw [BitVec.getLsbD_append, BitVec.getLsbD_append]
  by_cases h23 : i < 23
  · simp [h23]
  · by_cases h31 : i < 31
    · simp [h23, h31, show i - 23 < 8 by omega]
    · obtain rfl : i = 31 := by omega
      simp

theorem fpNeg_packNormal (z : FpRounded) : fpNeg (packNormal neg z) = neg := by
  rw [fpNeg, getLsbD_packNormal neg z (by decide), if_neg (by decide), if_neg (by decide)]

include hexp in
theorem fpExp_packNormal : fpExp (packNormal neg z) = (z.exp + 150).toNat := by
  have hbits : (packNormal neg z).extractLsb' 23 8 = BitVec.ofNat 8 (z.exp + 150).toNat := by
    apply BitVec.eq_of_getLsbD_eq
    intro i hi
    rw [BitVec.getLsbD_extractLsb', decide_eq_true hi, Bool.true_and, getLsbD_packNormal neg z (by omega),
      if_neg (by omega), if_pos (by omega), Nat.add_sub_cancel_left]
  rw [fpExp, hbits, BitVec.toNat_ofNat, Nat.mod_eq_of_lt (by omega)]

include hsig in
theorem fpFrac_packNormal : fpFrac (packNormal neg z) = z.sig - 2 ^ 23 := by
  have hbits : (packNormal neg z).extractLsb' 0 23 = BitVec.ofNat 23 z.sig := by
    apply BitVec.eq_of_getLsbD_eq
    intro i hi
    rw [BitVec.getLsbD_extractLsb', decide_eq_true hi, Bool.true_and, getLsbD_packNormal neg z (by omega),
      if_pos (by omega), Nat.zero_add]
  rw [fpFrac, hbits, BitVec.toNat_ofNat]
  omega

include hexp in
theorem fpFinite_packNormal : fpFinite (packNormal neg z) := by
  unfold fpFinite
  rw [fpExp_packNormal neg hexp]
  omega

include hsig hexp in
theorem fpValue_packNormal : fpValue (packNormal neg z) = signedBy neg ((z.sig : ℚ) * 2 ^ z.exp) := by
  have hne : ¬(z.exp + 150).toNat = 0 := by omega
  have hscale : (((z.exp + 150).toNat : ℕ) : ℤ) - 150 = z.exp := by omega
  have hsignificand : 2 ^ 23 + (z.sig - 2 ^ 23) = z.sig := by omega
  rw [fpValue_eq_signedBy, fpNeg_packNormal, fpSignificand, fpScale, fpExp_packNormal neg hexp,
    fpFrac_packNormal neg hsig, if_neg hne, if_neg hne, hscale, hsignificand]

theorem parity_packNormal (z : FpRounded) : (packNormal neg z).getLsbD 0 = decide (z.sig % 2 = 1) := by
  rw [getLsbD_packNormal neg z (by decide), if_pos (by decide), BitVec.getLsbD_ofNat]
  simp [Nat.testBit_zero]

end

/-- A rounded magnitude in the normalized range, as a datum: correctly rounded, FI and FR as the value says. -/
theorem FpRounding.packed {rn : BitVec 2} {neg : Bool} {y : ℚ} {z : FpRounded} {q : ℕ} {e : ℤ} {t : ℚ}
    (h : FpRounding rn neg y z q e t) (hexp : -149 ≤ z.exp ∧ z.exp ≤ 104) :
    RoundsTo rn (signedBy neg y) (packNormal neg z) ∧
      z.up = decide (|signedBy neg y| < |fpValue (packNormal neg z)|) ∧
      z.inexact = decide (fpValue (packNormal neg z) ≠ signedBy neg y) := by
  have hp : (0 : ℚ) < 2 ^ e := by positivity
  have hvalue := fpValue_packNormal neg h.sig_bounds hexp
  have hq : (0 : ℚ) ≤ q := Nat.cast_nonneg q
  have hrounded : fpValue (packNormal neg z) = signedBy neg ((q + (z.up.toNat : ℚ)) * 2 ^ e) := by
    rw [hvalue, h.rounded]
  refine ⟨h.roundsTo (fpFinite_packNormal neg hexp) hvalue (parity_packNormal neg z), ?_, ?_⟩
  · have hnonneg : 0 ≤ (q + (z.up.toNat : ℚ)) * 2 ^ e := by positivity
    rw [hrounded, abs_signedBy, abs_signedBy, abs_of_pos h.pos, abs_of_nonneg hnonneg, h.value, Bool.eq_iff_iff,
      decide_eq_true_iff, mul_lt_mul_iff_of_pos_right hp]
    exact (lt_rounded_iff h.nonneg h.below).symm
  · have hinj : signedBy neg ((q + (z.up.toNat : ℚ)) * 2 ^ e) = signedBy neg ((q + t) * 2 ^ e) ↔
        (q : ℚ) + (z.up.toNat : ℚ) = q + t := by
      cases neg
      · exact mul_left_inj' hp.ne'
      · exact neg_inj.trans (mul_left_inj' hp.ne')
    rw [hrounded, h.value, Bool.eq_iff_iff, decide_eq_true_iff, h.inexact, ne_eq (signedBy _ _),
      hinj]
    exact (rounded_ne_iff h.below h.up).symm

/- Tiny results and overflow (spec/42_floating_point.md R405, R410). -/

theorem fpTiny_iff {mant : ℕ} {exp : ℤ} {sticky : Bool} {y : ℚ} (h : FpSpans mant exp sticky y) (h0 : 0 < mant) :
    fpTiny mant exp = true ↔ y < (2 : ℚ) ^ (-126 : ℤ) := by
  obtain ⟨hlow, hhigh⟩ := log2_bounds h0
  have hp : (0 : ℚ) < 2 ^ exp := by positivity
  have hle : (2 : ℚ) ^ ((Nat.log2 mant : ℤ) + exp) ≤ y := by
    rw [← two_pow_mul_zpow]
    exact le_trans (mul_le_mul_of_nonneg_right (by exact_mod_cast hlow) hp.le) h.le
  have hlt : y < (2 : ℚ) ^ ((Nat.log2 mant : ℤ) + 1 + exp) := by
    have hhigh' : (mant : ℚ) + 1 ≤ ((2 ^ (Nat.log2 mant + 1) : ℕ) : ℚ) := by exact_mod_cast hhigh
    have hpow := two_pow_mul_zpow (Nat.log2 mant + 1) exp
    rw [Nat.cast_add_one] at hpow
    rw [← hpow]
    exact lt_of_lt_of_le h.lt (mul_le_mul_of_nonneg_right hhigh' hp.le)
  unfold fpTiny
  rw [decide_eq_true_iff]
  constructor
  · intro htiny
    exact hlt.trans_le (zpow_le_zpow_right₀ one_le_two (by omega))
  · intro hy
    by_contra hge
    exact absurd (hle.trans_lt hy) (not_lt.mpr (zpow_le_zpow_right₀ one_le_two (by omega)))

theorem fpLargest_eq : fpLargest = 2 ^ 128 - 2 ^ 104 := by
  rw [fpLargest, fpValue_eq_signedBy, show fpNeg 0x7F7FFFFF = false by decide,
    show fpSignificand 0x7F7FFFFF = 2 ^ 24 - 1 by decide, show fpScale 0x7F7FFFFF = 104 by decide]
  norm_num

theorem roundsBeyond_of_le {y : ℚ} (h : 2 ^ 128 ≤ y) (rn : BitVec 2) (neg : Bool) :
    RoundsBeyond rn (signedBy neg y) := by
  have hlargest := fpLargest_eq
  have hy : 0 < y := lt_of_lt_of_le (by norm_num) h
  rcases rn_cases rn with rfl | rfl | rfl | rfl
  · change (2 : ℚ) ^ 128 - 2 ^ 103 ≤ |signedBy neg y|
    rw [abs_signedBy, abs_of_pos hy]
    linarith
  · change (2 : ℚ) ^ 128 ≤ |signedBy neg y|
    rwa [abs_signedBy, abs_of_pos hy]
  · change fpLargest < signedBy neg y ∨ signedBy neg y ≤ -(2 : ℚ) ^ 128
    cases neg
    · exact .inl (by rw [signedBy_false]; linarith)
    · exact .inr (neg_le_neg h)
  · change (2 : ℚ) ^ 128 ≤ signedBy neg y ∨ signedBy neg y < -fpLargest
    cases neg
    · exact .inl h
    · exact .inr (by rw [signedBy_true]; linarith)

theorem not_roundsBeyond_of_le {y : ℚ} (h0 : 0 < y) (h : y ≤ fpLargest) (rn : BitVec 2) (neg : Bool) :
    ¬RoundsBeyond rn (signedBy neg y) := by
  have hlargest := fpLargest_eq
  rcases rn_cases rn with rfl | rfl | rfl | rfl
  · change ¬(2 : ℚ) ^ 128 - 2 ^ 103 ≤ |signedBy neg y|
    rw [abs_signedBy, abs_of_pos h0]
    linarith
  · change ¬(2 : ℚ) ^ 128 ≤ |signedBy neg y|
    rw [abs_signedBy, abs_of_pos h0]
    linarith
  · change ¬(fpLargest < signedBy neg y ∨ signedBy neg y ≤ -(2 : ℚ) ^ 128)
    cases neg <;> simp only [signedBy_false, signedBy_true, not_or] <;> constructor <;> linarith
  · change ¬((2 : ℚ) ^ 128 ≤ signedBy neg y ∨ signedBy neg y < -fpLargest)
    cases neg <;> simp only [signedBy_false, signedBy_true, not_or] <;> constructor <;> linarith

/-- A value whose leading bit is that of the largest datum rounds beyond it where every leading bit is 1 and it is rounded
away. -/
theorem roundsBeyond_top {rn : BitVec 2} {neg : Bool} {q : ℕ} {t : ℚ} (hlow : 0 < q) (hq : q < 2 ^ 24)
    (h0 : 0 ≤ t) (h1 : t < 1) :
    RoundsBeyond rn (signedBy neg ((q + t) * 2 ^ (104 : ℤ))) ↔ q = 2 ^ 24 - 1 ∧ RoundsAway rn neg q t := by
  have hlargest := fpLargest_eq
  have hpow : (2 : ℚ) ^ (104 : ℤ) = 2 ^ 104 := by norm_num
  rw [hpow]
  by_cases hall : q = 2 ^ 24 - 1
  · have hy : (q + t) * (2 : ℚ) ^ 104 = 2 ^ 128 - 2 ^ 104 + t * 2 ^ 104 := by
      rw [hall]
      norm_num
      ring
    have hpos : 0 < (q + t) * (2 : ℚ) ^ 104 := by
      rw [hy]
      linarith
    have hnonzero : t ≠ 0 ↔ 0 < t := ⟨fun ht => lt_of_le_of_ne h0 ht.symm, ne_of_gt⟩
    rw [and_iff_right hall]
    rcases rn_cases rn with rfl | rfl | rfl | rfl
    · change (2 : ℚ) ^ 128 - 2 ^ 103 ≤ |signedBy neg ((q + t) * 2 ^ 104)| ↔ _
      rw [roundsAway_nearest, abs_signedBy, abs_of_pos hpos, hy, hall, and_iff_left (by decide), or_comm, eq_comm,
        ← le_iff_eq_or_lt]
      constructor <;> intro h <;> linarith
    · change (2 : ℚ) ^ 128 ≤ |signedBy neg ((q + t) * 2 ^ 104)| ↔ _
      rw [abs_signedBy, abs_of_pos hpos, hy]
      exact iff_of_false (by linarith) (roundsAway_zero neg q t)
    · change fpLargest < signedBy neg ((q + t) * 2 ^ 104) ∨ signedBy neg ((q + t) * 2 ^ 104) ≤ -(2 : ℚ) ^ 128 ↔ _
      rw [roundsAway_up, hnonzero, hy, hlargest]
      cases neg
      · rw [signedBy_false, or_iff_left (by linarith), and_iff_left rfl]
        constructor <;> intro h <;> linarith
      · rw [signedBy_true]
        exact iff_of_false (by rw [not_or]; constructor <;> linarith) fun h => Bool.noConfusion h.2
    · change (2 : ℚ) ^ 128 ≤ signedBy neg ((q + t) * 2 ^ 104) ∨ signedBy neg ((q + t) * 2 ^ 104) < -fpLargest ↔ _
      rw [roundsAway_down, hnonzero, hy, hlargest]
      cases neg
      · rw [signedBy_false]
        exact iff_of_false (by rw [not_or]; constructor <;> linarith) fun h => Bool.noConfusion h.2
      · rw [signedBy_true, or_iff_right (by linarith), and_iff_left rfl]
        constructor <;> intro h <;> linarith
  · have hle : (q : ℚ) + 1 ≤ 2 ^ 24 - 1 := by
      have hlt : q + 2 ≤ 2 ^ 24 := by omega
      have hcast : ((q + 2 : ℕ) : ℚ) ≤ ((2 ^ 24 : ℕ) : ℚ) := by exact_mod_cast hlt
      push_cast at hcast
      linarith
    have hpos : 0 < (q + t) * (2 : ℚ) ^ 104 := by
      have hq0 : (0 : ℚ) < q := by exact_mod_cast hlow
      positivity
    refine iff_of_false (not_roundsBeyond_of_le hpos ?_ rn neg) fun h => hall h.1
    rw [hlargest]
    linarith

/-- The rounded magnitude is beyond the largest datum exactly where the value rounds there. -/
theorem FpRounding.overflows_iff {rn : BitVec 2} {neg : Bool} {y : ℚ} {z : FpRounded} {q : ℕ} {e : ℤ} {t : ℚ}
    (h : FpRounding rn neg y z q e t) : fpOverflows z = true ↔ RoundsBeyond rn (signedBy neg y) := by
  obtain ⟨hlow, hhigh⟩ := h.bounds
  have hexp := h.exp
  unfold fpOverflows
  rw [decide_eq_true_iff]
  rcases lt_trichotomy e 104 with hlt | rfl | hgt
  · refine iff_of_false (by have := h.exp_bounds; omega) (not_roundsBeyond_of_le h.pos (hhigh.le.trans ?_) rn neg)
    refine (zpow_le_zpow_right₀ one_le_two (by omega : e + 24 ≤ 127)).trans ?_
    rw [fpLargest_eq]
    norm_num
  · rw [h.value, roundsBeyond_top ((Nat.two_pow_pos 23).trans_le h.low) h.high h.nonneg h.below, ← h.up]
    have hq := h.high
    cases hz : z.up
    · rw [hz, Bool.toNat_false] at hexp
      split at hexp <;> simp <;> omega
    · rw [hz, Bool.toNat_true] at hexp
      split at hexp <;> simp <;> omega
  · refine iff_of_true (by have := h.exp_bounds; omega) (roundsBeyond_of_le (le_trans ?_ hlow) rn neg)
    have hmono := zpow_le_zpow_right₀ (one_le_two (α := ℚ)) (by omega : (128 : ℤ) ≤ e + 23)
    exact_mod_cast hmono

/- What an operation gives before rounding, as a rational (spec/42_floating_point.md R404, R420 to R428). -/

/-- A result to be rounded, as the operations of the model give it. -/
def realRaw (neg : Bool) (mant : ℕ) (exp : ℤ) (sticky : Bool) : FpRaw :=
  { invalid := 0, zeroDivide := false, value := .real neg mant exp sticky }

/-- The operation gives the exact value `x`; the sign is that of a zero. -/
inductive GivesExactly : FpRaw → ℚ → Bool → Prop
  | zero (sign : Bool) : GivesExactly (exactRaw (fpZero sign)) 0 sign
  | real {neg : Bool} {mant : ℕ} {exp : ℤ} {sticky : Bool} {y : ℚ} (sign : Bool) (hspans : FpSpans mant exp sticky y)
      (hpos : 0 < mant) (hsticky : sticky = true → 2 ^ 24 ≤ mant) (hbound : y < (2 : ℚ) ^ (300 : ℤ)) :
      GivesExactly (realRaw neg mant exp sticky) (signedBy neg y) sign

theorem fpValue_abs (w : Word) : |fpValue w| = (fpSignificand w : ℚ) * (2 : ℚ) ^ fpScale w := by
  rw [fpValue_eq_signedBy, abs_signedBy, abs_of_nonneg (by positivity)]

theorem fpScale_bounds {w : Word} (h : fpFinite w) : -149 ≤ fpScale w ∧ fpScale w ≤ 104 := by
  have hexp := fpExp_lt w
  unfold fpFinite at h
  unfold fpScale
  split <;> omega

theorem fpValue_abs_lt {w : Word} (h : fpFinite w) : |fpValue w| < (2 : ℚ) ^ (128 : ℤ) := by
  have hscale := (fpScale_bounds h).2
  have hsig : (fpSignificand w : ℚ) < 2 ^ (24 : ℤ) := by exact_mod_cast fpSignificand_lt w
  rw [fpValue_abs, show (128 : ℤ) = 24 + 104 by norm_num, zpow_add₀ two_ne_zero]
  exact mul_lt_mul_of_lt_of_le_of_nonneg_of_pos hsig (zpow_le_zpow_right₀ one_le_two hscale) (by positivity)
    (by positivity)

theorem fpSignificand_eq_zero_iff (w : Word) : fpSignificand w = 0 ↔ fpIsZero w = true := by
  rw [fpIsZero_iff]
  unfold fpSignificand
  split <;> omega

theorem fpValue_eq_zero_iff (w : Word) : fpValue w = 0 ↔ fpIsZero w = true := by
  have hpos : (2 : ℚ) ^ fpScale w ≠ 0 := by positivity
  rw [← abs_eq_zero, fpValue_abs, mul_eq_zero, or_iff_left hpos, Nat.cast_eq_zero, fpSignificand_eq_zero_iff]

/-- A datum that is neither zero nor denormalized has all 24 bits. -/
theorem fpSignificand_normal {w : Word} (hd : fpIsDenormal w = false) (h0 : fpIsZero w = false) :
    2 ^ 23 ≤ fpSignificand w := by
  rw [fpIsDenormal_eq_false_iff] at hd
  have hz := mt (fpIsZero_iff w).mpr (by simp [h0])
  unfold fpSignificand
  split <;> omega

/-- A signed magnitude in units of a power of two. -/
def signedUnits (neg : Bool) (mant k : ℕ) : ℤ := (if neg then -1 else 1) * (mant * 2 ^ k : ℕ)

theorem signedUnits_mul (neg : Bool) (mant : ℕ) {k : ℕ} {e e' : ℤ} (hk : (k : ℤ) = e' - e) :
    (signedUnits neg mant k : ℚ) * 2 ^ e = signedBy neg ((mant : ℚ) * 2 ^ e') := by
  rw [show e' = (k : ℤ) + e by omega, zpow_add₀ two_ne_zero, zpow_natCast, signedUnits]
  cases neg
  · rw [if_neg Bool.false_ne_true, signedBy_false]
    push_cast
    ring
  · rw [if_pos rfl, signedBy_true]
    push_cast
    ring

/-- The sign of an exact sum of zero. -/
theorem zeroSign_eq (rn : BitVec 2) {n1 n2 : Bool} {m1 m2 k1 k2 : ℕ}
    (h : signedUnits n1 m1 k1 + signedUnits n2 m2 k2 = 0) :
    (if m1 = 0 && m2 = 0 && n1 == n2 then n1 else rn.toNat == 3) = zeroSumSign rn n1 n2 := by
  unfold zeroSumSign
  by_cases hn : n1 = n2
  · have hsum : m1 * 2 ^ k1 + m2 * 2 ^ k2 = 0 := by
      subst hn
      unfold signedUnits at h
      cases n1
      · rw [if_neg Bool.false_ne_true] at h
        omega
      · rw [if_pos rfl] at h
        omega
    obtain ⟨h1, h2⟩ := Nat.add_eq_zero_iff.mp hsum
    have hm1 : m1 = 0 := (Nat.mul_eq_zero.mp h1).resolve_right (Nat.two_pow_pos k1).ne'
    have hm2 : m2 = 0 := (Nat.mul_eq_zero.mp h2).resolve_right (Nat.two_pow_pos k2).ne'
    simp [hn, hm1, hm2]
  · rw [if_neg (by simp [hn]), if_neg hn]
    revert rn
    decide

/-- The exact sum of two signed magnitudes. -/
theorem sumRaw_gives (rn : BitVec 2) (n1 n2 : Bool) (m1 m2 : ℕ) (e1 e2 : ℤ) {v1 v2 : ℚ}
    (h1 : v1 = signedBy n1 ((m1 : ℚ) * 2 ^ e1)) (h2 : v2 = signedBy n2 ((m2 : ℚ) * 2 ^ e2))
    (hbound : |v1| + |v2| < (2 : ℚ) ^ (300 : ℤ)) :
    GivesExactly (sumRaw rn n1 m1 e1 n2 m2 e2) (v1 + v2) (zeroSumSign rn n1 n2) := by
  set e := min e1 e2 with he
  set k1 := (e1 - e).toNat with hk1
  set k2 := (e2 - e).toNat with hk2
  set x := signedUnits n1 m1 k1 + signedUnits n2 m2 k2 with hx
  have hunfold : sumRaw rn n1 m1 e1 n2 m2 e2 =
      if x = 0 then exactRaw (fpZero (if m1 = 0 && m2 = 0 && n1 == n2 then n1 else rn.toNat == 3))
      else realRaw (decide (x < 0)) x.natAbs e false := rfl
  have hsum : v1 + v2 = (x : ℚ) * 2 ^ e := by
    rw [h1, h2, ← signedUnits_mul n1 m1 (k := k1) (e := e) (by omega), ← signedUnits_mul n2 m2 (k := k2) (e := e) (by omega),
      hx, Int.cast_add, add_mul]
  rw [hunfold]
  by_cases hzero : x = 0
  · rw [if_pos hzero, hsum, hzero, Int.cast_zero, zero_mul, zeroSign_eq rn (hx.symm.trans hzero)]
    exact .zero _
  · rw [if_neg hzero]
    have hvalue : v1 + v2 = signedBy (decide (x < 0)) ((x.natAbs : ℚ) * 2 ^ e) := by
      rw [hsum, Nat.cast_natAbs, Int.cast_abs]
      by_cases hneg : x < 0
      · rw [decide_eq_true hneg, signedBy_true, abs_of_neg (by exact_mod_cast hneg)]
        ring
      · rw [decide_eq_false hneg, signedBy_false, abs_of_nonneg (by exact_mod_cast not_lt.mp hneg)]
    have habs : |v1 + v2| = (x.natAbs : ℚ) * 2 ^ e := by
      rw [hvalue, abs_signedBy, abs_of_nonneg (by positivity)]
    rw [hvalue]
    refine .real _ rfl (Int.natAbs_pos.mpr hzero) (fun h => Bool.noConfusion h) ?_
    rw [← habs]
    exact (abs_add_le v1 v2).trans_lt hbound

/-- Two terms within 2^256 have a sum within the bound. -/
theorem add_lt_bound {v1 v2 : ℚ} (h1 : v1 < (2 : ℚ) ^ (256 : ℤ)) (h2 : v2 < (2 : ℚ) ^ (128 : ℤ)) :
    v1 + v2 < (2 : ℚ) ^ (300 : ℤ) := by
  have hmono {m n : ℤ} (h : m ≤ n) := zpow_le_zpow_right₀ (one_le_two (α := ℚ)) h
  have hdouble : (2 : ℚ) ^ (257 : ℤ) = 2 * 2 ^ (256 : ℤ) := by
    rw [show (257 : ℤ) = 256 + 1 by norm_num, zpow_add_one₀ two_ne_zero, mul_comm]
  refine (add_lt_add h1 (h2.trans_le (hmono (show (128 : ℤ) ≤ 256 by decide)))).trans_le ?_
  rw [← two_mul, ← hdouble]
  exact hmono (by decide)

section
variable {rn : BitVec 2} {a b c : Word} (ha : fpFinite a) (hb : fpFinite b) (hc : fpFinite c)

theorem fpValue_fpNegate (w : Word) : fpValue (fpNegate w) = -fpValue w := by
  rw [fpValue_eq_signedBy, fpValue_eq_signedBy, fpNeg_fpNegate]
  simp only [fpSignificand, fpScale, fpExp_fpNegate, fpFrac_fpNegate]
  cases fpNeg w <;> simp

theorem fpFinite_fpNegate {w : Word} (h : fpFinite w) : fpFinite (fpNegate w) := by
  unfold fpFinite at h ⊢
  rwa [fpExp_fpNegate]

/-- The product of two data as a signed magnitude. -/
theorem fpValue_mul (a c : Word) : fpValue a * fpValue c =
    signedBy (fpNeg a != fpNeg c) (((fpSignificand a * fpSignificand c : ℕ) : ℚ) * 2 ^ (fpScale a + fpScale c)) := by
  rw [fpValue_eq_signedBy a, fpValue_eq_signedBy c, zpow_add₀ two_ne_zero, Nat.cast_mul]
  cases fpNeg a <;> cases fpNeg c <;> simp only [signedBy_false, signedBy_true, Bool.bne_false, Bool.bne_true,
    Bool.not_false, Bool.not_true] <;> ring

/-- The quotient of two data as a signed magnitude, fifty bits of it before the point. -/
theorem fpValue_div (a b : Word) : fpValue a / fpValue b = signedBy (fpNeg a != fpNeg b)
    (((fpSignificand a * 2 ^ 50 : ℕ) : ℚ) / (fpSignificand b : ℚ) * 2 ^ (fpScale a - fpScale b - 50)) := by
  rw [fpValue_eq_signedBy a, fpValue_eq_signedBy b, zpow_sub₀ two_ne_zero, zpow_sub₀ two_ne_zero]
  rw [Nat.cast_mul, Nat.cast_pow, Nat.cast_ofNat]
  have hmag : (fpSignificand a : ℚ) * 2 ^ fpScale a / ((fpSignificand b : ℚ) * 2 ^ fpScale b) =
      (fpSignificand a : ℚ) * 2 ^ 50 / (fpSignificand b : ℚ) * (2 ^ fpScale a / 2 ^ fpScale b / 2 ^ (50 : ℤ)) := by
    rw [show (2 : ℚ) ^ (50 : ℤ) = 2 ^ 50 by norm_num]
    field_simp
  rw [← hmag]
  cases fpNeg a <;> cases fpNeg b <;> simp only [signedBy_false, signedBy_true, Bool.bne_false, Bool.bne_true,
    Bool.not_false, Bool.not_true, neg_div, div_neg, neg_neg]

include ha hc in
theorem fpValue_mul_abs_lt : |fpValue a * fpValue c| < (2 : ℚ) ^ (256 : ℤ) := by
  rw [abs_mul, show (256 : ℤ) = 128 + 128 by norm_num, zpow_add₀ two_ne_zero]
  exact mul_lt_mul'' (fpValue_abs_lt ha) (fpValue_abs_lt hc) (abs_nonneg _) (abs_nonneg _)

include ha hb in
theorem addRaw_gives : GivesExactly (addRaw rn a b) (fpValue a + fpValue b) (zeroSumSign rn (fpNeg a) (fpNeg b)) := by
  obtain ⟨hna, hia⟩ := not_special_of_finite ha
  obtain ⟨hnb, hib⟩ := not_special_of_finite hb
  have hraw : addRaw rn a b =
      sumRaw rn (fpNeg a) (fpSignificand a) (fpScale a) (fpNeg b) (fpSignificand b) (fpScale b) := by
    simp [addRaw, hna, hia, hnb, hib]
  rw [hraw]
  refine sumRaw_gives rn _ _ _ _ _ _ (fpValue_eq_signedBy a) (fpValue_eq_signedBy b) ?_
  exact add_lt_bound ((fpValue_abs_lt ha).trans (by norm_num)) (fpValue_abs_lt hb)

include ha hb in
theorem subRaw_gives : GivesExactly (subRaw rn a b) (fpValue a - fpValue b) (zeroSumSign rn (fpNeg a) (!fpNeg b)) := by
  have hgives := addRaw_gives (rn := rn) ha (fpFinite_fpNegate hb)
  rw [fpValue_fpNegate, fpNeg_fpNegate, ← sub_eq_add_neg] at hgives
  rwa [subRaw, negateOperand_number (not_special_of_finite hb).1]

include ha hb hc in
theorem maddRaw_gives : GivesExactly (maddRaw rn a c b) (fpValue a * fpValue c + fpValue b)
    (zeroSumSign rn (fpNeg a != fpNeg c) (fpNeg b)) := by
  obtain ⟨hna, hia⟩ := not_special_of_finite ha
  obtain ⟨hnb, hib⟩ := not_special_of_finite hb
  obtain ⟨hnc, hic⟩ := not_special_of_finite hc
  have hraw : maddRaw rn a c b = sumRaw rn (fpNeg a != fpNeg c) (fpSignificand a * fpSignificand c)
      (fpScale a + fpScale c) (fpNeg b) (fpSignificand b) (fpScale b) := by
    simp [maddRaw, hna, hia, hnb, hib, hnc, hic]
  rw [hraw]
  refine sumRaw_gives rn _ _ _ _ _ _ (fpValue_mul a c) (fpValue_eq_signedBy b) ?_
  exact add_lt_bound (fpValue_mul_abs_lt ha hc) (fpValue_abs_lt hb)

include ha hb hc in
theorem msubRaw_gives : GivesExactly (msubRaw rn a c b) (fpValue a * fpValue c - fpValue b)
    (zeroSumSign rn (fpNeg a != fpNeg c) (!fpNeg b)) := by
  have hgives := maddRaw_gives (rn := rn) ha (fpFinite_fpNegate hb) hc
  rw [fpValue_fpNegate, fpNeg_fpNegate, ← sub_eq_add_neg] at hgives
  rwa [msubRaw, negateOperand_number (not_special_of_finite hb).1]

include ha hc in
theorem mulRaw_gives : GivesExactly (mulRaw a c) (fpValue a * fpValue c) (fpNeg a != fpNeg c) := by
  obtain ⟨hna, hia⟩ := not_special_of_finite ha
  obtain ⟨hnc, hic⟩ := not_special_of_finite hc
  cases hz : fpIsZero a || fpIsZero c
  · rw [Bool.or_eq_false_iff] at hz
    have hraw : mulRaw a c = 
        realRaw (fpNeg a != fpNeg c) (fpSignificand a * fpSignificand c) (fpScale a + fpScale c) false := by
      simp [mulRaw, realRaw, hna, hia, hnc, hic, hz.1, hz.2]
    have hpos {w : Word} (h : fpIsZero w = false) : 0 < fpSignificand w :=
      Nat.pos_of_ne_zero (mt (fpSignificand_eq_zero_iff w).mp (by simp [h]))
    have hbound := fpValue_mul_abs_lt ha hc
    rw [fpValue_mul, abs_signedBy, abs_of_nonneg (by positivity)] at hbound
    rw [hraw, fpValue_mul]
    refine .real _ rfl (Nat.mul_pos (hpos hz.1) (hpos hz.2)) (fun h => Bool.noConfusion h) (hbound.trans ?_)
    exact zpow_lt_zpow_right₀ one_lt_two (by decide)
  · have hraw : mulRaw a c = exactRaw (fpZero (fpNeg a != fpNeg c)) := by
      simp only [mulRaw, hna, hia, hnc, hic, hz]
      simp
    have hvalue : fpValue a * fpValue c = 0 := by
      rw [Bool.or_eq_true, ← fpValue_eq_zero_iff, ← fpValue_eq_zero_iff] at hz
      exact mul_eq_zero.mpr hz
    rw [hraw, hvalue]
    exact .zero _

/-- Quotient and sticky part of a division. -/
theorem quotient_spans (n : ℕ) {d : ℕ} (hd : 0 < d) (e : ℤ) :
    FpSpans (n / d) e (n % d != 0) ((n : ℚ) / (d : ℚ) * 2 ^ e) := by
  have hp : (0 : ℚ) < 2 ^ e := by positivity
  have hdq : (0 : ℚ) < d := by exact_mod_cast hd
  have hdiv : (n : ℚ) = d * ((n / d : ℕ) : ℚ) + ((n % d : ℕ) : ℚ) := by exact_mod_cast (Nat.div_add_mod n d).symm
  have hrem : ((n % d : ℕ) : ℚ) < d := by exact_mod_cast Nat.mod_lt n hd
  unfold FpSpans
  by_cases hr : n % d = 0
  · rw [hr, if_neg (by simp)]
    rw [hr, Nat.cast_zero, add_zero] at hdiv
    rw [hdiv, mul_div_cancel_left₀ _ hdq.ne']
  · have hpos : (0 : ℚ) < ((n % d : ℕ) : ℚ) := by exact_mod_cast Nat.pos_of_ne_zero hr
    rw [if_pos (bne_iff_ne.mpr hr)]
    refine ⟨mul_lt_mul_of_pos_right ?_ hp, mul_lt_mul_of_pos_right ?_ hp⟩
    · rw [lt_div_iff₀ hdq]
      linarith
    · rw [div_lt_iff₀ hdq]
      linarith

include ha hb in
/-- A quotient is cut to at least 24 bits with a sticky part. -/
theorem divRaw_gives (hda : fpIsDenormal a = false) (hdb : fpIsDenormal b = false) (hb0 : fpValue b ≠ 0) :
    GivesExactly (divRaw a b) (fpValue a / fpValue b) (fpNeg a != fpNeg b) := by
  obtain ⟨hna, hia⟩ := not_special_of_finite ha
  obtain ⟨hnb, hib⟩ := not_special_of_finite hb
  have hzb : fpIsZero b = false := Bool.eq_false_of_not_eq_true fun h => hb0 ((fpValue_eq_zero_iff b).mpr h)
  cases hza : fpIsZero a
  · have hraw : divRaw a b = 
        realRaw (fpNeg a != fpNeg b) (fpSignificand a * 2 ^ 50 / fpSignificand b) (fpScale a - fpScale b - 50)
          (fpSignificand a * 2 ^ 50 % fpSignificand b != 0) := by
      simp [divRaw, realRaw, hna, hia, hnb, hib, hza, hzb]
    have hsa := fpSignificand_normal hda hza
    have hsb := fpSignificand_normal hdb hzb
    have hsb' := fpSignificand_lt b
    have hmant : 2 ^ 24 ≤ fpSignificand a * 2 ^ 50 / fpSignificand b := by
      rw [Nat.le_div_iff_mul_le (by omega)]
      calc 2 ^ 24 * fpSignificand b ≤ 2 ^ 24 * 2 ^ 24 := Nat.mul_le_mul_left _ hsb'.le
        _ ≤ 2 ^ 23 * 2 ^ 50 := by norm_num
        _ ≤ fpSignificand a * 2 ^ 50 := Nat.mul_le_mul_right _ hsa
    have hexp : fpScale a - fpScale b - 50 ≤ 203 := by
      have hsa := (fpScale_bounds ha).2
      have hsb := (fpScale_bounds hb).1
      omega
    rw [hraw, fpValue_div]
    refine .real _ (quotient_spans _ (by omega) _) (by omega) (fun _ => hmant) ?_
    have hnum : ((fpSignificand a * 2 ^ 50 : ℕ) : ℚ) / (fpSignificand b : ℚ) < 2 ^ (74 : ℤ) := by
      have hone : (1 : ℚ) ≤ fpSignificand b := by exact_mod_cast (by omega : 1 ≤ fpSignificand b)
      have hlt : fpSignificand a * 2 ^ 50 < 2 ^ 74 := by
        have hsa' := fpSignificand_lt a
        omega
      have hlt' : ((fpSignificand a * 2 ^ 50 : ℕ) : ℚ) < 2 ^ (74 : ℤ) := by exact_mod_cast hlt
      exact (div_le_self (Nat.cast_nonneg _) hone).trans_lt hlt'
    calc _ < (2 : ℚ) ^ (74 : ℤ) * 2 ^ (203 : ℤ) := mul_lt_mul_of_lt_of_le_of_nonneg_of_pos hnum
          (zpow_le_zpow_right₀ one_le_two hexp) (by positivity) (by positivity)
      _ = 2 ^ (277 : ℤ) := by rw [← zpow_add₀ two_ne_zero]; rfl
      _ ≤ 2 ^ (300 : ℤ) := zpow_le_zpow_right₀ one_le_two (by decide)
  · have hraw : divRaw a b = exactRaw (fpZero (fpNeg a != fpNeg b)) := by
      simp [divRaw, hna, hia, hnb, hib, hza, hzb]
    rw [hraw, (fpValue_eq_zero_iff a).mpr hza, zero_div]
    exact .zero _

end

/- What `deliverRaw` does with an exact real (spec/42_floating_point.md R404, R405, R410). -/

section
variable {s : State} (hni : ibmBit s.fpscr 29 = false) (frD : Reg) (rc negate : Bool) (a b c : Word) {neg sticky : Bool}
  {mant : ℕ} {exp : ℤ}

include hni in
theorem deliverRaw_tiny (htiny : fpTiny mant exp = true) :
    deliverRaw s frD rc negate a b c (realRaw neg mant exp sticky) = raise .emulation 0 s := by
  unfold deliverRaw realRaw
  simp only [bne_self_eq_false, Bool.false_eq_true, if_false, htiny, if_true, niResult_ieee hni]

variable (htiny : fpTiny mant exp = false)
include htiny

theorem deliverRaw_normal (hover : fpOverflows (roundMagnitude (fpRn s.fpscr) neg mant exp sticky) = false) :
    FloatDelivers (deliverRaw s frD rc negate a b c (realRaw neg mant exp sticky)) s frD rc
      (negateResult negate (packNormal neg (roundMagnitude (fpRn s.fpscr) neg mant exp sticky)))
      (maskIf (roundMagnitude (fpRn s.fpscr) neg mant exp sticky).inexact fpXX)
      (roundMagnitude (fpRn s.fpscr) neg mant exp sticky).up
      (roundMagnitude (fpRn s.fpscr) neg mant exp sticky).inexact := by
  unfold deliverRaw realRaw
  simp only [bne_self_eq_false, Bool.false_eq_true, if_false, htiny, hover, Bool.not_false, if_true]
  generalize roundMagnitude (fpRn s.fpscr) neg mant exp sticky = z
  have hsticky : (if z.inexact then fpSetSticky fpXX s.fpscr else s.fpscr) =
      fpSetSticky (maskIf z.inexact fpXX) s.fpscr := by
    cases z.inexact
    · exact (fpSetSticky_zero s.fpscr).symm
    · rfl
  rw [hsticky]
  exact deliverFp_delivers (outside_maskIf _ (by decide)) frD rc _ _ _

variable (hover : fpOverflows (roundMagnitude (fpRn s.fpscr) neg mant exp sticky) = true)
include hover

theorem deliverRaw_overflow_enabled (hoe : ibmBit s.fpscr 25 = true) :
    FloatDelivers (deliverRaw s frD rc negate a b c (realRaw neg mant exp sticky)) s frD rc
      (negateResult negate (packNormal neg (roundMagnitude (fpRn s.fpscr) neg mant (exp - 192) sticky)))
      (fpOX ||| maskIf (roundMagnitude (fpRn s.fpscr) neg mant (exp - 192) sticky).inexact fpXX)
      (roundMagnitude (fpRn s.fpscr) neg mant (exp - 192) sticky).up
      (roundMagnitude (fpRn s.fpscr) neg mant (exp - 192) sticky).inexact := by
  unfold deliverRaw realRaw
  simp only [bne_self_eq_false, Bool.false_eq_true, if_false, htiny, hover, Bool.not_true, fpBit_oe, hoe, if_true]
  exact deliverFp_delivers (outside_or (by decide) (outside_maskIf _ (by decide))) frD rc _ _ _

include hni in
theorem deliverRaw_overflow (hoe : ibmBit s.fpscr 25 = false) :
    FloatDelivers (deliverRaw s frD rc negate a b c (realRaw neg mant exp sticky)) s frD rc
      (negateResult negate (overflowResult (fpRn s.fpscr) neg)) (fpOX ||| fpXX) (s.drawBit .overflowFr) true := by
  unfold deliverRaw realRaw
  simp only [bne_self_eq_false, Bool.false_eq_true, if_false, htiny, hover, Bool.not_true, fpBit_oe, hoe,
    niResult_ieee hni]
  exact deliverFp_delivers (by decide) frD rc _ _ _

end

/-- A delivered number, its sign inverted where the instruction negates. -/
theorem FloatDelivers.negated {o : Out} {s : State} {frD : Reg} {rc negate fr fi : Bool} {w raised : Word}
    (h : FloatDelivers o s frD rc (negateResult negate w) raised fr fi) (hw : fpIsNan w = false) :
    ∃ u, FloatWrites s u frD (if negate then fpNegate w else w) true rc ∧
      FpscrAfter raised (some fr) (some fi) (some (fpClass (u.fprData frD))) s.fpscr u.fpscr ∧ EndsFloat o s u := by
  obtain ⟨u, hwrites, hafter, hends⟩ := h
  have hdata : u.fprData frD = negateResult negate w := hwrites.1
  rw [negateResult_number negate hw] at hwrites
  rw [← hdata] at hafter
  exact ⟨u, hwrites, hafter, hends⟩

/- The arithmetic instructions on finite operands. -/

/-- The instruction delivers the exact value `x` rounded once; `sign` is that of a zero. -/
def ComputesExactly (i : Instr) (s : State) (frD : Reg) (rc : Bool) (x : ℚ) (sign negated : Bool) : Prop :=
  ∃ a b c raw, exec i s = deliverRaw s frD rc negated a b c raw ∧ GivesExactly raw x sign

theorem fpValue_one : fpValue 0x3F800000 = 1 := by
  rw [fpValue_eq_signedBy, show fpNeg 0x3F800000 = false by decide, show fpSignificand 0x3F800000 = 2 ^ 23 by decide,
    show fpScale 0x3F800000 = -23 by decide]
  norm_num

theorem arithmetic_computesExactly {s : State} (frD : Reg) {frA frB frC : Reg} (rc : Bool)
    (hready : FpReady s [frA, frB, frC]) {a b c : Word} (ha : s.fprData frA = a) (hb : s.fprData frB = b)
    (hc : s.fprData frC = c) :
    ComputesExactly (.fadds frD frA frB rc) s frD rc (fpValue a + fpValue b)
      (zeroSumSign (fpRn s.fpscr) (fpNeg a) (fpNeg b)) false ∧
    ComputesExactly (.fsubs frD frA frB rc) s frD rc (fpValue a - fpValue b)
      (zeroSumSign (fpRn s.fpscr) (fpNeg a) (!fpNeg b)) false ∧
    ComputesExactly (.fmuls frD frA frC rc) s frD rc (fpValue a * fpValue c) (fpNeg a != fpNeg c) false ∧
    (fpValue b ≠ 0 →
      ComputesExactly (.fdivs frD frA frB rc) s frD rc (fpValue a / fpValue b) (fpNeg a != fpNeg b) false) ∧
    (fpValue b ≠ 0 → ComputesExactly (.fres frD frB rc) s frD rc (1 / fpValue b) (fpNeg b) false) ∧
    ComputesExactly (.fmadds frD frA frB frC rc) s frD rc (fpValue a * fpValue c + fpValue b)
      (zeroSumSign (fpRn s.fpscr) (fpNeg a != fpNeg c) (fpNeg b)) false ∧
    ComputesExactly (.fmsubs frD frA frB frC rc) s frD rc (fpValue a * fpValue c - fpValue b)
      (zeroSumSign (fpRn s.fpscr) (fpNeg a != fpNeg c) (!fpNeg b)) false ∧
    ComputesExactly (.fnmadds frD frA frB frC rc) s frD rc (fpValue a * fpValue c + fpValue b)
      (zeroSumSign (fpRn s.fpscr) (fpNeg a != fpNeg c) (fpNeg b)) true ∧
    ComputesExactly (.fnmsubs frD frA frB frC rc) s frD rc (fpValue a * fpValue c - fpValue b)
      (zeroSumSign (fpRn s.fpscr) (fpNeg a != fpNeg c) (!fpNeg b)) true := by
  have hfp := hready.1
  have hsrc := hready.source
  have hsource {rs : List Reg} (h : ∀ r ∈ rs, r ∈ [frA, frB, frC]) : ∀ r ∈ rs, FpSource s r := fun r hr => hsrc r (h r hr)
  have hfinite (r : Reg) (hr : r ∈ [frA, frB, frC]) : fpFinite (s.fprData r) := (hready.2.2 r hr).2.1
  subst ha hb hc
  have ha := hfinite frA (by simp)
  have hb := hfinite frB (by simp)
  have hc := hfinite frC (by simp)
  have hda := (hsrc frA (by simp)).2
  have hdb := (hsrc frB (by simp)).2
  refine ⟨⟨_, _, _, _, exec_fadds hfp frD rc (hsource (by simp)), addRaw_gives ha hb⟩,
    ⟨_, _, _, _, exec_fsubs hfp frD rc (hsource (by simp)), subRaw_gives ha hb⟩,
    ⟨_, _, _, _, exec_fmuls hfp frD rc (hsource (by simp)), mulRaw_gives ha hc⟩,
    fun hb0 => ⟨_, _, _, _, exec_fdivs hfp frD rc (hsource (by simp)), divRaw_gives ha hb hda hdb hb0⟩,
    fun hb0 => ⟨_, _, _, _, exec_fres hfp frD rc (hsource (by simp)), ?_⟩,
    ⟨_, _, _, _, exec_fmadds hfp frD rc hsrc, maddRaw_gives ha hb hc⟩,
    ⟨_, _, _, _, exec_fmsubs hfp frD rc hsrc, msubRaw_gives ha hb hc⟩,
    ⟨_, _, _, _, exec_fnmadds hfp frD rc hsrc, maddRaw_gives ha hb hc⟩,
    ⟨_, _, _, _, exec_fnmsubs hfp frD rc hsrc, msubRaw_gives ha hb hc⟩⟩
  have hgives := divRaw_gives (a := 0x3F800000) (by unfold fpFinite; decide) hb (by decide) hdb hb0
  rwa [fpValue_one, fpNeg_one, Bool.false_bne] at hgives

section
variable {i : Instr} {s : State} {frD : Reg} {rc sign negated : Bool} {x : ℚ}
  (h : ComputesExactly i s frD rc x sign negated) (hni : ibmBit s.fpscr 29 = false)
include h

/-- A value in range is rounded correctly, and FI, FR and XX say how. -/
theorem ComputesExactly.delivers (hrange : x = 0 ∨ (2 : ℚ) ^ (-126 : ℤ) ≤ |x|)
    (hbeyond : ¬RoundsBeyond (s.fpscr.extractLsb' 0 2) x) :
    ∃ u w, (if x = 0 then fpIsZero w = true ∧ fpNeg w = sign else RoundsTo (s.fpscr.extractLsb' 0 2) x w) ∧
      FloatWrites s u frD (if negated then fpNegate w else w) true rc ∧
      FpscrAfter (if fpValue w = x then 0 else fpXX) (some (decide (|x| < |fpValue w|))) (some (decide (fpValue w ≠ x)))
        (some (fpClass (u.fprData frD))) s.fpscr u.fpscr ∧ EndsFloat (exec i s) s u := by
  obtain ⟨a, b, c, raw, hexec, hgives⟩ := h
  rw [hexec]
  cases hgives with
  | zero =>
    have hzero : fpIsZero (fpZero sign) = true ∧ fpNeg (fpZero sign) = sign := by cases sign <;> decide
    have hvalue := (fpValue_eq_zero_iff _).mpr hzero.1
    have hdelivers := deliverRaw_exact frD rc negated a b c (fpZero sign) (s := s)
    obtain ⟨u, hwrites, hafter, hends⟩ := hdelivers.negated (not_nan_of_zero hzero.1).1
    refine ⟨u, fpZero sign, by rw [if_pos rfl]; exact hzero, hwrites, ?_, hends⟩
    simpa [hvalue] using hafter
  | @real neg mant exp sticky y _ hspans hpos hsticky hbound =>
    obtain ⟨q, e, t, hround⟩ := roundMagnitude_rounding (fpRn s.fpscr) neg hspans hpos hsticky
    have hne : signedBy neg y ≠ 0 := by
      rw [← abs_ne_zero, abs_signedBy, abs_of_pos hround.pos]
      exact hround.pos.ne'
    have hlarge := hrange.resolve_left hne
    rw [abs_signedBy, abs_of_pos hround.pos] at hlarge
    have htiny : fpTiny mant exp = false :=
      Bool.eq_false_of_not_eq_true fun ht => hlarge.not_gt ((fpTiny_iff hspans hpos).mp ht)
    have hover := Bool.eq_false_of_not_eq_true (mt hround.overflows_iff.mp hbeyond)
    have hdelivers := deliverRaw_normal frD rc negated a b c htiny hover
    generalize roundMagnitude (fpRn s.fpscr) neg mant exp sticky = z at hround hover hdelivers
    have hexp : -149 ≤ z.exp ∧ z.exp ≤ 104 := by
      have hlow : -126 < e + 24 := (zpow_lt_zpow_iff_right₀ one_lt_two).mp (hlarge.trans_lt hround.bounds.2)
      have hexp := hround.exp_bounds
      unfold fpOverflows at hover
      rw [decide_eq_false_iff_not] at hover
      omega
    obtain ⟨hrounds, hup, hinexact⟩ := hround.packed hexp
    obtain ⟨u, hwrites, hafter, hends⟩ := hdelivers.negated (not_special_of_finite (fpFinite_packNormal neg hexp)).1
    have hraised : maskIf z.inexact fpXX = if fpValue (packNormal neg z) = signedBy neg y then 0 else fpXX := by
      rw [hinexact]
      by_cases he : fpValue (packNormal neg z) = signedBy neg y <;> simp [maskIf, he]
    rw [hraised, hup, hinexact] at hafter
    exact ⟨u, packNormal neg z, by rw [if_neg hne]; exact hrounds, hwrites, hafter, hends⟩

include hni

/-- A tiny value takes the emulation trap. -/
theorem ComputesExactly.traps (hne : x ≠ 0) (htiny : |x| < (2 : ℚ) ^ (-126 : ℤ)) :
    Raises (exec i s) .emulation 0 s := by
  obtain ⟨a, b, c, raw, hexec, hgives⟩ := h
  rw [hexec]
  cases hgives with
  | zero => exact absurd rfl hne
  | @real neg mant exp sticky y _ hspans hpos hsticky hbound =>
    have hnonneg : 0 ≤ y := le_trans (by positivity) hspans.le
    rw [abs_signedBy, abs_of_nonneg hnonneg] at htiny
    exact deliverRaw_tiny hni frD rc negated a b c ((fpTiny_iff hspans hpos).mpr htiny)

end

theorem not_roundsBeyond_zero (rn : BitVec 2) : ¬RoundsBeyond rn 0 := by
  have hlargest := fpLargest_eq
  rcases rn_cases rn with rfl | rfl | rfl | rfl
  · change ¬(2 : ℚ) ^ 128 - 2 ^ 103 ≤ |0|
    norm_num
  · change ¬(2 : ℚ) ^ 128 ≤ |0|
    norm_num
  · change ¬(fpLargest < 0 ∨ 0 ≤ -(2 : ℚ) ^ 128)
    rw [hlargest]
    norm_num
  · change ¬((2 : ℚ) ^ 128 ≤ 0 ∨ 0 < -fpLargest)
    rw [hlargest]
    norm_num

/-- The untrapped overflow result by RN and the sign of the value. -/
theorem overflowResult_eq (rn : BitVec 2) (neg : Bool) {y : ℚ} (hy : 0 < y) :
    overflowResult rn neg =
      if 0 < signedBy neg y then (if rn = 0 ∨ rn = 2 then 0x7F800000 else 0x7F7FFFFF)
      else (if rn = 0 ∨ rn = 3 then 0xFF800000 else 0xFF7FFFFF) := by
  cases neg
  · rw [signedBy_false, if_pos hy]
    revert rn
    decide
  · rw [signedBy_true, if_neg (by linarith)]
    revert rn
    decide

theorem fpIsNan_overflowResult : ∀ (rn : BitVec 2) (neg : Bool), fpIsNan (overflowResult rn neg) = false := by decide

/-- A value scaled by 2^-192 on overflow has a rounded magnitude in the normalized range. -/
theorem FpRounding.scaled_exp {rn : BitVec 2} {neg : Bool} {y : ℚ} {z : FpRounded} {q : ℕ} {e : ℤ} {t : ℚ}
    (h : FpRounding rn neg (y * (2 : ℚ) ^ (-192 : ℤ)) z q e t) (hlarge : fpLargest < y)
    (hbound : y < (2 : ℚ) ^ (300 : ℤ)) : -149 ≤ z.exp ∧ z.exp ≤ 104 := by
  have hscale {k m : ℤ} (hk : k + -192 = m) : (2 : ℚ) ^ k * 2 ^ (-192 : ℤ) = 2 ^ m := by
    rw [← zpow_add₀ two_ne_zero, hk]
  have hp : (0 : ℚ) < 2 ^ (-192 : ℤ) := by positivity
  have hhigh : (127 : ℤ) + -192 < e + 24 := by
    have hge : (2 : ℚ) ^ (127 : ℤ) < y := lt_of_le_of_lt (by rw [fpLargest_eq]; norm_num) hlarge
    have hlt := (mul_lt_mul_of_pos_right hge hp).trans h.bounds.2
    rw [hscale rfl] at hlt
    exact (zpow_lt_zpow_iff_right₀ one_lt_two).mp hlt
  have hlow : e + 23 < 300 + -192 := by
    have hlt := h.bounds.1.trans_lt (mul_lt_mul_of_pos_right hbound hp)
    rw [hscale rfl] at hlt
    exact (zpow_lt_zpow_iff_right₀ one_lt_two).mp hlt
  have hexp := h.exp_bounds
  omega

/-- A value that rounds beyond the largest datum overflows, by OE. -/
theorem ComputesExactly.overflows {i : Instr} {s : State} {frD : Reg} {rc sign negated : Bool} {x : ℚ}
    (h : ComputesExactly i s frD rc x sign negated) (hni : ibmBit s.fpscr 29 = false)
    (hbeyond : RoundsBeyond (s.fpscr.extractLsb' 0 2) x) :
    ∃ u w fr fi, FloatWrites s u frD (if negated then fpNegate w else w) true rc ∧
      (ibmBit s.fpscr 25 = false →
        w = (if 0 < x then
            (if s.fpscr.extractLsb' 0 2 = 0 ∨ s.fpscr.extractLsb' 0 2 = 2 then 0x7F800000 else 0x7F7FFFFF)
          else (if s.fpscr.extractLsb' 0 2 = 0 ∨ s.fpscr.extractLsb' 0 2 = 3 then 0xFF800000 else 0xFF7FFFFF)) ∧
        fi = true) ∧
      (ibmBit s.fpscr 25 = true → RoundsTo (s.fpscr.extractLsb' 0 2) (x / 2 ^ 192) w ∧
        fi = decide (fpValue w ≠ x / 2 ^ 192) ∧ fr = decide (|x / 2 ^ 192| < |fpValue w|)) ∧
      FpscrAfter (fpOX ||| if fi then fpXX else 0) (some fr) (some fi) (some (fpClass (u.fprData frD))) s.fpscr u.fpscr ∧
      EndsFloat (exec i s) s u := by
  obtain ⟨a, b, c, raw, hexec, hgives⟩ := h
  rw [hexec]
  cases hgives with
  | zero => exact absurd hbeyond (not_roundsBeyond_zero _)
  | @real neg mant exp sticky y _ hspans hpos hsticky hbound =>
    obtain ⟨q, e, t, hround⟩ := roundMagnitude_rounding (fpRn s.fpscr) neg hspans hpos hsticky
    have hlarge : fpLargest < y := not_le.mp fun hle => not_roundsBeyond_of_le hround.pos hle _ neg hbeyond
    have htiny : fpTiny mant exp = false := by
      refine Bool.eq_false_of_not_eq_true fun ht => absurd ((fpTiny_iff hspans hpos).mp ht) (not_lt.mpr ?_)
      exact le_trans (by rw [fpLargest_eq]; norm_num) hlarge.le
    have hover := hround.overflows_iff.mpr hbeyond
    cases hoe : ibmBit s.fpscr 25
    · obtain ⟨u, hwrites, hafter, hends⟩ :=
        (deliverRaw_overflow hni frD rc negated a b c htiny hover hoe).negated (fpIsNan_overflowResult _ neg)
      exact ⟨u, _, _, true, hwrites, fun _ => ⟨overflowResult_eq _ neg hround.pos, rfl⟩, fun hne => Bool.noConfusion hne,
        hafter, hends⟩
    · have hdelivers := deliverRaw_overflow_enabled frD rc negated a b c htiny hover hoe
      obtain ⟨q', e', t', hround'⟩ := roundMagnitude_rounding (fpRn s.fpscr) neg (hspans.scale (-192)) hpos hsticky
      rw [← sub_eq_add_neg] at hround'
      generalize roundMagnitude (fpRn s.fpscr) neg mant (exp - 192) sticky = z at hround' hdelivers
      have hexp := hround'.scaled_exp hlarge hbound
      have hx : signedBy neg y / 2 ^ 192 = signedBy neg (y * (2 : ℚ) ^ (-192 : ℤ)) := by
        have hinv : (2 : ℚ) ^ (-192 : ℤ) = (2 ^ 192)⁻¹ := by norm_num
        rw [hinv, ← div_eq_mul_inv]
        cases neg
        · rfl
        · exact neg_div _ _
      obtain ⟨hrounds, hup, hinexact⟩ := hround'.packed hexp
      obtain ⟨u, hwrites, hafter, hends⟩ := hdelivers.negated (not_special_of_finite (fpFinite_packNormal neg hexp)).1
      rw [← hx] at hrounds hup hinexact
      exact ⟨u, packNormal neg z, z.up, z.inexact, hwrites, fun hne => Bool.noConfusion hne,
        fun _ => ⟨hrounds, hinexact, hup⟩, hafter, hends⟩

/-- Settles O13: each instruction comes to `deliverRaw` with the exact result, which is rounded once. -/
theorem floatArithmetic : Obligations.FloatArithmetic := by
  intro s frD frA frB frC rc hready a b c rn na nb nc delivers
  obtain ⟨hadd, hsub, hmul, hdiv, hres, hmadd, hmsub, hnmadd, hnmsub⟩ :=
    arithmetic_computesExactly frD rc hready rfl rfl rfl
  exact ⟨hadd.delivers, hsub.delivers, hmul.delivers, fun hb => (hdiv hb).delivers, fun hb => (hres hb).delivers,
    hmadd.delivers, hmsub.delivers, hnmadd.delivers, hnmsub.delivers⟩

/-- `frsp` of a denormalized datum traps, whatever the policy on such operands. -/
theorem frsp_denormal {s : State} {frB : Reg} (frD : Reg) (rc : Bool) (hfp : s.msrBit msrFP = true)
    (hni : ibmBit s.fpscr 29 = false) (hsingle : s.isSingle frB = true) (hd : fpIsDenormal (s.fprData frB) = true) :
    exec (.frsp frD frB rc) s = raise .emulation 0 s := by
  have hexp : fpExp (s.fprData frB) = 0 := by
    unfold fpIsDenormal at hd
    simp only [Bool.and_eq_true, beq_iff_eq] at hd
    exact hd.1
  have hnan : fpIsNan (s.fprData frB) = false := (not_special_of_finite (by unfold fpFinite; omega)).1
  have hrounded : deliverRounded s frD rc (s.fprData frB) = raise .emulation 0 s := by
    unfold deliverRounded
    simp only [fpIsSnan, hnan, hd, Bool.false_and, Bool.false_eq_true, if_false, if_true, niResult_ieee hni]
  have hsingles : guardSingles s [frB] = .ok () := guardSingles_all (List.forall_mem_singleton.mpr hsingle)
  have hguard : guardArith s [frB] = guardDenormal s [s.fprData frB] := by
    simp only [guardArith, guardFp, hfp, require_true, hsingles]
    rfl
  change proceed (guardArith s [frB]) _ = _
  rw [hguard, guardDenormal, if_pos (by simp [hd])]
  cases Config.denormPolicy
  · rfl
  · exact hrounded

/-- Settles O14: a tiny exact result, and `frsp` of a denormalized datum, take the emulation trap. -/
theorem floatTinyTraps : Obligations.FloatTinyTraps := by
  intro s frD frA frB frC rc traps
  refine ⟨fun ⟨hfp, hni, _⟩ hsingle hd => frsp_denormal frD rc hfp hni hsingle hd, fun hready => ?_⟩
  have hni := hready.2.1
  obtain ⟨hadd, hsub, hmul, hdiv, hres, hmadd, hmsub, hnmadd, hnmsub⟩ :=
    arithmetic_computesExactly frD rc hready rfl rfl rfl
  exact ⟨hadd.traps hni, hsub.traps hni, hmul.traps hni, fun hb => (hdiv hb).traps hni, fun hb => (hres hb).traps hni,
    hmadd.traps hni, hmsub.traps hni, hnmadd.traps hni, hnmsub.traps hni⟩

/-- Settles O15: a result that rounds beyond the largest datum, by OE. -/
theorem floatOverflow : Obligations.FloatOverflow := by
  intro s frD frA frB frC rc hready a b c rn limit overflows
  have hni := hready.2.1
  obtain ⟨hadd, hsub, hmul, hdiv, hres, hmadd, hmsub, hnmadd, hnmsub⟩ :=
    arithmetic_computesExactly frD rc hready rfl rfl rfl
  exact ⟨hadd.overflows hni, hsub.overflows hni, hmul.overflows hni, fun hb => (hdiv hb).overflows hni,
    fun hb => (hres hb).overflows hni, hmadd.overflows hni, hmsub.overflows hni, hnmadd.overflows hni,
    hnmsub.overflows hni⟩

end Sys2Proof.Machine

/-!
Accesses made in words (spec/20_memory.md R161): the words of doublewords and multiples, what their parts see, and what
their stores leave.
-/
namespace Sys2Proof.Machine

/- Words among bytes (spec/20_memory.md R150). -/

/-- The bytes of word `k` of a string of bytes. -/
def wordBytesAt (bs : List Byte) (k : Nat) : List Byte := (bs.drop (4 * k)).take 4

theorem wordBytesAt_append_zero {xs : List Byte} (h : xs.length = 4) (bs : List Byte) :
    wordBytesAt (xs ++ bs) 0 = xs := by
  simp [wordBytesAt, ← h]

theorem wordBytesAt_append_succ {xs : List Byte} (h : xs.length = 4) (bs : List Byte) (k : Nat) :
    wordBytesAt (xs ++ bs) (k + 1) = wordBytesAt bs k := by
  rw [wordBytesAt, List.drop_append, List.drop_eq_nil_of_le (by omega), h, List.nil_append,
    show 4 * (k + 1) - 4 = 4 * k by omega, wordBytesAt]

theorem wordBytesAt_map_range (f : Nat → Byte) {n k : Nat} (hk : k < n) :
    wordBytesAt ((List.range (4 * n)).map f) k = (List.range 4).map fun j => f (4 * k + j) := by
  apply List.ext_getElem
  · simp [wordBytesAt]
    omega
  · intro i _ _
    simp [wordBytesAt]

/-- The values of the first `n` words of a string of bytes. -/
def wordValues (bs : List Byte) (n : Nat) : List Word := (List.range n).map fun k => wordOfBE (wordBytesAt bs k)

@[simp] theorem wordValues_length (bs : List Byte) (n : Nat) : (wordValues bs n).length = n := by simp [wordValues]

theorem wordValues_append {xs : List Byte} (h : xs.length = 4) (bs : List Byte) (n : Nat) :
    wordValues (xs ++ bs) (n + 1) = wordOfBE xs :: wordValues bs n := by
  simp only [wordValues, List.range_succ_eq_map, List.map_cons, List.map_map, wordBytesAt_append_zero h]
  congr 1
  exact List.map_congr_left fun k _ => congrArg wordOfBE (wordBytesAt_append_succ h bs k)

theorem bigEndian_append (xs ys : List Byte) : bigEndian (xs ++ ys) = bigEndian xs * 256 ^ ys.length + bigEndian ys := by
  induction ys using List.reverseRecOn with
  | nil => simp [bigEndian]
  | append_singleton ys y ih =>
    have hlast (zs : List Byte) : bigEndian (zs ++ [y]) = 256 * bigEndian zs + y.toNat := by simp [bigEndian]
    rw [← List.append_assoc, hlast, hlast, ih, List.length_append, List.length_singleton, Nat.pow_succ]
    ring

theorem bigEndian_lt (bs : List Byte) : bigEndian bs < 256 ^ bs.length := by
  induction bs using List.reverseRecOn with
  | nil => simp [bigEndian]
  | append_singleton bs b ih =>
    have hb := b.isLt
    have hlast : bigEndian (bs ++ [b]) = 256 * bigEndian bs + b.toNat := by simp [bigEndian]
    rw [hlast, List.length_append, List.length_singleton, Nat.pow_succ]
    omega

theorem wordOfBE_toNat {bs : List Byte} (h : bs.length ≤ 4) : (wordOfBE bs).toNat = bigEndian bs := by
  have hlt : bigEndian bs < 256 ^ 4 := (bigEndian_lt bs).trans_le (Nat.pow_le_pow_right (by omega) h)
  rw [wordOfBE_eq, BitVec.toNat_ofNat, Nat.mod_eq_of_lt (by omega)]

/-- A doubleword of two words, the high one first. -/
theorem wordValues_doubleword {bs : List Byte} (h : bs.length = 8) :
    (wordValues bs 2).getD 0 0 ++ (wordValues bs 2).getD 1 0 = BitVec.ofNat 64 (bigEndian bs) := by
  have hsplit : bs = wordBytesAt bs 0 ++ wordBytesAt bs 1 := by
    have hlow : (bs.drop 4).take 4 = bs.drop 4 := List.take_of_length_le (by rw [List.length_drop]; omega)
    exact ((congrArg (bs.take 4 ++ ·) hlow).trans (List.take_append_drop 4 bs)).symm
  have hlen (k : Nat) (hk : k < 2) : (wordBytesAt bs k).length = 4 := by
    simp [wordBytesAt]
    omega
  have hhigh := bigEndian_lt (wordBytesAt bs 0)
  have hlow := bigEndian_lt (wordBytesAt bs 1)
  have hwhole := bigEndian_append (wordBytesAt bs 0) (wordBytesAt bs 1)
  rw [hlen 0 (by omega)] at hhigh
  rw [hlen 1 (by omega)] at hlow hwhole
  rw [← hsplit] at hwhole
  apply BitVec.eq_of_toNat_eq
  show (wordOfBE (wordBytesAt bs 0) ++ wordOfBE (wordBytesAt bs 1)).toNat = _
  rw [toNat_append_add, wordOfBE_toNat (hlen 0 (by omega)).le, wordOfBE_toNat (hlen 1 (by omega)).le,
    BitVec.toNat_ofNat, hwhole]
  omega

/- Loads in words. -/

/-- The places of the bytes of words at the given addresses. -/
def wordPlaces (pas : List Word) : List Word := pas.flatMap fun pa => placesFrom pa 4

@[simp] theorem wordPlaces_length (pas : List Word) : (wordPlaces pas).length = 4 * pas.length := by
  induction pas with
  | nil => rfl
  | cons pa rest ih =>
    rw [wordPlaces, List.flatMap_cons, List.length_append, placesFrom_length, List.length_cons]
    unfold wordPlaces at ih
    omega

theorem mem_wordPlaces {pas : List Word} {pa : Word} (h : pa ∈ pas) : pa ∈ wordPlaces pas :=
  List.mem_flatMap.mpr ⟨pa, h, mem_placesFrom.mpr ⟨0, by omega, by simp⟩⟩

/-- The bytes of one word, each as a part of a load sees it. -/
theorem loadPhys_sees (s : State) (ea pa : Word) : ∃ bs : List Byte, loadPhys s ea pa 4 = wordOfBE bs ∧ bs.length = 4 ∧
    ∀ k, k < 4 → Sees s (pa + BitVec.ofNat 32 k) (bs.getD k 0) := by
  refine ⟨_, rfl, by simp, fun k hk => ?_⟩
  rw [List.getD_eq_getElem _ _ (by simpa using hk), List.getElem_map, List.getElem_range]
  exact loadByte_sees s _ _

/-- The bytes of a load in words, each seen in the state its part finds. -/
theorem loadParts_words (s : State) (ea : Word) (pas : List Word) :
    ∃ bs, (loadParts s ea 4 pas).words = wordValues bs pas.length ∧ bs.length = 4 * pas.length ∧
      ∀ k, k < 4 * pas.length → Sees (gaps s (k / 4)) ((wordPlaces pas).getD k 0) (bs.getD k 0) := by
  induction pas generalizing s ea with
  | nil => exact ⟨[], rfl, rfl, fun k hk => absurd hk (Nat.not_lt_zero k)⟩
  | cons pa rest ih =>
    obtain ⟨xs, hword, hlen, hsees⟩ := loadPhys_sees s ea pa
    let t := if rest.isEmpty then loadedAt s pa else between (loadedAt s pa)
    obtain ⟨bs, hwords, hbs, hrest⟩ := ih t (ea + BitVec.ofNat 32 4)
    have hplaces : wordPlaces (pa :: rest) = placesFrom pa 4 ++ wordPlaces rest := rfl
    refine ⟨xs ++ bs, ?_, by simp [hlen, hbs]; omega, fun k hk => ?_⟩
    · rw [List.length_cons, wordValues_append hlen, ← hwords, ← hword]
      rfl
    · rw [hplaces]
      rw [List.length_cons] at hk
      by_cases h4 : k < 4
      · rw [List.getD_append _ _ _ _ (by simpa using h4), List.getD_append _ _ _ _ (by omega), placesFrom_getD pa h4,
          Nat.div_eq_of_lt h4]
        exact hsees k h4
      · have hne : rest.isEmpty = false := by
          cases rest with
          | nil => exact absurd hk (by simp; omega)
          | cons _ _ => rfl
        have ht : t = between (loadedAt s pa) := by simp [t, hne]
        rw [List.getD_append_right _ _ _ _ (by simp; omega), List.getD_append_right _ _ _ _ (by omega), placesFrom_length,
          hlen, show k / 4 = (k - 4) / 4 + 1 by omega]
        have := hrest (k - 4) (by omega)
        rw [ht] at this
        exact ((between_loadedAt_teaOnly s pa).gaps _).sees this

/-- The free words of a load that received TEA. -/
theorem freeParts_words (s : State) (ea : Word) (n : Nat) :
    freeParts s ea 4 n = wordValues ((List.range (4 * n)).map fun k => freeByte s (ea + BitVec.ofNat 32 k)) n := by
  unfold freeParts wordValues
  exact List.map_congr_left fun k hk => by rw [wordBytesAt_map_range _ (List.mem_range.mp hk)]

/-- No part of a load receives TEA where none comes and no place answers with one. -/
theorem loadParts_noTea {s : State} {ea : Word} {size : Nat} {pas places : List Word} (hne : pas ≠ [])
    (hsub : pas ⊆ places) (h : NoTea s (pas.length - 1) places) : (loadParts s ea size pas).tea = false := by
  obtain ⟨pa, rest, rfl⟩ := List.exists_cons_of_ne_nil hne
  obtain ⟨hcomes, hanswers⟩ := h
  rw [Bool.eq_false_iff, ne_eq, loadParts_tea, not_or]
  exact ⟨hcomes, fun ⟨a, ha, hat⟩ => ne_true_of_eq_false (hanswers a (hsub ha)) hat⟩

/-- The TEA conditions a load in parts leaves. -/
theorem loadAt_teaLoaded {s : State} {ea : Word} {size : Nat} {pas places : List Word} (hne : pas ≠ [])
    (hsub : pas ⊆ places) : TeaLoaded (pas.length - 1) places s (loadAt s ea size pas).2 := by
  have hno := loadParts_noTea (s := s) (ea := ea) (size := size) hne hsub
  obtain ⟨pa, rest, rfl⟩ := List.exists_cons_of_ne_nil hne
  obtain ⟨-, hnext, hun⟩ := loadParts_reached s ea pa size rest
  have htea := loadParts_tea s ea pa size rest
  refine ⟨hnext, fun h => hun.trans ?_, fun h => hun.trans ?_, fun h => hun.trans ?_⟩
  · rw [htea.mpr (.inl h), Bool.or_true]
  · rw [h, Bool.true_or]
  · rw [hno h, Bool.or_false]

theorem loadAt_teaOnly (s : State) (ea : Word) (size : Nat) (pas : List Word) :
    TeaOnly (gaps s (pas.length - 1)) (loadAt s ea size pas).2 := by
  cases pas with
  | nil => exact .refl s
  | cons pa rest => exact (loadParts_reached s ea pa size rest).1

/-- A load in words: its words are made of bytes its parts see. -/
theorem loadAt_words (s : State) (ea : Word) (pas : List Word) :
    ∃ bs, (loadAt s ea 4 pas).1 = wordValues bs pas.length ∧
      SeesAll s (pas.length - 1) (fun k => k / 4) (wordPlaces pas) bs := by
  obtain ⟨bs, hwords, hlen, hsees⟩ := loadParts_words s ea pas
  by_cases htea : (loadParts s ea 4 pas).tea = true
  · refine ⟨_, (if_pos htea).trans (freeParts_words s ea pas.length), by simp, fun h k hk => ?_⟩
    have hne : pas ≠ [] := fun e => by simp [e] at hk
    rw [loadParts_noTea hne (fun _ => mem_wordPlaces) h] at htea
    cases htea
  · exact ⟨bs, (if_neg htea).trans hwords, by simp [hlen], fun _ k hk => hsees k (by simpa using hk)⟩

/- The parts of an access in words. -/

/-- The parts before part `k` all go on. -/
theorem partAddresses_add {s : State} {ea : Word} {size : Nat} {store : Bool} {place : Nat → Word} {k : Nat} (m : Nat)
    (h : ∀ j, j < k → translateData s (ea + BitVec.ofNat 32 (size * j)) store = .ok (place j)) :
    partAddresses s ea size store (k + m) =
      ((List.range k).map place ++ (partAddresses s (ea + BitVec.ofNat 32 (size * k)) size store m).1,
        (partAddresses s (ea + BitVec.ofNat 32 (size * k)) size store m).2) := by
  induction k generalizing ea place with
  | zero => simp
  | succ k ih =>
    have h0 : translateData s ea store = .ok (place 0) := by simpa using h 0 (by omega)
    have hrest := ih (ea := ea + BitVec.ofNat 32 size) (place := fun j => place (j + 1)) fun j hj => by
      simpa only [partAddress_succ] using h (j + 1) (by omega)
    rw [show k + 1 + m = k + m + 1 by omega, partAddresses_ok size _ h0, hrest, partAddress_succ]
    simp [List.range_succ_eq_map, Function.comp_def]

theorem partAddresses_all {s : State} {ea : Word} {size : Nat} {store : Bool} {place : Nat → Word} {n : Nat}
    (h : ∀ j, j < n → translateData s (ea + BitVec.ofNat 32 (size * j)) store = .ok (place j)) :
    partAddresses s ea size store n = ((List.range n).map place, none) := by
  have := partAddresses_add 0 h
  simpa [partAddresses] using this

theorem partAddresses_stopped {s : State} {ea : Word} {size : Nat} {store : Bool} {place : Nat → Word} {k n : Nat}
    {e : AccessStop} (hk : k < n)
    (h : ∀ j, j < k → translateData s (ea + BitVec.ofNat 32 (size * j)) store = .ok (place j))
    (he : translateData s (ea + BitVec.ofNat 32 (size * k)) store = .error e) :
    partAddresses s ea size store n = ((List.range k).map place, some e) := by
  have := partAddresses_add (n - k - 1 + 1) h
  rw [show k + (n - k - 1 + 1) = n by omega, partAddresses_error size _ he] at this
  simpa using this

end Sys2Proof.Machine

/-!
The double format: `toSingle` inverts `toDouble` (spec/42_floating_point.md R401, spec/43_load_store.md R537).
-/
namespace Sys2Proof.Machine

/-- The single datum with the given fields. -/
def singleOf (sign : BitVec 1) (e f : Nat) : Word := sign ++ BitVec.ofNat 8 e ++ BitVec.ofNat 23 f

/-- The double datum with the given fields. -/
def doubleOf (sign : BitVec 1) (e f : Nat) : BitVec 64 := sign ++ BitVec.ofNat 11 e ++ BitVec.ofNat 52 f

theorem singleOf_toNat {e f : Nat} (sign : BitVec 1) (he : e < 2 ^ 8) (hf : f < 2 ^ 23) :
    (singleOf sign e f).toNat = sign.toNat * 2 ^ 31 + e * 2 ^ 23 + f := by
  simp only [singleOf, toNat_append_add, BitVec.toNat_ofNat, Nat.mod_eq_of_lt he, Nat.mod_eq_of_lt hf]
  omega

theorem doubleOf_toNat {e f : Nat} (sign : BitVec 1) (he : e < 2 ^ 11) (hf : f < 2 ^ 52) :
    (doubleOf sign e f).toNat = sign.toNat * 2 ^ 63 + e * 2 ^ 52 + f := by
  simp only [doubleOf, toNat_append_add, BitVec.toNat_ofNat, Nat.mod_eq_of_lt he, Nat.mod_eq_of_lt hf]
  omega

theorem singleOf_fields (w : Word) : singleOf (w.extractLsb' 31 1) (fpExp w) (fpFrac w) = w := by
  have := w.isLt
  apply BitVec.eq_of_toNat_eq
  rw [singleOf_toNat _ (fpExp_lt w) (fpFrac_lt w)]
  simp only [fpExp, fpFrac, extract_toNat]
  omega

theorem doubleOf_fields (d : BitVec 64) :
    doubleOf (d.extractLsb' 63 1) (d.extractLsb' 52 11).toNat (d.extractLsb' 0 52).toNat = d := by
  have := d.isLt
  apply BitVec.eq_of_toNat_eq
  rw [doubleOf_toNat _ (d.extractLsb' 52 11).isLt (d.extractLsb' 0 52).isLt]
  simp only [extract_toNat]
  omega

section
variable {e f : Nat} (sign : BitVec 1)

theorem singleOf_sign (he : e < 2 ^ 8) (hf : f < 2 ^ 23) : (singleOf sign e f).extractLsb' 31 1 = sign := by
  have := sign.isLt
  apply BitVec.eq_of_toNat_eq
  rw [extract_toNat, singleOf_toNat sign he hf]
  omega

theorem fpExp_singleOf (he : e < 2 ^ 8) (hf : f < 2 ^ 23) : fpExp (singleOf sign e f) = e := by
  rw [fpExp, extract_toNat, singleOf_toNat sign he hf]
  omega

theorem fpFrac_singleOf (he : e < 2 ^ 8) (hf : f < 2 ^ 23) : fpFrac (singleOf sign e f) = f := by
  rw [fpFrac, extract_toNat, singleOf_toNat sign he hf]
  omega

/-- The image of an infinity or a NaN. -/
theorem toDouble_special (hf : f < 2 ^ 23) : toDouble (singleOf sign 255 f) = doubleOf sign 2047 (f * 2 ^ 29) := by
  have he : 255 < 2 ^ 8 := by omega
  apply BitVec.eq_of_toNat_eq
  rw [toDouble, if_pos (fpExp_singleOf sign he hf), singleOf_sign sign he hf, doubleOf_toNat sign (by omega) (by omega)]
  have hfrac : ((singleOf sign 255 f).extractLsb' 0 23).toNat = f := fpFrac_singleOf sign he hf
  simp only [toNat_append_add, hfrac, BitVec.ofNat_eq_ofNat, BitVec.toNat_ofNat]
  omega

theorem toDouble_normal (he : e < 255) (h0 : e ≠ 0) (hf : f < 2 ^ 23) :
    toDouble (singleOf sign e f) = doubleOf sign (e + 896) (f * 2 ^ 29) := by
  have he8 : e < 2 ^ 8 := by omega
  have hexp := fpExp_singleOf sign he8 hf
  apply BitVec.eq_of_toNat_eq
  rw [toDouble, if_neg (by omega), if_pos (by omega), singleOf_sign sign he8 hf,
    doubleOf_toNat sign (by omega) (by omega)]
  have hfrac : ((singleOf sign e f).extractLsb' 0 23).toNat = f := fpFrac_singleOf sign he8 hf
  simp only [toNat_append_add, hfrac, hexp, BitVec.ofNat_eq_ofNat, BitVec.toNat_ofNat]
  omega

theorem toDouble_zero : toDouble (singleOf sign 0 0) = doubleOf sign 0 0 := by
  have hexp := fpExp_singleOf (e := 0) (f := 0) sign (by omega) (by omega)
  have hfrac := fpFrac_singleOf (e := 0) (f := 0) sign (by omega) (by omega)
  apply BitVec.eq_of_toNat_eq
  rw [toDouble, if_neg (by omega), if_neg (by omega), if_pos hfrac, singleOf_sign sign (by omega) (by omega),
    doubleOf_toNat sign (by omega) (by omega)]
  simp only [toNat_append_add, BitVec.ofNat_eq_ofNat, BitVec.toNat_ofNat]
  omega

/-- The leading bit of a denormalized fraction at bit 23. -/
theorem log2_normalized (h0 : f ≠ 0) (hf : f < 2 ^ 23) :
    f.log2 < 23 ∧ 2 ^ 23 ≤ f * 2 ^ (23 - f.log2) ∧ f * 2 ^ (23 - f.log2) < 2 ^ 24 := by
  have hlog : f.log2 < 23 := (Nat.log2_lt h0).mpr hf
  have hpow : 2 ^ f.log2 * 2 ^ (23 - f.log2) = 2 ^ 23 := by
    rw [← Nat.pow_add, Nat.add_sub_cancel' hlog.le]
  have hlow : 2 ^ f.log2 ≤ f := Nat.log2_self_le h0
  have hhigh : f < 2 ^ f.log2 * 2 := Nat.lt_log2_self
  refine ⟨hlog, ?_, ?_⟩
  · rw [← hpow]
    exact Nat.mul_le_mul_right _ hlow
  · calc f * 2 ^ (23 - f.log2) < 2 ^ f.log2 * 2 * 2 ^ (23 - f.log2) :=
          Nat.mul_lt_mul_of_pos_right hhigh (Nat.two_pow_pos _)
      _ = 2 ^ 24 := by rw [Nat.mul_right_comm, hpow, ← Nat.pow_succ]

theorem toDouble_denormal (h0 : f ≠ 0) (hf : f < 2 ^ 23) : toDouble (singleOf sign 0 f) =
    doubleOf sign (874 + f.log2) ((f * 2 ^ (23 - f.log2) - 2 ^ 23) * 2 ^ 29) := by
  have hexp := fpExp_singleOf (e := 0) sign (by omega) hf
  have hfrac := fpFrac_singleOf (e := 0) sign (by omega) hf
  obtain ⟨hlog, hlow, hhigh⟩ := log2_normalized h0 hf
  apply BitVec.eq_of_toNat_eq
  rw [toDouble, if_neg (by omega), if_neg (by omega), if_neg (by omega), singleOf_sign sign (by omega) hf,
    doubleOf_toNat sign (by omega) (by omega), hfrac]
  simp only [toNat_append_add, BitVec.ofNat_eq_ofNat, BitVec.toNat_ofNat]
  omega

/-- The single a double datum is the image of, by its fields. -/
theorem toSingle_doubleOf (he : e < 2 ^ 11) (hf : f < 2 ^ 52) : toSingle (doubleOf sign e f) =
    if e = 0 then (if f = 0 then some (singleOf sign 0 0) else none)
    else if e = 2047 then (if f % 2 ^ 29 = 0 then some (singleOf sign 255 (f / 2 ^ 29)) else none)
    else if 897 ≤ e ∧ e ≤ 1150 then (if f % 2 ^ 29 = 0 then some (singleOf sign (e - 896) (f / 2 ^ 29)) else none)
    else if 874 ≤ e ∧ e ≤ 896 then
      (if (2 ^ 52 + f) % 2 ^ (926 - e) = 0 then some (singleOf sign 0 ((2 ^ 52 + f) / 2 ^ (926 - e))) else none)
    else none := by
  have hlt := sign.isLt
  have hnum := doubleOf_toNat sign he hf
  have hsign : (doubleOf sign e f).extractLsb' 63 1 = sign := by
    apply BitVec.eq_of_toNat_eq
    rw [extract_toNat, hnum]
    omega
  have hexp : ((doubleOf sign e f).extractLsb' 52 11).toNat = e := by
    rw [extract_toNat, hnum]
    omega
  have hfrac : (doubleOf sign e f).extractLsb' 0 52 = BitVec.ofNat 52 f := by
    apply BitVec.eq_of_toNat_eq
    rw [extract_toNat, hnum, BitVec.toNat_ofNat]
    omega
  have hnat : (BitVec.ofNat 52 f).toNat = f := by rw [BitVec.toNat_ofNat, Nat.mod_eq_of_lt hf]
  have hzero : BitVec.ofNat 52 f = 0 ↔ f = 0 := by
    rw [← BitVec.toNat_inj, hnat]
    rfl
  have hlow : ((BitVec.ofNat 52 f).extractLsb' 0 29 == 0) = decide (f % 2 ^ 29 = 0) := by
    rw [Bool.eq_iff_iff, beq_iff_eq, decide_eq_true_iff, ← BitVec.toNat_inj, extract_toNat, hnat]
    simp
  have htop : (BitVec.ofNat 52 f).extractLsb' 29 23 = BitVec.ofNat 23 (f / 2 ^ 29) := by
    apply BitVec.eq_of_toNat_eq
    rw [extract_toNat, hnat, BitVec.toNat_ofNat]
  have hnil : sign ++ (0 : BitVec 31) = singleOf sign 0 0 := by
    apply BitVec.eq_of_toNat_eq
    simp only [singleOf_toNat sign (e := 0) (f := 0) (by omega) (by omega), toNat_append_add, BitVec.ofNat_eq_ofNat,
      BitVec.toNat_ofNat]
    omega
  simp only [toSingle, hsign, hexp, hfrac, hzero, hlow, htop, hnat, hnil, decide_eq_true_eq]
  rfl

end

/-- A single is what its double image is read back as. -/
theorem toSingle_toDouble (w : Word) : toSingle (toDouble w) = some w := by
  have hf := fpFrac_lt w
  have he := fpExp_lt w
  conv_lhs => rw [← singleOf_fields w]
  conv_rhs => rw [← singleOf_fields w]
  generalize w.extractLsb' 31 1 = sign
  generalize fpExp w = e at he
  generalize fpFrac w = f at hf
  by_cases h255 : e = 255
  · rw [h255, toDouble_special sign hf, toSingle_doubleOf sign (by omega) (by omega), if_neg (by omega), if_pos rfl,
      if_pos (Nat.mul_mod_left ..), Nat.mul_div_cancel _ (by omega)]
  · by_cases h0 : e = 0
    · subst h0
      by_cases hz : f = 0
      · rw [hz, toDouble_zero, toSingle_doubleOf sign (by omega) (by omega), if_pos rfl, if_pos rfl]
      · obtain ⟨hlog, hlow, hhigh⟩ := log2_normalized hz hf
        have hsig : 2 ^ 52 + (f * 2 ^ (23 - f.log2) - 2 ^ 23) * 2 ^ 29 = f * 2 ^ (926 - (874 + f.log2)) := by
          rw [show 926 - (874 + f.log2) = 23 - f.log2 + 29 by omega, Nat.pow_add, ← Nat.mul_assoc]
          omega
        rw [toDouble_denormal sign hz hf, toSingle_doubleOf sign (by omega) (by omega), if_neg (by omega),
          if_neg (by omega), if_neg (by omega), if_pos (by omega), hsig, if_pos (Nat.mul_mod_left ..),
          Nat.mul_div_cancel _ (Nat.two_pow_pos _)]
    · rw [toDouble_normal sign (by omega) h0 hf, toSingle_doubleOf sign (by omega) (by omega), if_neg (by omega),
        if_neg (by omega), if_pos (by omega), if_pos (Nat.mul_mod_left ..), Nat.mul_div_cancel _ (by omega),
        Nat.add_sub_cancel]

/-- The leading bit of the significand of a double below the normal singles. -/
theorem log2_of_significand {e q : Nat} (he : 874 ≤ e ∧ e ≤ 896)
    (hq : 2 ^ 52 ≤ q * 2 ^ (926 - e) ∧ q * 2 ^ (926 - e) < 2 ^ 53) : q ≠ 0 ∧ q < 2 ^ 23 ∧ q.log2 = e - 874 := by
  have hpos := Nat.two_pow_pos (926 - e)
  have hlow : 2 ^ (e - 874) ≤ q := by
    refine Nat.le_of_mul_le_mul_right ?_ hpos
    rw [← Nat.pow_add, show e - 874 + (926 - e) = 52 by omega]
    exact hq.1
  have hhigh : q < 2 ^ (e - 874 + 1) := by
    refine Nat.lt_of_mul_lt_mul_right (a := 2 ^ (926 - e)) ?_
    rw [← Nat.pow_add, show e - 874 + 1 + (926 - e) = 53 by omega]
    exact hq.2
  have hne : q ≠ 0 := fun h => by
    rw [h] at hlow
    exact absurd hlow (Nat.not_le_of_lt (Nat.two_pow_pos _))
  exact ⟨hne, hhigh.trans_le (Nat.pow_le_pow_right (by omega) (by omega)), (Nat.log2_eq_iff hne).mpr ⟨hlow, hhigh⟩⟩

/-- A double that is read as a single is its image. -/
theorem toDouble_of_toSingle {d : BitVec 64} {w : Word} (h : toSingle d = some w) : toDouble w = d := by
  have he := (d.extractLsb' 52 11).isLt
  have hf := (d.extractLsb' 0 52).isLt
  rw [← doubleOf_fields d] at h ⊢
  generalize d.extractLsb' 63 1 = sign at h ⊢
  generalize (d.extractLsb' 52 11).toNat = e at h he ⊢
  generalize (d.extractLsb' 0 52).toNat = f at h hf ⊢
  rw [toSingle_doubleOf sign he hf] at h
  split_ifs at h with h0 hz hmax hlow hnormal hlow hsmall hdvd
  · cases Option.some.inj h
    rw [h0, hz, toDouble_zero]
  · cases Option.some.inj h
    rw [toDouble_special sign (by omega), hmax, Nat.div_mul_cancel (Nat.dvd_of_mod_eq_zero hlow)]
  · cases Option.some.inj h
    rw [toDouble_normal sign (by omega) (by omega) (by omega), Nat.div_mul_cancel (Nat.dvd_of_mod_eq_zero hlow),
      Nat.sub_add_cancel (by omega)]
  · cases Option.some.inj h
    have hsig := Nat.div_mul_cancel (Nat.dvd_of_mod_eq_zero hdvd)
    generalize (2 ^ 52 + f) / 2 ^ (926 - e) = q at hsig ⊢
    obtain ⟨hne, hlt, hlog⟩ := log2_of_significand hsmall (q := q) (by omega)
    rw [show 926 - e = 23 - q.log2 + 29 by omega, Nat.pow_add, ← Nat.mul_assoc] at hsig
    rw [toDouble_denormal sign hne hlt, show 874 + q.log2 = e by omega, Nat.sub_mul, hsig, ← Nat.pow_add,
      Nat.add_sub_cancel_left]

theorem toSingle_eq_some_iff {d : BitVec 64} {w : Word} : toSingle d = some w ↔ toDouble w = d :=
  ⟨toDouble_of_toSingle, fun h => h ▸ toSingle_toDouble w⟩

end Sys2Proof.Machine

/-!
Floating-point loads (O24; spec/43_load_store.md R536 to R545).
-/
namespace Sys2Proof.Machine

/-- What holds of the body that the four forms of a floating-point load or store share, holds of the forms (R480). -/
theorem floatForms_of_body {s : State} {rA rB : Reg} {d : BitVec 16} {i x u ux : Instr}
    {wi wx wu wux : Word} {P : Out → Word → Option Reg → Prop} (hu : s.gprsUsable [rA, rB] = true)
    (body : Word → List Reg → Word → Option Reg → Out)
    (hbody : ∀ w named ea base, s.gprsUsable named = true → base.toList ⊆ named → P (body w named ea base) ea base)
    (hi : exec i s = body wi (namedOr0 rA) (eaD s rA d) none)
    (hx : exec x s = body wx (namedOr0 rA ++ [rB]) (eaX s rA rB) none)
    (hiu : exec u s = proceed (guardForm (updateOk rA)) fun _ => body wu [rA] (eaDU s rA d) (some rA))
    (hux : exec ux s = proceed (guardForm (updateOk rA)) fun _ => body wux [rA, rB] (eaXU s rA rB) (some rA)) :
    (P (exec i s) (eaD s rA d) none ∧ P (exec x s) (eaX s rA rB) none) ∧
    (rA ≠ 0 → P (exec u s) (eaDU s rA d) (some rA) ∧ P (exec ux s) (eaXU s rA rB) (some rA)) := by
  have hA : s.gprsUsable [rA] = true := gprsUsable_mono hu (by simp)
  have hD : s.gprsUsable (namedOr0 rA) = true := by simpa using usable_or0 (src := []) (tail := []) hA
  have hX : s.gprsUsable (namedOr0 rA ++ [rB]) = true := usable_or0 (src := []) hu
  refine ⟨⟨?_, ?_⟩, fun h0 => ⟨?_, ?_⟩⟩
  · rw [hi]
    exact hbody _ _ _ none hD (by simp)
  · rw [hx]
    exact hbody _ _ _ none hX (by simp)
  · rw [hiu, guardForm_true (updateOk_of_ne h0)]
    exact hbody _ _ _ (some rA) hA (by simp)
  · rw [hux, guardForm_true (updateOk_of_ne h0)]
    exact hbody _ _ _ (some rA) hu (by simp)

/- The load of a doubleword. -/

theorem partAddresses_two {s : State} {ea pa0 pa1 : Word} {store : Bool} (h0 : translateData s ea store = .ok pa0)
    (h1 : translateData s (ea + 4) store = .ok pa1) : partAddresses s ea 4 store 2 = ([pa0, pa1], none) := by
  rw [partAddresses_ok 4 1 h0, partAddresses_ok (ea := ea + BitVec.ofNat 32 4) 4 0 h1]
  rfl

/-- A doubleword load sees the bytes of its two words. -/
theorem loadDouble_sees {s : State} {ea pa0 pa1 : Word} (h0 : translateData s ea false = .ok pa0)
    (h1 : translateData s (ea + 4) false = .ok pa1) :
    ∃ bs t, loadDouble s ea = .ok (BitVec.ofNat 64 (bigEndian bs), t) ∧
      SeesAll s 1 (fun k => k / 4) (placesFrom pa0 4 ++ placesFrom pa1 4) bs ∧
      TeaLoaded 1 (placesFrom pa0 4 ++ placesFrom pa1 4) s t ∧ TeaOnly (gaps s 1) t := by
  have hplaces : wordPlaces [pa0, pa1] = placesFrom pa0 4 ++ placesFrom pa1 4 := by simp [wordPlaces]
  obtain ⟨bs, hwords, hsees⟩ := loadAt_words s ea [pa0, pa1]
  have htea := loadAt_teaLoaded (s := s) (ea := ea) (size := 4) (List.cons_ne_nil pa0 [pa1]) fun _ => mem_wordPlaces
  rw [hplaces] at hsees htea
  refine ⟨bs, (loadAt s ea 4 [pa0, pa1]).2, ?_, hsees, htea, loadAt_teaOnly s ea 4 [pa0, pa1]⟩
  have hlen : bs.length = 8 := hsees.1.trans (by simp)
  unfold loadDouble loadAll loadRun
  simp only [partAddresses_two h0 h1, hwords]
  exact congrArg (fun v => Except.ok (v, _)) (wordValues_doubleword hlen)

/-- A doubleword load stops where its first or its second word does not translate. -/
theorem loadDouble_stops {s : State} {ea : Word} {e : AccessStop} (h : (partAddresses s ea 4 false 2).2 = some e) :
    loadDouble s ea = .error e := by
  unfold loadDouble loadAll loadRun
  simp only [h]

theorem partAddresses_stop_first {s : State} {ea : Word} {e : AccessStop} {store : Bool}
    (h : translateData s ea store = .error e) : (partAddresses s ea 4 store 2).2 = some e := by
  rw [partAddresses_error 4 1 h]

theorem partAddresses_stop_second {s : State} {ea pa : Word} {e : AccessStop} {store : Bool}
    (h0 : translateData s ea store = .ok pa) (h : translateData s (ea + 4) store = .error e) :
    (partAddresses s ea 4 store 2).2 = some e := by
  rw [partAddresses_ok 4 1 h0, partAddresses_error (ea := ea + BitVec.ofNat 32 4) 4 0 h]

/- What the write of the datum and of the base leaves. -/

theorem TeaOnly.sameBank {u t : State} (h : TeaOnly u t) : SameBank u t := by
  obtain ⟨hgpr, htgpr, -⟩ := h.registers
  unfold SameBank
  split
  · exact hgpr
  · exact htgpr

theorem writeFpr_floats_other (s : State) {r q : Reg} (v : Word) (single : Bool) (h : q ≠ r) :
    (s.writeFpr r v single).fprData q = s.fprData q ∧ (s.writeFpr r v single).spTag q = s.spTag q ∧
      (s.writeFpr r v single).ltTag q = s.ltTag q :=
  ⟨fprData_writeFpr_other s r q v single h, spTag_writeFpr_other s r q v single h, ltTag_writeFpr_other s r q v single h⟩

/-- The end of a floating-point load. -/
def floatLoaded (t : State) (frD : Reg) (v : Word) (base : Option Reg) (ea : Word) : State :=
  { updateBase (t.writeFpr frD v true) base ea with cia := t.cia + 4 }

theorem advance_floatLoaded (t : State) (frD : Reg) (v : Word) (base : Option Reg) (ea : Word) :
    advance (updateBase (t.writeFpr frD v true) base ea) = .next (floatLoaded t frD v base ea) := by
  have hcia : (updateBase (t.writeFpr frD v true) base ea).cia = t.cia := by rw [updateBase_rest]; rfl
  rw [advance_next, hcia]
  rfl

theorem floatLoaded_rest (t : State) (frD : Reg) (v : Word) (base : Option Reg) (ea : Word) :
    floatLoaded t frD v base ea = { t.writeFpr frD v true with
      gpr := (floatLoaded t frD v base ea).gpr, tgpr := (floatLoaded t frD v base ea).tgpr, cia := t.cia + 4 } := by
  unfold floatLoaded
  rw [updateBase_rest]

/-- The datum of a floating-point load, tagged a single. -/
theorem floatLoaded_datum (t : State) (frD : Reg) (v : Word) (base : Option Reg) (ea : Word) :
    (floatLoaded t frD v base ea).fprData frD = v ∧ (floatLoaded t frD v base ea).isSingle frD = true := by
  have hsp := spTag_writeFpr_same t frD v true
  have hlt := ltTag_writeFpr_same t frD v true
  rw [floatLoaded_rest]
  refine ⟨fprData_writeFpr_same t frD v true, ?_⟩
  show ((t.writeFpr frD v true).spTag frD && !(t.writeFpr frD v true).ltTag frD) = true
  rw [hsp, hlt]
  rfl

theorem floatLoaded_only {u t : State} (h : TeaOnly u t) (frD : Reg) (v : Word) {base : Option Reg} (ea : Word)
    (hu : u.gprsUsable base.toList = true) : OnlyFloatLoad frD base ea u (floatLoaded t frD v base ea) := by
  obtain ⟨hgpr, htgpr, hmsr⟩ := h.registers
  refine ⟨fun rA hA => updateBase_base ea hA, fun r hr => ?_, fun r hr => ?_, ?_, ?_⟩
  · exact (updateBase_other ea hr).trans (readGpr_of_eq hgpr htgpr hmsr r)
  · rw [floatLoaded_rest, h]
    exact writeFpr_floats_other (u.withTea t.teaNext t.teaUnrecognised) v true hr
  · exact updateBase_sameBank ea (t := t.writeFpr frD v true) h.sameBank hmsr ((gprsUsable_congr hmsr _).trans hu)
  · rw [floatLoaded_rest, h]
    rfl

theorem TeaLoaded.floatLoaded {m : Nat} {places : List Word} {s t : State} (h : TeaLoaded m places s t) (frD : Reg)
    (v : Word) (base : Option Reg) (ea : Word) : TeaLoaded m places s (Machine.floatLoaded t frD v base ea) :=
  h.congr (by rw [floatLoaded_rest]; rfl) (by rw [floatLoaded_rest]; rfl)

/-- A floating-point load of `v` completes. -/
def CompletesFloat (o : Out) (s : State) (frD : Reg) (v : Word) (base : Option Reg) (ea : Word) (places : List Word)
    (m : Nat) : Prop :=
  ∃ t, o = .next t ∧ t.fprData frD = v ∧ t.isSingle frD = true ∧ TeaLoaded m places s t ∧
    OnlyFloatLoad frD base ea (gaps s m) t

theorem completesFloat_of_load {s t : State} {frD : Reg} {base : Option Reg} {ea : Word} {places : List Word} {m : Nat}
    (v : Word) (htea : TeaLoaded m places s t) (ht : TeaOnly (gaps s m) t) (hu : s.gprsUsable base.toList = true) :
    CompletesFloat (advance (updateBase (t.writeFpr frD v true) base ea)) s frD v base ea places m := by
  obtain ⟨hdatum, hsingle⟩ := floatLoaded_datum t frD v base ea
  exact ⟨_, advance_floatLoaded .., hdatum, hsingle, htea.floatLoaded ..,
    floatLoaded_only ht frD v ea ((gprsUsable_congr (gaps_msr ..) _).trans hu)⟩

/-- The end of a double-precision load: the single that the doubleword is the image of, or the emulation trap (R536). -/
def endDouble (t : State) (frD : Reg) (base : Option Reg) (ea : Word) (v : BitVec 64) : Out :=
  match toSingle v with
  | some x => advance (updateBase (t.writeFpr frD x true) base ea)
  | none => raise .emulation 0 t

theorem endDouble_image {v : BitVec 64} {x : Word} (h : toDouble x = v) (t : State) (frD : Reg) (base : Option Reg)
    (ea : Word) : endDouble t frD base ea v = advance (updateBase (t.writeFpr frD x true) base ea) := by
  rw [endDouble, toSingle_eq_some_iff.mpr h]

theorem endDouble_noImage {v : BitVec 64} (h : ∀ x, toDouble x ≠ v) (t : State) (frD : Reg) (base : Option Reg)
    (ea : Word) : endDouble t frD base ea v = raise .emulation 0 t := by
  have hno : toSingle v = none := Option.eq_none_iff_forall_ne_some.mpr fun x hx => h x (toSingle_eq_some_iff.mp hx)
  rw [endDouble, hno]

/-- What a single-precision load does. -/
def LoadsSingle (s : State) (frD : Reg) (o : Out) (ea : Word) (base : Option Reg) : Prop :=
  ea.toNat % 4 = 0 →
  (∀ e, translateData s ea false = .error e → o = e.outcome s) ∧
  ∀ pa, translateData s ea false = .ok pa →
    ∃ bs, SeesAll s 0 (fun _ => 0) (placesFrom pa 4) bs ∧
      CompletesFloat o s frD (BitVec.ofNat 32 (bigEndian bs)) base ea (placesFrom pa 4) 0

/-- What a double-precision load does. -/
def LoadsDouble (s : State) (frD : Reg) (o : Out) (ea : Word) (base : Option Reg) : Prop :=
  ea.toNat % 4 = 0 →
  (∀ e, translateData s ea false = .error e → o = e.outcome s) ∧
  ∀ pa0, translateData s ea false = .ok pa0 →
    (∀ e, translateData s (ea + 4) false = .error e → o = e.outcome s) ∧
    ∀ pa1, translateData s (ea + 4) false = .ok pa1 →
      ∃ bs, SeesAll s 1 (fun k => k / 4) (placesFrom pa0 4 ++ placesFrom pa1 4) bs ∧
        (∀ v, toDouble v = BitVec.ofNat 64 (bigEndian bs) →
          CompletesFloat o s frD v base ea (placesFrom pa0 4 ++ placesFrom pa1 4) 1) ∧
        ((∀ v, toDouble v ≠ BitVec.ofNat 64 (bigEndian bs)) →
          ∃ t, Raises o .emulation 0 t ∧ TeaLoaded 1 (placesFrom pa0 4 ++ placesFrom pa1 4) s t ∧
            t = { gaps s 1 with teaNext := t.teaNext, teaUnrecognised := t.teaUnrecognised })

section
variable {s : State} {named : List Reg} {ea : Word} (hfp : s.msrBit msrFP = true) (hle : s.leView = false)
  (hu : s.gprsUsable named = true) (w : Word) (fr : Reg) (base : Option Reg)
include hfp hle hu

theorem loadSingleFp_eq (ha : ea.toNat % 4 = 0) : loadSingleFp s w named ea fr base =
    proceed (orStop s (loadData s ea 4)) fun (v, t) => advance (updateBase (t.writeFpr fr v true) base ea) := by
  rw [loadSingleFp, guardFp_on hfp, withGprs_of_usable hu, guardWordAligned_aligned ((lowBits_eq_zero_iff _).mpr ha),
    guardBigEndian_big hle]

theorem loadDoubleFp_eq (ha : ea.toNat % 4 = 0) : loadDoubleFp s w named ea fr base =
    proceed (orStop s (loadDouble s ea)) fun p => endDouble p.2 fr base ea p.1 := by
  rw [loadDoubleFp, guardFp_on hfp, withGprs_of_usable hu, guardWordAligned_aligned ((lowBits_eq_zero_iff _).mpr ha),
    guardBigEndian_big hle]
  rfl

theorem loadSingleFp_loads (hsub : base.toList ⊆ named) :
    LoadsSingle s fr (loadSingleFp s w named ea fr base) ea base := by
  intro ha
  rw [loadSingleFp_eq hfp hle hu w fr base ha]
  refine ⟨fun e he => ?_, fun pa hpa => ?_⟩
  · rw [loadData_stops (k := 0) (by omega) (fun _ => rfl) (fun j hj => absurd hj (Nat.not_lt_zero j)) (by simpa using he)]
    rfl
  · have hplaces : Places s ea 4 false (placesFrom pa 4) := (if_pos ha).mpr ⟨pa, hpa, rfl⟩
    obtain ⟨bs, t, hload, -, hsees, htea, ht⟩ := loadData_sees (by omega) hplaces
    simp only [lastPart, ha, if_true] at hsees htea ht
    refine ⟨bs, hsees, ?_⟩
    rw [hload, wordOfBE_eq]
    exact completesFloat_of_load _ htea ht (gprsUsable_mono hu hsub)

theorem loadDoubleFp_loads (hsub : base.toList ⊆ named) :
    LoadsDouble s fr (loadDoubleFp s w named ea fr base) ea base := by
  intro ha
  rw [loadDoubleFp_eq hfp hle hu w fr base ha]
  refine ⟨fun e he => ?_, fun pa0 h0 => ⟨fun e he => ?_, fun pa1 h1 => ?_⟩⟩
  · rw [loadDouble_stops (partAddresses_stop_first he)]
    rfl
  · rw [loadDouble_stops (partAddresses_stop_second h0 he)]
    rfl
  · obtain ⟨bs, t, hload, hsees, htea, ht⟩ := loadDouble_sees h0 h1
    rw [hload, orStop_ok, proceed_ok]
    refine ⟨bs, hsees, fun v hv => ?_, fun hnone => ⟨t, endDouble_noImage hnone t fr base ea, htea, ht⟩⟩
    rw [endDouble_image hv]
    exact completesFloat_of_load v htea ht (gprsUsable_mono hu hsub)

end

/-- Settles O24: each form is a load past its guards, of one word or of the two words of a doubleword. -/
theorem floatLoads : Obligations.FloatLoads := by
  intro s frD rA rB d hfp hu hle eaD' eaX' eaDU' eaXU' completes single double
  obtain ⟨⟨hlfs, hlfsx⟩, hlfsu⟩ := floatForms_of_body (P := LoadsSingle s frD) (i := .lfs frD rA d) (x := .lfsx frD rA rB)
    (u := .lfsu frD rA d) (ux := .lfsux frD rA rB) hu (fun w named ea base => loadSingleFp s w named ea frD base)
    (fun w named ea base hn hsub => loadSingleFp_loads hfp hle hn w frD base hsub) rfl rfl rfl rfl
  obtain ⟨⟨hlfd, hlfdx⟩, hlfdu⟩ := floatForms_of_body (P := LoadsDouble s frD) (i := .lfd frD rA d) (x := .lfdx frD rA rB)
    (u := .lfdu frD rA d) (ux := .lfdux frD rA rB) hu (fun w named ea base => loadDoubleFp s w named ea frD base)
    (fun w named ea base hn hsub => loadDoubleFp_loads hfp hle hn w frD base hsub) rfl rfl rfl rfl
  exact ⟨hlfs, hlfsx, hlfd, hlfdx, fun h0 => ⟨(hlfsu h0).1, (hlfsu h0).2, (hlfdu h0).1, (hlfdu h0).2⟩⟩

end Sys2Proof.Machine

/-!
Floating-point stores (O25; spec/43_load_store.md R546 to R553).
-/
namespace Sys2Proof.Machine

/- The bytes of a doubleword (spec/20_memory.md R150). -/

theorem bigEndianBytes_mod (n v : Nat) : bigEndianBytes n (v % 256 ^ n) = bigEndianBytes n v := by
  refine List.map_congr_left fun k hk => ?_
  have hk : k < n := List.mem_range.mp hk
  apply BitVec.eq_of_toNat_eq
  rw [BitVec.toNat_ofNat, BitVec.toNat_ofNat, show n = n - 1 - k + 1 + k by omega, Nat.pow_add 256 _ k, Nat.pow_succ,
    show n - 1 - k + 1 + k - 1 - k = n - 1 - k by omega, Nat.mul_assoc, Nat.mod_mul_right_div_self,
    show 2 ^ 8 = 256 from rfl, Nat.mod_mul_right_mod]

theorem bigEndianBytes_add (m n v : Nat) :
    bigEndianBytes (m + n) v = bigEndianBytes m (v / 256 ^ n) ++ bigEndianBytes n v := by
  unfold bigEndianBytes
  rw [List.range_add, List.map_append, List.map_map]
  congr 1
  · refine List.map_congr_left fun k hk => ?_
    have hk : k < m := List.mem_range.mp hk
    rw [Nat.div_div_eq_div_mul, ← Nat.pow_add, show n + (m - 1 - k) = m + n - 1 - k by omega]
  · refine List.map_congr_left fun k _ => ?_
    rw [Function.comp_apply, show m + n - 1 - (m + k) = n - 1 - k by omega]

/-- The bytes of a doubleword are those of its high word, then those of its low word. -/
theorem bytes_of_doubleword (v : BitVec 64) :
    bytesBE 4 (v.extractLsb' 32 32) ++ bytesBE 4 (v.extractLsb' 0 32) = bigEndianBytes 8 v.toNat := by
  have hword : 256 ^ 4 = 2 ^ 32 := rfl
  have hhigh : (v.extractLsb' 32 32).toNat = v.toNat / 256 ^ 4 % 256 ^ 4 := by rw [extract_toNat, hword]
  have hlow : (v.extractLsb' 0 32).toNat = v.toNat % 256 ^ 4 := by
    rw [extract_toNat, Nat.pow_zero, Nat.div_one, hword]
  rw [← bigEndianBytes_eq, ← bigEndianBytes_eq, hhigh, hlow, bigEndianBytes_mod, bigEndianBytes_mod,
    ← bigEndianBytes_add]

/- Stores of words, each an access of its own (spec/20_memory.md R161). -/

/-- The store of a doubleword where both words translate. -/
theorem storeDouble_eq {s : State} {ea pa0 pa1 : Word} (v : BitVec 64) (h0 : translateData s ea true = .ok pa0)
    (h1 : translateData s (ea + 4) true = .ok pa1) : storeDouble s ea v =
      .ok (writePhys (between (writePhys s pa0 4 (v.extractLsb' 32 32))) pa1 4 (v.extractLsb' 0 32)) := by
  simp only [storeDouble, h0, h1]

theorem storeDouble_stops_first {s : State} {ea : Word} {e : AccessStop} (v : BitVec 64)
    (h : translateData s ea true = .error e) : storeDouble s ea v = .error e := by
  simp only [storeDouble, h]

theorem storeDouble_stops_second {s : State} {ea pa : Word} {e : AccessStop} (v : BitVec 64)
    (h0 : translateData s ea true = .ok pa) (h : translateData s (ea + 4) true = .error e) :
    storeDouble s ea v = .error e := by
  simp only [storeDouble, h0, h]

/-- A word beyond an aligned one is aligned. -/
theorem next_word_aligned {ea : Word} (k : Nat) (ha : ea.toNat % 4 = 0) :
    (ea + BitVec.ofNat 32 (4 * k)).toNat % 4 = 0 := by
  rw [BitVec.toNat_add, BitVec.toNat_ofNat]
  omega

/-- What the store of a doubleword leaves. -/
theorem storeDouble_completes {s : State} {ea pa0 pa1 : Word} (v : BitVec 64) (hm : s.mem.wf = true)
    (ha : ea.toNat % 4 = 0) (h0 : translateData s ea true = .ok pa0) (h1 : translateData s (ea + 4) true = .ok pa1)
    (hapart : ∀ a ∈ placesFrom pa0 4, a ∉ placesFrom pa1 4) :
    ∃ t, storeDouble s ea v = .ok t ∧
      StoreEffect s 1 (placesFrom pa0 4 ++ placesFrom pa1 4) (bigEndianBytes 8 v.toNat) t ∧ StoppedStore (gaps s 1) t := by
  have hpa0 : pa0.toNat % 4 = 0 := translateData_aligned h0 (by norm_num) ha
  have hpa1 : pa1.toNat % 4 = 0 := translateData_aligned h1 (by norm_num) (next_word_aligned 1 ha)
  have hfirst := (StoresSo.first hm (v.extractLsb' 32 32) (dvd_refl 4) hpa0).between
  have hboth : StoresSo s 1 (placesFrom pa0 4 ++ placesFrom pa1 4) (bigEndianBytes 8 v.toNat)
      (writePhys (between (writePhys s pa0 4 (v.extractLsb' 32 32))) pa1 4 (v.extractLsb' 0 32)) := by
    rw [← bytes_of_doubleword]
    exact Tracks.write hfirst _ (dvd_refl 4) hpa1 hapart
  exact ⟨_, storeDouble_eq v h0 h1, hboth.effect nofun, hboth.stopped⟩

/- The bodies of the stores. -/

/-- What a single-precision store does. -/
def StoresSingle (s : State) (frS : Reg) (o : Out) (ea : Word) (base : Option Reg) : Prop :=
  ea.toNat % 4 = 0 → s.isSingle frS = true →
  (∀ e, translateData s ea true = .error e → o = e.outcome s) ∧
  ∀ pa, translateData s ea true = .ok pa →
    ∃ t, o = .next t ∧ StoreEffect s 0 (placesFrom pa 4) (bigEndianBytes 4 (s.fprData frS).toNat) t ∧
      OnlyStore base ea s t

/-- What a double-precision store does. -/
def StoresDouble (s : State) (frS : Reg) (o : Out) (ea : Word) (base : Option Reg) : Prop :=
  ea.toNat % 4 = 0 → s.isSingle frS = true ∨ s.isIntTagged frS = true →
  (∀ e, translateData s ea true = .error e → o = e.outcome s) ∧
  ∀ pa0, translateData s ea true = .ok pa0 →
    (∀ e, translateData s (ea + 4) true = .error e → o = e.outcome s) ∧
    ∀ pa1, translateData s (ea + 4) true = .ok pa1 → (∀ a ∈ placesFrom pa0 4, a ∉ placesFrom pa1 4) →
      ∃ (t : State) (D : BitVec 64), o = .next t ∧ (s.isSingle frS = true → D = toDouble (s.fprData frS)) ∧
        (s.isIntTagged frS = true → D.extractLsb' 0 32 = s.fprData frS) ∧
        StoreEffect s 1 (placesFrom pa0 4 ++ placesFrom pa1 4) (bigEndianBytes 8 D.toNat) t ∧
        OnlyStore base ea (gaps s 1) t

theorem doubleImage_single {s : State} {r : Reg} (h : s.isSingle r = true) : doubleImage s r = toDouble (s.fprData r) :=
  if_pos h

theorem isSingle_of_intTagged {s : State} {r : Reg} (h : s.isIntTagged r = true) : s.isSingle r = false := by
  unfold State.isIntTagged at h
  unfold State.isSingle
  revert h
  cases s.spTag r <;> simp

theorem doubleImage_intTagged {s : State} {r : Reg} (h : s.isIntTagged r = true) :
    (doubleImage s r).extractLsb' 0 32 = s.fprData r := by
  have hlt := (s.fprData r).isLt
  rw [doubleImage, isSingle_of_intTagged h]
  apply BitVec.eq_of_toNat_eq
  show ((s.draw .stfdHigh ++ s.fprData r).extractLsb' 0 32).toNat = _
  rw [extract_toNat, toNat_append_add]
  omega

/-- A store past its translation: the update of the base and of CIA. -/
theorem storeEffect_advance {s t : State} {m : Nat} {places : List Word} {bs : List Byte} {base : Option Reg} {ea : Word}
    (heff : StoreEffect s m places bs t) (hstop : StoppedStore (gaps s m) t) (hu : s.gprsUsable base.toList = true) :
    ∃ t', advance (updateBase t base ea) = .next t' ∧ StoreEffect s m places bs t' ∧
      OnlyStore base ea (gaps s m) t' :=
  ⟨_, rfl, heff.congr (by rw [updateBase_rest]) (by rw [updateBase_rest]) (by rw [updateBase_rest])
    (by rw [updateBase_rest]), onlyStore_of_update hstop ea ((gprsUsable_congr (gaps_msr ..) _).trans hu)⟩

section
variable {s : State} {named : List Reg} {ea : Word} (hfp : s.msrBit msrFP = true) (hle : s.leView = false)
  (hu : s.gprsUsable named = true) (w : Word) (fr : Reg) (base : Option Reg)
include hfp hle hu

theorem storeSingleFp_eq (ha : ea.toNat % 4 = 0) (hs : s.isSingle fr = true) : storeSingleFp s w named ea fr base =
    proceed (tryStore s ea 4 (s.fprData fr)) fun t => advance (updateBase t base ea) := by
  rw [storeSingleFp, guardFp_on hfp, withGprs_of_usable hu, guardSingles_single hs,
    guardWordAligned_aligned ((lowBits_eq_zero_iff _).mpr ha), guardBigEndian_big hle]

theorem storeDoubleFp_eq (ha : ea.toNat % 4 = 0) (ht : s.isTagged fr = true) : storeDoubleFp s w named ea fr base =
    proceed (orStop s (storeDouble s ea (doubleImage s fr))) fun t => advance (updateBase t base ea) := by
  rw [storeDoubleFp, guardFp_on hfp, withGprs_of_usable hu, guardTagged_tagged ht,
    guardWordAligned_aligned ((lowBits_eq_zero_iff _).mpr ha), guardBigEndian_big hle]

theorem storeSingleFp_stores (hm : s.mem.wf = true) (hsub : base.toList ⊆ named) :
    StoresSingle s fr (storeSingleFp s w named ea fr base) ea base := by
  intro ha hs
  rw [storeSingleFp_eq hfp hle hu w fr base ha hs]
  refine ⟨fun e he => ?_, fun pa hpa => ?_⟩
  · simp [tryStore, storeData, (isAligned_iff ea 4).mpr ha, he]
  · rw [tryStore, storeData_aligned ha hpa, bigEndianBytes_eq]
    exact storeEffect_advance (writePhys_effect hm _ (dvd_refl 4) (translateData_aligned hpa (by norm_num) ha))
      (writePhys_stopped ..) (gprsUsable_mono hu hsub)

theorem storeDoubleFp_stores (hm : s.mem.wf = true) (hsub : base.toList ⊆ named) :
    StoresDouble s fr (storeDoubleFp s w named ea fr base) ea base := by
  intro ha htag
  rw [storeDoubleFp_eq hfp hle hu w fr base ha (isTagged_of_use htag)]
  refine ⟨fun e he => ?_, fun pa0 h0 => ⟨fun e he => ?_, fun pa1 h1 hapart => ?_⟩⟩
  · rw [storeDouble_stops_first _ he]
    rfl
  · rw [storeDouble_stops_second _ h0 he]
    rfl
  · obtain ⟨t, hstore, heff, hstop⟩ := storeDouble_completes (doubleImage s fr) hm ha h0 h1 hapart
    obtain ⟨t', hnext, heff', honly⟩ := storeEffect_advance (base := base) (ea := ea) heff hstop (gprsUsable_mono hu hsub)
    rw [hstore]
    exact ⟨t', doubleImage s fr, hnext, doubleImage_single, doubleImage_intTagged, heff', honly⟩

end

/-- Settles O25: each form is a store past its guards, of one word or of the two words of a double image. -/
theorem floatStores : Obligations.FloatStores := by
  intro s frS rA rB d hfp hu hle hm eaD' eaX' eaDU' eaXU' w single double
  obtain ⟨⟨hstfs, hstfsx⟩, hstfsu⟩ := floatForms_of_body (P := StoresSingle s frS) (i := .stfs frS rA d)
    (x := .stfsx frS rA rB) (u := .stfsu frS rA d) (ux := .stfsux frS rA rB) hu
    (fun w named ea base => storeSingleFp s w named ea frS base)
    (fun w named ea base hn hsub => storeSingleFp_stores hfp hle hn w frS base hm hsub) rfl rfl rfl rfl
  obtain ⟨⟨hstfd, hstfdx⟩, hstfdu⟩ := floatForms_of_body (P := StoresDouble s frS) (i := .stfd frS rA d)
    (x := .stfdx frS rA rB) (u := .stfdu frS rA d) (ux := .stfdux frS rA rB) hu
    (fun w named ea base => storeDoubleFp s w named ea frS base)
    (fun w named ea base hn hsub => storeDoubleFp_stores hfp hle hn w frS base hm hsub) rfl rfl rfl rfl
  exact ⟨hstfs, hstfsx, hstfd, hstfdx, fun h0 => ⟨(hstfsu h0).1, (hstfsu h0).2, (hstfdu h0).1, (hstfdu h0).2⟩⟩

end Sys2Proof.Machine

/-!
Multiple loads and stores (O26; spec/43_load_store.md R520, R521).
-/
namespace Sys2Proof.Machine

/- Several registers. -/

/-- While general registers 4 to 31 may be used, MSR[TGPR] is 0. -/
theorem tgpr_off_of_usable {s : State} {rs : List Reg} (h31 : (31 : Reg) ∈ rs) (hu : s.gprsUsable rs = true) :
    s.msrBit msrTGPR = false := by
  have h : s.gprsUsable [31] = true := gprsUsable_mono hu (by simpa using h31)
  simpa [State.gprsUsable] using h

theorem gprsUsable_of_tgpr_off {s : State} (h : s.msrBit msrTGPR = false) (rs : List Reg) : s.gprsUsable rs = true := by
  simp [State.gprsUsable, h]

theorem reg_succ (r : Reg) (k : Nat) : r + BitVec.ofNat 5 (k + 1) = r + 1 + BitVec.ofNat 5 k := by
  rw [Nat.add_comm, BitVec.ofNat_add, ← BitVec.add_assoc]
  rfl

/-- A register named from the first one on, where none wraps. -/
theorem reg_offset_toNat {r : Reg} {k : Nat} (h : r.toNat + k < 32) : (r + BitVec.ofNat 5 k).toNat = r.toNat + k := by
  rw [BitVec.toNat_add, BitVec.toNat_ofNat]
  omega

/-- The values of the registers from `r` on. -/
def gprsFrom (s : State) (r : Reg) (k : Nat) : Word := s.readGpr (r + BitVec.ofNat 5 k)

theorem readGprs_eq (s : State) (r : Reg) (n : Nat) : readGprs s r n = (List.range n).map (gprsFrom s r) := by
  induction n generalizing r with
  | zero => rfl
  | succ n ih =>
    rw [readGprs, ih, List.range_succ_eq_map, List.map_cons, List.map_map]
    congr 1
    · simp [gprsFrom]
    · exact List.map_congr_left fun k _ => congrArg s.readGpr (reg_succ r k).symm

theorem readGpr_writeGprs_other {s : State} {r q : Reg} (vs : List Word)
    (h : ∀ k, k < vs.length → q ≠ r + BitVec.ofNat 5 k) : (writeGprs s r vs).readGpr q = s.readGpr q := by
  induction vs generalizing s r with
  | nil => rfl
  | cons v rest ih =>
    have h0 : q ≠ r := by simpa using h 0 (by simp)
    rw [writeGprs, ih fun k hk => by rw [← reg_succ]; exact h (k + 1) (by simpa using hk), readGpr_writeGpr_other s r q v h0]

theorem readGpr_writeGprs_at {s : State} {r : Reg} (vs : List Word) {k : Nat} (hk : k < vs.length)
    (hr : r.toNat + vs.length ≤ 32) : (writeGprs s r vs).readGpr (r + BitVec.ofNat 5 k) = vs.getD k 0 := by
  induction vs generalizing s r k with
  | nil => exact absurd hk (Nat.not_lt_zero k)
  | cons v rest ih =>
    rw [List.length_cons] at hk hr
    cases k with
    | zero =>
      have hother (j : Nat) (hj : j < rest.length) : r ≠ r + 1 + BitVec.ofNat 5 j := fun e => by
        have := congrArg BitVec.toNat e
        rw [← reg_succ, reg_offset_toNat (by omega)] at this
        omega
      rw [writeGprs, show r + BitVec.ofNat 5 0 = r from BitVec.add_zero r, readGpr_writeGprs_other rest hother,
        readGpr_writeGpr_same]
      rfl
    | succ k =>
      have hsucc : (r + 1).toNat = r.toNat + 1 := reg_offset_toNat (k := 1) (by omega)
      rw [writeGprs, reg_succ]
      exact ih (by omega) (by omega)

theorem writeGprs_sameBank {u t : State} (h : SameBank u t) (hmsr : t.msr = u.msr) (ht : u.msrBit msrTGPR = false)
    (r : Reg) (vs : List Word) : SameBank u (writeGprs t r vs) := by
  induction vs generalizing t r with
  | nil => exact h
  | cons v rest ih =>
    have hu : t.gprsUsable [r] = true := (gprsUsable_congr hmsr _).trans (gprsUsable_of_tgpr_off ht _)
    exact ih (writeGpr_sameBank v h hmsr hu) ((writeGpr_msr ..).trans hmsr) (r + 1)

/- Loads of several words. -/

theorem wordValues_getD {bs : List Byte} {n k : Nat} (hk : k < n) :
    ((wordValues bs n).getD k 0).toNat = bigEndian (wordBytesAt bs k) := by
  rw [wordValues, List.getD_eq_getElem _ _ (by simpa using hk), List.getElem_map, List.getElem_range]
  exact wordOfBE_toNat (by simp [wordBytesAt])

/-- The places of the first `k` of a sequence of words. -/
def operandPlaces (place : Nat → Word) (k : Nat) : List Word := (List.range k).flatMap fun j => placesFrom (place j) 4

theorem wordPlaces_map (place : Nat → Word) (k : Nat) :
    wordPlaces ((List.range k).map place) = operandPlaces place k := List.flatMap_map ..

theorem operandPlaces_succ (place : Nat → Word) (k : Nat) :
    operandPlaces place (k + 1) = operandPlaces place k ++ placesFrom (place k) 4 := by
  simp [operandPlaces, List.range_succ]

theorem readGpr_gaps (s : State) (m : Nat) (q : Reg) : (gaps s m).readGpr q = s.readGpr q :=
  readGpr_of_eq (gaps_gpr ..) (gaps_tgpr ..) (gaps_msr ..) q

theorem SameBank.of_gaps {s t : State} {m : Nat} (h : SameBank (gaps s m) t) : SameBank s t := by
  rwa [SameBank, State.msrBit, gaps_msr, gaps_gpr, gaps_tgpr] at h

/-- `t` is `u` with the first `j` of the words of `bs` in the registers from `r` on, but for the TEA conditions. -/
structure LoadedWords (u t : State) (r : Reg) (bs : List Byte) (j : Nat) : Prop where
  loaded : ∀ i, i < j → (t.readGpr (r + BitVec.ofNat 5 i)).toNat = bigEndian (wordBytesAt bs i)
  others : ∀ q, q < r ∨ r.toNat + j ≤ q.toNat → t.readGpr q = u.readGpr q
  bank : SameBank u t
  rest : t = { u with gpr := t.gpr, tgpr := t.tgpr, teaNext := t.teaNext, teaUnrecognised := t.teaUnrecognised }

theorem writeGprs_loadedWords {u t : State} (h : TeaOnly u t) (ht : u.msrBit msrTGPR = false) {r : Reg} {j k : Nat}
    (hj : j ≤ k) (hr : r.toNat + k ≤ 32) (bs : List Byte) :
    LoadedWords u (writeGprs t r ((wordValues bs k).take j)) r bs j := by
  obtain ⟨hgpr, htgpr, hmsr⟩ := h.registers
  have htake : (wordValues bs k).take j = wordValues bs j := by
    rw [wordValues, ← List.map_take, List.take_range, Nat.min_eq_left hj, wordValues]
  rw [htake]
  refine ⟨fun i hi => ?_, fun q hq => ?_, writeGprs_sameBank h.sameBank hmsr ht r _, ?_⟩
  · rw [readGpr_writeGprs_at _ (by simpa using hi) (by simp; omega), wordValues_getD hi]
  · rw [readGpr_writeGprs_other _ fun i hi e => ?_, readGpr_of_eq hgpr htgpr hmsr q]
    rw [wordValues_length] at hi
    have hq' : q.toNat < r.toNat ∨ r.toNat + j ≤ q.toNat := hq
    rw [e, reg_offset_toNat (by omega)] at hq'
    omega
  · rw [writeGprs_rest, h]
    rfl

/-- What lmw has done when it ends or stops after `k` words, `j` of them written to registers. -/
theorem loadAt_loadedWords {s : State} (ea : Word) (place : Nat → Word) (ht : s.msrBit msrTGPR = false) {r : Reg}
    {k : Nat} (hr : r.toNat + k ≤ 32) :
    ∃ bs, SeesAll s (k - 1) (fun k => k / 4) (operandPlaces place k) bs ∧
      ∀ j, j ≤ k → ∀ t, t = writeGprs (loadAt s ea 4 ((List.range k).map place)).2 r
          ((loadAt s ea 4 ((List.range k).map place)).1.take j) →
        LoadedWords (gaps s (k - 1)) t r bs j ∧
        (0 < k → TeaLoaded (k - 1) (operandPlaces place k) s t) := by
  have hlen : ((List.range k).map place).length = k := by simp
  obtain ⟨bs, hwords, hsees⟩ := loadAt_words s ea ((List.range k).map place)
  have honly := loadAt_teaOnly s ea 4 ((List.range k).map place)
  rw [wordPlaces_map, hlen] at hsees
  rw [hlen] at hwords honly
  have htgpr : (gaps s (k - 1)).msrBit msrTGPR = false := by rw [State.msrBit, gaps_msr]; exact ht
  refine ⟨bs, hsees, fun j hj t htw => ?_⟩
  subst htw
  rw [hwords]
  refine ⟨writeGprs_loadedWords honly htgpr hj hr bs, fun hk => ?_⟩
  have hne : (List.range k).map place ≠ [] := fun e => by rw [e, List.length_nil] at hlen; omega
  have htea := loadAt_teaLoaded (s := s) (ea := ea) (size := 4) hne fun _ => mem_wordPlaces
  rw [wordPlaces_map, hlen] at htea
  exact htea.congr (by rw [writeGprs_rest]) (by rw [writeGprs_rest])

theorem lmwOk_of_lt {rD rA : Reg} (h : rA < rD) : lmwOk rD rA = true := decide_eq_true h

/-- lmw past its guards. -/
def multipleLoad (s : State) (r : Reg) (ea : Word) : Out :=
  let l := loadRun s ea 4 (32 - r.toNat)
  match l.stop with
  | none => advance (writeGprs l.reached r l.words)
  | some e => e.outcome (writeGprs l.reached r (l.words.take ((s.draw .lmwCount).toNat % (l.words.length + 1))))

theorem execLmw_eq {s : State} {r rA : Reg} {d : BitVec 16} (hlt : rA < r) (hu : s.gprsUsable [r, 31, rA] = true)
    (hle : s.leView = false) (ha : (eaD s rA d).toNat % 4 = 0) :
    exec (.lmw r rA d) s = multipleLoad s r (eaD s rA d) := by
  have hnamed : s.gprsUsable (r :: 31 :: namedOr0 rA) = true := by
    simpa using usable_or0 (src := [r, 31]) (tail := []) hu
  show execLmw r rA d s = _
  unfold execLmw
  dsimp only
  rw [guardForm_true (lmwOk_of_lt hlt), withGprs_of_usable hnamed,
    guardWordAligned_aligned ((lowBits_eq_zero_iff _).mpr ha), guardBigEndian_big hle]
  rfl

theorem multipleLoad_completes {s : State} {r : Reg} {ea : Word} {pas : List Word}
    (h : partAddresses s ea 4 false (32 - r.toNat) = (pas, none)) :
    multipleLoad s r ea = advance (writeGprs (loadAt s ea 4 pas).2 r (loadAt s ea 4 pas).1) := by
  simp only [multipleLoad, loadRun, h]

theorem multipleLoad_stops {s : State} {r : Reg} {ea : Word} {pas : List Word} {e : AccessStop}
    (h : partAddresses s ea 4 false (32 - r.toNat) = (pas, some e)) :
    ∃ j, j ≤ pas.length ∧
      multipleLoad s r ea = e.outcome (writeGprs (loadAt s ea 4 pas).2 r ((loadAt s ea 4 pas).1.take j)) := by
  refine ⟨(s.draw .lmwCount).toNat % (pas.length + 1), Nat.le_of_lt_succ (Nat.mod_lt _ (Nat.succ_pos _)), ?_⟩
  simp only [multipleLoad, loadRun, h, loadAt_length]

/-- What lmw does: every word loaded, or some of those before the first that does not translate. -/
theorem lmw_loads {s : State} {r rA : Reg} {d : BitVec 16} {place : Nat → Word} (hlt : rA < r)
    (hu : s.gprsUsable [r, 31, rA] = true) (hle : s.leView = false) (ha : (eaD s rA d).toNat % 4 = 0) :
    ((∀ j, j < 32 - r.toNat → translateData s (eaD s rA d + BitVec.ofNat 32 (4 * j)) false = .ok (place j)) →
      ∃ bs t, exec (.lmw r rA d) s = advance t ∧
        SeesAll s (32 - r.toNat - 1) (fun k => k / 4) (operandPlaces place (32 - r.toNat)) bs ∧
        LoadedWords (gaps s (32 - r.toNat - 1)) t r bs (32 - r.toNat) ∧
        TeaLoaded (32 - r.toNat - 1) (operandPlaces place (32 - r.toNat)) s t) ∧
    ∀ k e, k < 32 - r.toNat →
      (∀ j, j < k → translateData s (eaD s rA d + BitVec.ofNat 32 (4 * j)) false = .ok (place j)) →
      translateData s (eaD s rA d + BitVec.ofNat 32 (4 * k)) false = .error e →
      ∃ bs j t, exec (.lmw r rA d) s = e.outcome t ∧
        SeesAll s (k - 1) (fun k => k / 4) (operandPlaces place k) bs ∧ j ≤ k ∧
        LoadedWords (gaps s (k - 1)) t r bs j ∧
        (0 < k → TeaLoaded (k - 1) (operandPlaces place k) s t) ∧ (k = 0 → t = s) := by
  have htgpr := tgpr_off_of_usable (by simp) hu
  have hr := r.isLt
  rw [execLmw_eq hlt hu hle ha]
  refine ⟨fun hmap => ?_, fun k e hk hmap he => ?_⟩
  · obtain ⟨bs, hsees, hdone⟩ := loadAt_loadedWords (eaD s rA d) place htgpr (r := r) (k := 32 - r.toNat) (by omega)
    obtain ⟨hloaded, htea⟩ := hdone (32 - r.toNat) (Nat.le_refl _) _ rfl
    have hall : (loadAt s (eaD s rA d) 4 ((List.range (32 - r.toNat)).map place)).1.take (32 - r.toNat) =
        (loadAt s (eaD s rA d) 4 ((List.range (32 - r.toNat)).map place)).1 := List.take_of_length_le (by simp)
    rw [hall] at hloaded htea
    exact ⟨bs, _, multipleLoad_completes (partAddresses_all hmap), hsees, hloaded, htea (by omega)⟩
  · obtain ⟨bs, hsees, hdone⟩ := loadAt_loadedWords (eaD s rA d) place htgpr (r := r) (k := k) (by omega)
    obtain ⟨j, hj, hout⟩ := multipleLoad_stops (partAddresses_stopped hk hmap he)
    rw [List.length_map, List.length_range] at hj
    obtain ⟨hloaded, htea⟩ := hdone j hj _ rfl
    refine ⟨bs, j, _, hout, hsees, hj, hloaded, htea, fun h0 => ?_⟩
    subst h0
    rw [Nat.le_zero.mp hj]
    rfl

/- Stores of several words. -/

/-- The bytes of the first `k` of a sequence of words. -/
def storedBytes (v : Nat → Word) (k : Nat) : List Byte := (List.range k).flatMap fun j => bigEndianBytes 4 (v j).toNat

theorem storedBytes_succ (v : Nat → Word) (k : Nat) : storedBytes v (k + 1) = storedBytes v k ++ bytesBE 4 (v k) := by
  simp [storedBytes, List.range_succ, bigEndianBytes_eq]

/-- No two of the first `k` words overlap. -/
def WordsApart (place : Nat → Word) (k : Nat) : Prop :=
  ∀ i j, i < j → j < k → ∀ a ∈ placesFrom (place i) 4, a ∉ placesFrom (place j) 4

/-- One more word. -/
theorem StoresSo.word {s u : State} {m k : Nat} {place v : Nat → Word}
    (h : StoresSo s m (operandPlaces place k) (storedBytes v k) u) (hal : (place k).toNat % 4 = 0)
    (hapart : WordsApart place (k + 1)) :
    StoresSo s m (operandPlaces place (k + 1)) (storedBytes v (k + 1)) (writePhys u (place k) 4 (v k)) := by
  rw [operandPlaces_succ, storedBytes_succ]
  refine Tracks.write h _ (dvd_refl 4) hal fun a ha => ?_
  obtain ⟨i, hi, hin⟩ := List.mem_flatMap.mp ha
  exact hapart i k (List.mem_range.mp hi) (Nat.lt_succ_self k) a hin

theorem storeWords_last {u : State} {ea pa : Word} (h : translateData u ea true = .ok pa) (v : Word) :
    storeWords u ea [v] = writePhys u pa 4 v := by
  simp [storeWords, h]

theorem storeWords_next {u : State} {ea pa : Word} {rest : List Word} (h : translateData u ea true = .ok pa) (v : Word)
    (hne : rest ≠ []) : storeWords u ea (v :: rest) = storeWords (between (writePhys u pa 4 v)) (ea + 4) rest := by
  have hrest : rest.isEmpty = false := by simpa using hne
  simp [storeWords, h, hrest]

theorem word_offset_succ (ea : Word) (m : Nat) :
    ea + BitVec.ofNat 32 (4 * m) + 4 = ea + BitVec.ofNat 32 (4 * (m + 1)) := by
  rw [Nat.mul_succ, BitVec.ofNat_add, ← BitVec.add_assoc]
  rfl

/-- The stores of words from word `m` on, the earlier ones stored. -/
theorem storeWords_so {s : State} {ea : Word} {place v : Nat → Word} (ha : ea.toNat % 4 = 0) (i : Nat) {u : State} {m : Nat}
    (h : StoresSo s m (operandPlaces place m) (storedBytes v m) u)
    (hmap : ∀ j, j < m + i + 1 → translateData s (ea + BitVec.ofNat 32 (4 * j)) true = .ok (place j))
    (hapart : WordsApart place (m + i + 1)) :
    StoresSo s (m + i) (operandPlaces place (m + i + 1)) (storedBytes v (m + i + 1))
      (storeWords u (ea + BitVec.ofNat 32 (4 * m)) ((List.range (i + 1)).map fun j => v (m + j))) := by
  have hm := hmap m (by omega)
  have hu := (h.translateData (ea + BitVec.ofNat 32 (4 * m)) true).trans hm
  have hone := h.word (translateData_aligned hm (by norm_num) (next_word_aligned m ha)) fun a b hab hb =>
    hapart a b hab (by omega)
  induction i generalizing u m with
  | zero =>
    rw [show (List.range (0 + 1)).map (fun j => v (m + j)) = [v m] from rfl, storeWords_last hu]
    exact hone
  | succ i ih =>
    have hsucc (j : Nat) : m + 1 + j = m + (j + 1) := by omega
    have hwords : (List.range (i + 1 + 1)).map (fun j => v (m + j)) =
        v m :: (List.range (i + 1)).map fun j => v (m + 1 + j) := by
      rw [List.range_succ_eq_map, List.map_cons, List.map_map]
      exact congrArg _ (List.map_congr_left fun j _ => congrArg v (hsucc j).symm)
    have hnext := hmap (m + 1) (by omega)
    have hrest := ih hone.between (by rwa [hsucc]) (by rwa [hsucc]) hnext
      ((hone.between.translateData ..).trans hnext)
      (hone.between.word (translateData_aligned hnext (by norm_num) (next_word_aligned (m + 1) ha)) fun a b hab hb =>
        hapart a b hab (by omega))
    rw [hwords, storeWords_next hu _ (by simp), word_offset_succ]
    simpa only [hsucc] using hrest

/-- What the stores of the first `k` words leave. -/
theorem storeWords_effect {s : State} {ea : Word} {place v : Nat → Word} (hm : s.mem.wf = true) (ha : ea.toNat % 4 = 0)
    {k : Nat} (hmap : ∀ j, j < k → translateData s (ea + BitVec.ofNat 32 (4 * j)) true = .ok (place j))
    (hapart : WordsApart place k) :
    StoreEffect s (k - 1) (operandPlaces place k) (storedBytes v k)
      (storeWords s ea ((List.range k).map v)) ∧
    StoppedStore (gaps s (k - 1)) (storeWords s ea ((List.range k).map v)) := by
  have hstart : StoresSo s 0 (operandPlaces place 0) (storedBytes v 0) s := Tracks.refl hm
  cases k with
  | zero => exact ⟨hstart.effect fun _ a h => absurd h List.not_mem_nil, rfl⟩
  | succ i =>
    have hso := storeWords_so ha i hstart (by simpa using hmap) (by simpa using hapart)
    simp only [Nat.zero_add, Nat.mul_zero, BitVec.add_zero] at hso
    refine ⟨hso.effect fun h0 a hin hne => ?_, hso.stopped⟩
    obtain rfl : i = 0 := h0
    have hpa : translateData s ea true = .ok (place 0) := by simpa using hmap 0 (by omega)
    have hal := translateData_aligned hpa (n := 4) (by norm_num) ha
    have hplaces : operandPlaces place 1 = placesFrom (place 0) 4 := operandPlaces_succ place 0
    rw [show (List.range (0 + 1)).map v = [v 0] from rfl, storeWords_last hpa] at hne ⊢
    exact writePhys_replaced s (v 0) (dvd_refl 4) hal (hplaces ▸ hin) hne

/-- stmw past its guards. -/
def multipleStore (s : State) (r : Reg) (ea : Word) : Out :=
  let p := partAddresses s ea 4 true (32 - r.toNat)
  match p.2 with
  | none => advance (storeWords s ea (readGprs s r (32 - r.toNat)))
  | some e => e.outcome
      (storeWords s ea ((readGprs s r (32 - r.toNat)).take ((s.draw .stmwCount).toNat % (p.1.length + 1))))

theorem execStmw_eq {s : State} {r rA : Reg} {d : BitVec 16} (hu : s.gprsUsable [r, 31, rA] = true)
    (hle : s.leView = false) (ha : (eaD s rA d).toNat % 4 = 0) :
    exec (.stmw r rA d) s = multipleStore s r (eaD s rA d) := by
  have hnamed : s.gprsUsable (r :: 31 :: namedOr0 rA) = true := by
    simpa using usable_or0 (src := [r, 31]) (tail := []) hu
  show execStmw r rA d s = _
  unfold execStmw
  dsimp only
  rw [withGprs_of_usable hnamed, guardWordAligned_aligned ((lowBits_eq_zero_iff _).mpr ha), guardBigEndian_big hle]
  rfl

theorem multipleStore_completes {s : State} {r : Reg} {ea : Word} {pas : List Word}
    (h : partAddresses s ea 4 true (32 - r.toNat) = (pas, none)) : multipleStore s r ea =
      advance (storeWords s ea ((List.range (32 - r.toNat)).map (gprsFrom s r))) := by
  simp only [multipleStore, h, readGprs_eq]

theorem multipleStore_stops {s : State} {r : Reg} {ea : Word} {pas : List Word} {e : AccessStop}
    (hlen : pas.length ≤ 32 - r.toNat) (h : partAddresses s ea 4 true (32 - r.toNat) = (pas, some e)) :
    ∃ j, j ≤ pas.length ∧ multipleStore s r ea =
      e.outcome (storeWords s ea ((List.range j).map (gprsFrom s r))) := by
  have hj : (s.draw .stmwCount).toNat % (pas.length + 1) ≤ pas.length :=
    Nat.le_of_lt_succ (Nat.mod_lt _ (Nat.succ_pos _))
  refine ⟨_, hj, ?_⟩
  simp only [multipleStore, h, readGprs_eq, ← List.map_take, List.take_range, Nat.min_eq_left (hj.trans hlen)]

/-- What stmw does: every word stored, or some of those before the first that does not translate. -/
theorem stmw_stores {s : State} {r rA : Reg} {d : BitVec 16} {place : Nat → Word} (hu : s.gprsUsable [r, 31, rA] = true)
    (hle : s.leView = false) (hm : s.mem.wf = true) (ha : (eaD s rA d).toNat % 4 = 0) :
    ((∀ j, j < 32 - r.toNat → translateData s (eaD s rA d + BitVec.ofNat 32 (4 * j)) true = .ok (place j)) →
      WordsApart place (32 - r.toNat) →
      ∃ t, exec (.stmw r rA d) s = .next t ∧
        StoreEffect s (32 - r.toNat - 1) (operandPlaces place (32 - r.toNat))
          (storedBytes (gprsFrom s r) (32 - r.toNat)) t ∧
        OnlyStore none (eaD s rA d) (gaps s (32 - r.toNat - 1)) t) ∧
    ∀ k e, k < 32 - r.toNat →
      (∀ j, j < k → translateData s (eaD s rA d + BitVec.ofNat 32 (4 * j)) true = .ok (place j)) → WordsApart place k →
      translateData s (eaD s rA d + BitVec.ofNat 32 (4 * k)) true = .error e →
      ∃ j t, exec (.stmw r rA d) s = e.outcome t ∧ j ≤ k ∧
        StoreEffect s (j - 1) (operandPlaces place j) (storedBytes (gprsFrom s r) j) t ∧
        StoppedStore (gaps s (j - 1)) t ∧ (j = 0 → t = s) := by
  rw [execStmw_eq hu hle ha]
  refine ⟨fun hmap hapart => ?_, fun k e hk hmap hapart he => ?_⟩
  · obtain ⟨heff, hstop⟩ := storeWords_effect (v := gprsFrom s r) hm ha hmap hapart
    rw [multipleStore_completes (partAddresses_all hmap)]
    exact storeEffect_advance (base := none) heff hstop (gprsUsable_mono hu (by simp))
  · obtain ⟨j, hj, hout⟩ := multipleStore_stops (by simp; omega) (partAddresses_stopped hk hmap he)
    rw [List.length_map, List.length_range] at hj
    obtain ⟨heff, hstop⟩ := storeWords_effect (v := gprsFrom s r) (k := j) hm ha
      (fun i hi => hmap i (by omega)) (fun a b hab hb => hapart a b hab (by omega))
    refine ⟨j, _, hout, hj, heff, hstop, fun h0 => ?_⟩
    rw [h0]
    rfl

/-- Settles O26: what `lmw_loads` and `stmw_stores` say, with the registers, the bank and the frame told apart. -/
theorem loadStoreMultiple : Obligations.LoadStoreMultiple := by
  intro s r rA d place hu hle ea n places word bytes mapped apart ha
  refine ⟨fun hlt => ?_, fun hm => stmw_stores hu hle hm ha⟩
  obtain ⟨hcompletes, hstops⟩ := lmw_loads (d := d) (place := place) hlt hu hle ha
  refine ⟨fun hmap => ?_, fun k e hk hmap he => ?_⟩
  · obtain ⟨bs, t, hexec, hsees, hloaded, htea⟩ := hcompletes hmap
    refine ⟨bs, { t with cia := t.cia + 4 }, hexec, hsees, hloaded.loaded, fun q hq => ?_, htea, ?_, ?_⟩
    · exact (hloaded.others q (.inl hq)).trans (readGpr_gaps ..)
    · exact hloaded.bank.of_gaps
    · have hcia : t.cia = s.cia := by rw [hloaded.rest, gaps_cia]
      rw [hcia, hloaded.rest]
  · obtain ⟨bs, j, t, hexec, hsees, hj, hloaded, htea, h0⟩ := hstops k e hk hmap he
    exact ⟨bs, j, t, hexec, hsees, hj, hloaded.loaded, fun q hq => (hloaded.others q hq).trans (readGpr_gaps ..), htea,
      hloaded.bank.of_gaps, h0, hloaded.rest⟩

end Sys2Proof.Machine

section
/-!
SUPPORT. The flow-control family: branches, traps, the condition-register moves and the system call.
-/

/-!
Branches (O29, O30).
-/
namespace Sys2Proof.Machine

/- Displacements and targets (spec/30_encoding.md R255, spec/44_flow_control.md R571 to R576). -/

/-- A displacement with two zeros appended, extended to a word, is four times its signed value. -/
theorem signExtend_append_zeros {n : Nat} (hn : n ≠ 0) (h : n + 2 ≤ 32) (d : BitVec n) :
    (d ++ (0 : BitVec 2)).signExtend 32 = BitVec.ofInt 32 (4 * d.toInt) := by
  have happend : (d ++ (0 : BitVec 2)).toInt = 2 ^ 2 * d.toInt + (0 : Nat) :=
    BitVec.toInt_append.trans (if_neg fun h0 => hn (beq_iff_eq.mp h0))
  rw [← BitVec.ofInt_toInt (x := (d ++ (0 : BitVec 2)).signExtend 32), BitVec.toInt_signExtend_of_le h]
  congr 1
  omega

theorem sextLI_eq (li : BitVec 24) : sextLI li = BitVec.ofInt 32 (4 * li.toInt) :=
  signExtend_append_zeros (by decide) (by decide) li

theorem sextBD_eq (bd : BitVec 14) : sextBD bd = BitVec.ofInt 32 (4 * bd.toInt) :=
  signExtend_append_zeros (by decide) (by decide) bd

/-- An absolute displacement counts from address 0. -/
theorem displaced_eq (aa : Bool) (cia v : Word) : (if aa then v else cia + v) = (if aa then 0 else cia) + v := by
  cases aa
  · rfl
  · exact (BitVec.zero_add v).symm

/-- An instruction address is the upper 30 bits of a word followed by two zeros. -/
theorem wordAlign_eq_append (a : Word) : wordAlign a = a.extractLsb' 2 30 ++ (0 : BitVec 2) := by
  have ha := a.isLt
  apply BitVec.eq_of_toNat_eq
  rw [wordAlign_eq, BitVec.toNat_append, ← Nat.shiftLeft_add_eq_or_of_lt (by decide), BitVec.extractLsb'_toNat,
    BitVec.toNat_ofNat, Nat.shiftLeft_eq, Nat.shiftRight_eq_div_pow, show (0 : BitVec 2).toNat = 0 from rfl]
  omega

/-- The state after a branch, its target by division (R570). -/
theorem branchTo_eq (s : State) (taken lk : Bool) (a : Word) :
    branchTo s taken lk a = { s with
      lr := if lk then s.cia + 4 else s.lr
      cia := if taken then BitVec.ofNat 32 (a.toNat / 4 * 4) else s.cia + 4 } := by
  rw [branchTo, wordAlign_eq]

theorem branchCtrOk_eq (bo : BitVec 5) (ctr : Word) :
    branchCtrOk bo ctr = (bo.getLsbD 2 || (decide (ctr ≠ 0) != bo.getLsbD 1)) := by
  have hne : (ctr != 0) = decide (ctr ≠ 0) := by rw [Bool.eq_iff_iff, bne_iff_ne, decide_eq_true_iff]
  rw [branchCtrOk, hne]

/- Each form as a `branchTo`, the conditional ones where BO is valid. -/

theorem exec_b (li : BitVec 24) (aa lk : Bool) (s : State) :
    exec (.b li aa lk) s = .next (branchTo s true lk (if aa then sextLI li else s.cia + sextLI li)) := rfl

section
variable {bo : BitVec 5} (hbo : boOk bo = true) (bi : BitVec 5) (lk : Bool) (s : State)
include hbo

theorem exec_bc_valid (bd : BitVec 14) (aa : Bool) : exec (.bc bo bi bd aa lk) s =
    .next (branchTo { s with ctr := branchCtr bo s.ctr } (branchTaken bo bi s.ctr s.cr) lk
      (if aa then sextBD bd else s.cia + sextBD bd)) := guardForm_true hbo

theorem exec_bclr_valid : exec (.bclr bo bi lk) s =
    .next (branchTo { s with ctr := branchCtr bo s.ctr } (branchTaken bo bi s.ctr s.cr) lk s.lr) := guardForm_true hbo

theorem exec_bcctr_valid (h2 : bo.getLsbD 2 = true) : exec (.bcctr bo bi lk) s =
    .next (branchTo s (branchCondOk bo bi s.cr) lk s.ctr) :=
  guardForm_true (by rw [bcctrOk, hbo, h2]; rfl)

end

/-- Settles O29: each is `branchTo`, with the decision and the target of its form. -/
theorem branches : Obligations.Branches := by
  intro s bo bi bd li aa lk ctr cond taken target aligned goes
  have htaken : branchTaken bo bi s.ctr s.cr = taken := by
    rw [branchTaken, branchCtrOk_eq]
    rfl
  refine ⟨?_, fun hbo => ⟨?_, ?_⟩, fun hbo h2 => ?_⟩
  · change exec _ s = _
    rw [exec_b, branchTo_eq, displaced_eq, sextLI_eq]
  · change exec _ s = _
    rw [exec_bc_valid hbo, branchTo_eq, htaken, displaced_eq, sextBD_eq]
    rfl
  · change exec _ s = _
    rw [exec_bclr_valid hbo, branchTo_eq, htaken]
    rfl
  · change exec _ s = _
    rw [exec_bcctr_valid hbo bi lk s h2, branchTo_eq]
    rfl

/-- Settles O30: with BO = 20 nothing is tested and CTR is kept, so each goes to its register, aligned. -/
theorem branchTargetRegisters : Obligations.BranchTargetRegisters := by
  intro s bi
  have hbclr (lk : Bool) : exec (.bclr 20 bi lk) s = .next (branchTo s true lk s.lr) := exec_bclr_valid rfl bi lk s
  have hbcctr (lk : Bool) : exec (.bcctr 20 bi lk) s = .next (branchTo s true lk s.ctr) :=
    exec_bcctr_valid rfl bi lk s rfl
  rw [hbclr, hbclr, hbcctr, hbcctr, ← wordAlign_eq_append, ← wordAlign_eq_append]
  exact ⟨rfl, rfl, rfl, rfl⟩

end Sys2Proof.Machine

/-!
Traps and the system call (O31, O33).
-/
namespace Sys2Proof.Machine

/-- The trap condition as the comparisons it selects (R590). -/
theorem trapCondition_iff (trapOn : BitVec 5) (a b : Word) : trapCondition trapOn a b = true ↔
    (trapOn.getLsbD 4 = true ∧ a.toInt < b.toInt) ∨ (trapOn.getLsbD 3 = true ∧ b.toInt < a.toInt) ∨
      (trapOn.getLsbD 2 = true ∧ a = b) ∨ (trapOn.getLsbD 1 = true ∧ a.toNat < b.toNat) ∨
      (trapOn.getLsbD 0 = true ∧ b.toNat < a.toNat) := by
  simp only [trapCondition, Bool.or_eq_true, Bool.and_eq_true, BitVec.slt_iff_toInt_lt, BitVec.ult_iff_toNat_lt,
    beq_iff_eq, or_assoc]

theorem trapCondition_all (a b : Word) : trapCondition 31 a b = true := by
  rw [trapCondition_iff]
  obtain h | h | h := lt_trichotomy a.toInt b.toInt
  · exact .inl ⟨rfl, h⟩
  · exact .inr (.inr (.inl ⟨rfl, BitVec.eq_of_toInt_eq h⟩))
  · exact .inr (.inl ⟨rfl, h⟩)

theorem trapCondition_none (a b : Word) : trapCondition 0 a b = false := rfl

/-- The low half of a vector address is the offset, whatever the prefix (spec/60_exceptions.md R743). -/
theorem vectorAddress_low (e : Exception) (ip : Bool) (ibr : Word) :
    (vectorAddress e ip ibr).setWidth 16 = e.offset.setWidth 16 := by
  have hprefix {p : Word} (h : p.setWidth 16 = 0#16) : (p ||| e.offset).setWidth 16 = e.offset.setWidth 16 := by
    rw [BitVec.setWidth_or, h, BitVec.zero_or]
  unfold vectorAddress
  split
  · exact hprefix rfl
  · split
    · rfl
    · refine hprefix ?_
      rw [BitVec.setWidth_and]
      exact BitVec.and_zero

/-- The trap exception tells its cause in SRR1 and goes to offset 0x0700 (R590). -/
theorem takeException_trap (a : Word) (s : State) :
    ibmBit (takeException .program a infoTrap s).srr1 14 = true ∧
      (takeException .program a infoTrap s).cia.toNat % 2 ^ 16 = 0x0700 := by
  constructor
  · rw [takeException_srr1, entrySrr1_other (by decide), ibmBit_or, show ibmBit infoTrap 14 = true from rfl,
      Bool.or_true]
  · rw [← BitVec.toNat_setWidth, takeException_cia, vectorAddress_low]
    rfl

/-- Settles O31: each is `trapIf` on the trap condition of its two operands. -/
theorem traps : Obligations.Traps := by
  intro s trapOn rA rB simm traps
  have traps_of_eq {i : Instr} {a b : Word} (h : exec i s = trapIf s (trapCondition trapOn a b)) : traps i a b := by
    refine ⟨fun hit => ?_, fun hit => ?_, ?_, ?_⟩
    · rw [← trapCondition_iff] at hit
      exact ⟨takeException .program s.cia infoTrap s, by rw [h, hit, trapIf_true], rfl, rfl, takeException_trap s.cia s⟩
    · rw [← trapCondition_iff, Bool.not_eq_true] at hit
      rw [h, hit, trapIf_false]
    · rintro rfl
      exact (trapCondition_iff ..).mp (trapCondition_all a b)
    · rintro rfl hit
      exact Bool.false_ne_true ((trapCondition_none a b).symm.trans ((trapCondition_iff ..).mpr hit))
  exact ⟨fun hu => traps_of_eq (withGprs_of_usable hu), fun hu => traps_of_eq (withGprs_of_usable hu)⟩

/-- The MSR an exception leaves that is neither a machine check nor a miss (spec/60_exceptions.md R741). -/
theorem entryMsr_plain {e : Exception} (hcheck : e ≠ .machineCheck) (hmiss : e.isMiss = false) (old : Word) :
    entryMsr e old = (old &&& 0x00011040) ||| (if ibmBit old 15 then 1 else 0) := by
  have hile : (old &&& msrILE != 0) = ibmBit old 15 := and_twoPow_ne_zero old 16 (by omega)
  simp only [entryMsr, if_neg hcheck, hmiss, hile]
  exact BitVec.or_zero

/-- Settles O33: `sc` is one exception entry that saves the next address. -/
theorem systemCall : Obligations.SystemCall := by
  intro s
  refine ⟨takeException .systemCall (s.cia + 4) 0 s, rfl, rfl, ?_, rfl, ?_, fun _ => rfl, ?_⟩
  · rw [takeException_srr1, entrySrr1_other (by decide)]
    exact BitVec.or_zero
  · exact entryMsr_plain (by decide) rfl s.msr
  · have hdec : (s.decPending && Exception.systemCall != .decrementer) = s.decPending := Bool.and_true _
    have hwdt : (s.wdtPending && Exception.systemCall != .watchdog) = s.wdtPending := Bool.and_true _
    rw [takeException_rest, hdec, hwdt]

end Sys2Proof.Machine

/-!
The condition register (O32).
-/
namespace Sys2Proof.Machine

/-- An instruction that writes CR bit `d` sets that bit, keeps the 31 others and goes on (spec/44_flow_control.md R600). -/
theorem writesCrBit_of_eq {i : Instr} {s : State} {d : BitVec 5} {v : Bool} (h : exec i s = advance (setCrBit s d v)) :
    ∃ t, exec i s = .next t ∧ ibmBit t.cr d.toNat = v ∧ (∀ k, k < 32 → k ≠ d.toNat → ibmBit t.cr k = ibmBit s.cr k) ∧
      t = { s with cr := t.cr, cia := s.cia + 4 } :=
  ⟨_, h, ibmBit_setIbmBit_same _ _ _ d.isLt, fun _ hk hne => ibmBit_setIbmBit_other _ _ _ _ hk hne, rfl⟩

/-- A CR field that takes a field of another word takes that field's four bits. -/
theorem crFieldIs_field4 (s : State) (n m : BitVec 3) (w : Word) :
    CrFieldIs n (ibmBit w (4 * m.toNat)) (ibmBit w (4 * m.toNat + 1)) (ibmBit w (4 * m.toNat + 2))
      (ibmBit w (4 * m.toNat + 3)) s (setCrField s n (field4 w m)) := by
  rw [field4_eq_crBits]
  exact crFieldIs_setCrField ..

/-- `mcrxr` clears XER bits 0 to 3 (spec/45_processor_control.md R634). -/
theorem ibmBit_clearFirstFour (w : Word) {k : Nat} (hk : k < 32) :
    ibmBit (w &&& 0x0FFFFFFF) k = (ibmBit w k && decide (4 ≤ k)) := by
  have hmask : ∀ k < 32, ibmBit 0x0FFFFFFF k = decide (4 ≤ k) := by decide
  rw [ibmBit_and, hmask k hk]

/-- Settles O32: the logical instructions set one bit, `mcrf` and `mcrxr` one field, `mtcrf` the fields of its mask. -/
theorem conditionRegister : Obligations.ConditionRegister := by
  intro s d a b fd fs r crm writes
  refine ⟨writesCrBit_of_eq rfl, writesCrBit_of_eq rfl, writesCrBit_of_eq rfl, writesCrBit_of_eq rfl,
    writesCrBit_of_eq rfl, writesCrBit_of_eq rfl, writesCrBit_of_eq rfl, writesCrBit_of_eq rfl, ?_, ?_,
    fun hu => ⟨?_, ?_⟩⟩
  · exact ⟨_, rfl, crFieldIs_field4 s fd fs s.cr, rfl⟩
  · exact ⟨_, rfl, crFieldIs_field4 s fd 0 s.xer, fun _ => ibmBit_clearFirstFour s.xer, rfl⟩
  · exact computes_of_outcome (withGprs_of_usable hu) (writeAdvance_computes r s.cr s)
  · refine ⟨_, withGprs_of_usable hu, fun k hk => ?_, rfl⟩
    rw [← ibmBit_fieldMask crm hk]
    exact ibmBit_merge _ _ _ hk

end Sys2Proof.Machine

end

section
/-!
SUPPORT. The processor-control family: the MSR moves, synchronisation, and supervisor access by `esa` and `dsa`.
-/

/-!
Synchronisation (O38).
-/
namespace Sys2Proof.Machine

/-- Settles O38: each is one record update and `advance`; what `sync` leaves of the TLBs is `settleTlbs_windows`. -/
theorem synchronisation : Obligations.Synchronisation := by
  intro s
  refine ⟨⟨_, rfl, ?_, fun _ => rfl, rfl⟩, ⟨_, rfl, rfl, fun _ => rfl, rfl⟩, rfl⟩
  exact settleTlbs_windows (mapStale syncPhase s)

end Sys2Proof.Machine

/-!
The MSR moves (O37).
-/
namespace Sys2Proof.Machine

/-- What `mtmsr` of `v` leaves before a floating-point exception it enables (spec/45_processor_control.md R631). -/
def msrMoved (s : State) (v : Word) (p : Option PowerState) : State :=
  openWindow s { s with msr := v &&& msrImplemented, powPending := p }

theorem msrMoved_msr (s : State) (v : Word) (p : Option PowerState) : (msrMoved s v p).msr = v &&& msrImplemented :=
  openWindow_msr ..

theorem msrMoved_rest (s : State) (v : Word) (p : Option PowerState) :
    msrMoved s v p = { s with
      msr := (msrMoved s v p).msr, powPending := p, windows := (msrMoved s v p).windows } := by
  rw [msrMoved, openWindow_eq]

theorem msrMoved_windows (s : State) (v : Word) (p : Option PowerState) :
    ∀ c ∈ (msrMoved s v p).windows, c ∈ s.windows ∨ c = s.ctx := by
  intro c hc
  rw [msrMoved, openWindow_eq] at hc
  dsimp only at hc
  split at hc
  · exact .inl hc
  · exact (List.mem_cons.mp hc).symm

/-- The move enables a pending floating-point exception that was disabled (spec/60_exceptions.md R757). -/
def EnablesFex (s : State) (v : Word) : Prop :=
  s.msr &&& msrFE = 0 ∧ v &&& msrFE ≠ 0 ∧ ibmBit s.fpscr 1 = true

/-- FE0 and FE1 are implemented bits, so `mtmsr` moves them as they are. -/
theorem mtmsr_traps_iff (s : State) (v : Word) (p : Option PowerState) :
    (!s.msrBit msrFE && fpTrapEnabled (msrMoved s v p).msr (msrMoved s v p).fpscr) = true ↔ EnablesFex s v := by
  have hfpscr : (msrMoved s v p).fpscr = s.fpscr := openWindow_fpscr ..
  have hmask : msrImplemented &&& msrFE = msrFE := rfl
  rw [msrMoved_msr, hfpscr, State.msrBit, fpTrapEnabled, BitVec.and_assoc, hmask, EnablesFex]
  simp

section
variable {s : State} {r : Reg} (hpr : s.prView = false) (hu : s.gprsUsable [r] = true)
include hpr hu

/-- `mtmsr` where the power mode it selects is a definite one. -/
theorem exec_mtmsr_selected {p : Option PowerState} (hp : selectPower s (s.readGpr r) = .ok p) :
    (¬EnablesFex s (s.readGpr r) →
      exec (.mtmsr r) s = .next { msrMoved s (s.readGpr r) p with cia := s.cia + 4 }) ∧
    (EnablesFex s (s.readGpr r) →
      exec (.mtmsr r) s = .next (takeException .program (s.cia + 4) infoFpEnabled (msrMoved s (s.readGpr r) p))) := by
  have hcia : (msrMoved s (s.readGpr r) p).cia = s.cia := openWindow_cia ..
  have hexec : exec (.mtmsr r) s =
      if (!s.msrBit msrFE &&
        fpTrapEnabled (msrMoved s (s.readGpr r) p).msr (msrMoved s (s.readGpr r) p).fpscr) = true then
        .next (takeException .program (s.cia + 4) infoFpEnabled (msrMoved s (s.readGpr r) p))
      else advance (msrMoved s (s.readGpr r) p) := by
    refine (supervisor_body hpr hu).trans ?_
    rw [hp]
    rfl
  have htraps := mtmsr_traps_iff s (s.readGpr r) p
  refine ⟨fun h => ?_, fun h => hexec.trans (if_pos (htraps.mpr h))⟩
  rw [hexec, if_neg (mt htraps.mp h), advance_next, hcia]

/-- `mtmsr` where HID0 selects more than one mode (spec/60_exceptions.md R801). -/
theorem exec_mtmsr_fault {f : Fault} (hp : selectPower s (s.readGpr r) = .error (.fault f)) :
    exec (.mtmsr r) s = .fault f := by
  refine (supervisor_body hpr hu).trans ?_
  rw [hp]
  rfl

end

/-- With POW = 0 no mode is selected (spec/60_exceptions.md R801). -/
theorem selectPower_none {s : State} {v : Word} (h : v &&& msrPOW = 0) : selectPower s v = .ok none :=
  if_pos (beq_iff_eq.mpr h)

/-- Settles O37: `mtmsr` is `exec_mtmsr_selected` or `exec_mtmsr_fault`, by the settings of doze, nap and sleep. -/
theorem machineStateMoves : Obligations.MachineStateMoves := by
  intro s r hu hpr v enables selected moves
  have hmoves {p : Option PowerState} (hp : selectPower s v = .ok p) : moves p :=
    ⟨msrMoved s v p, msrMoved_msr s v p, msrMoved_windows s v p, msrMoved_rest s v p, exec_mtmsr_selected hpr hu hp⟩
  have hfault := exec_mtmsr_fault (f := .powerModeSelect) hpr hu
  refine ⟨computes_of_eq (supervisor_body hpr hu) rfl, fun hpow => hmoves (selectPower_none hpow), fun hpow hw => ?_⟩
  have hne : ¬(v &&& msrPOW == 0) = true := mt beq_iff_eq.mp hpow
  have hsel := selectPower.eq_def s v
  rw [if_neg hne, hid0View_settled hw] at hsel
  generalize hd : selected (·.doze) = doze
  generalize hn : selected (·.nap) = nap
  generalize hl : selected (·.sleep) = sleep
  rw [show hid0Field (·.doze) s.hid0 = doze from hd, show hid0Field (·.nap) s.hid0 = nap from hn,
    show hid0Field (·.sleep) s.hid0 = sleep from hl] at hsel
  match doze, nap, sleep with
  | false, false, false => exact hmoves hsel
  | true, false, false => exact hmoves hsel
  | false, true, false => exact hmoves hsel
  | false, false, true => exact hmoves hsel
  | true, true, false => exact hfault hsel
  | true, true, true => exact hfault hsel
  | true, false, true => exact hfault hsel
  | false, true, true => exact hfault hsel

end Sys2Proof.Machine

/-!
Supervisor access (O39).
-/
namespace Sys2Proof.Machine

/- Where `esa` is permitted (spec/20_memory.md R185). -/

section
variable {s : State} (hir : s.irView = true)
include hir

theorem esaPermitted_block {k : Fin 4} (h : ibatHits s = [k]) :
    esaPermitted s = (batLower s.ibatView k).getLsbD ibatSeBit := by
  simp [esaPermitted, hir, h]

theorem esaPermitted_manyBlocks {j k : Fin 4} {rest : List (Fin 4)} (h : ibatHits s = j :: k :: rest) :
    esaPermitted s = false := by
  simp [esaPermitted, hir, h]

theorem esaPermitted_noBlock (h : ibatHits s = []) :
    esaPermitted s = (protectionOnly s && (s.cia &&& 0xFFFE0000 == s.sebr &&& 0xFFFE0000) &&
      ibmBit s.ser (s.cia.extractLsb' 12 5).toNat) := by
  simp [esaPermitted, hir, h]

end

/-- Two addresses lie in the same 128 Kbytes. -/
theorem same128K_iff (v w : Word) : v &&& 0xFFFE0000 = w &&& 0xFFFE0000 ↔ v.toNat / 2 ^ 17 = w.toNat / 2 ^ 17 := by
  have hv := v.isLt
  have hw := w.isLt
  rw [and_highMask_eq v 0xFFFE0000 17 (by decide), and_highMask_eq w 0xFFFE0000 17 (by decide), ← BitVec.toNat_inj,
    BitVec.toNat_ofNat, BitVec.toNat_ofNat]
  omega

/-- Where no IBAT matches, `esa` is permitted by SEBR and SER in protection-only mode. -/
theorem esaPermitted_noBlock_iff {s : State} (hir : s.irView = true) (h : ibatHits s = []) :
    esaPermitted s = true ↔ protectionOnly s = true ∧ s.cia.toNat / 2 ^ 17 = s.sebr.toNat / 2 ^ 17 ∧
      ibmBit s.ser (s.cia.toNat / 2 ^ 12 % 32) = true := by
  have hpage : (s.cia.extractLsb' 12 5).toNat = s.cia.toNat / 2 ^ 12 % 32 := by
    rw [BitVec.extractLsb'_toNat, Nat.shiftRight_eq_div_pow]
  rw [esaPermitted_noBlock hir h, Bool.and_eq_true, Bool.and_eq_true, beq_iff_eq, same128K_iff, hpage, and_assoc]

/-- Where `esa` is permitted, by the IBATs that match CIA: none, one, or more. -/
theorem esaPermitted_iff {s : State} (hir : s.irView = true) :
    esaPermitted s = true ↔
      (∃ k ∈ ibatHits s, (∀ j, j ≠ k → j ∉ ibatHits s) ∧ (batLower s.ibatView k).getLsbD ibatSeBit = true) ∨
      ((∀ k, k ∉ ibatHits s) ∧ protectionOnly s = true ∧ s.cia.toNat / 2 ^ 17 = s.sebr.toNat / 2 ^ 17 ∧
        ibmBit s.ser (s.cia.toNat / 2 ^ 12 % 32) = true) := by
  have hnodup : (ibatHits s).Nodup := List.Nodup.filter _ (by decide)
  match h : ibatHits s with
  | [] => simp [esaPermitted_noBlock_iff hir h]
  | [k] => simp [esaPermitted_block hir h]
  | a :: b :: rest =>
    rw [h] at hnodup
    have hab : a ≠ b := fun e => (List.nodup_cons.mp hnodup).1 (e ▸ List.mem_cons_self)
    rw [esaPermitted_manyBlocks hir h]
    refine iff_of_false Bool.false_ne_true ?_
    rintro (⟨k, -, hother, -⟩ | ⟨hnone, -⟩)
    · have hk {j : Fin 4} (hj : j ∈ a :: b :: rest) : j = k := by_contra fun hne => hother j hne hj
      exact hab ((hk (by simp)).trans (hk (by simp)).symm)
    · exact hnone a List.mem_cons_self

theorem esaPermitted_real {s : State} (hir : s.irView = false) : esaPermitted s = false := by
  simp [esaPermitted, hir]

/- What `esa` and `dsa` leave (spec/45_processor_control.md R650, R651). -/

/-- An MSR with PR = 0 is effective at once: no old PR stays possible. -/
theorem supervisorAccess_prView {s : State} {msr : Word} (h : msr &&& msrPR = 0) :
    (supervisorAccess s msr).prView = false := by
  simp [State.prView, State.view, supervisorAccess, State.ctx, State.msrBit, h]

theorem clear_and_self (w m : Word) : w &&& ~~~m &&& m = 0 := by
  rw [BitVec.and_assoc, BitVec.and_comm (~~~m), BitVec.and_not_self]
  exact BitVec.and_zero

/-- Under its mask a merged word is the word merged in. -/
theorem merge_masked (m v w : Word) : merge m v w &&& m = v &&& m := by
  rw [merge, BitVec.and_or_distrib_right, clear_and_self, BitVec.and_assoc, BitVec.and_self]
  exact BitVec.or_zero

/-- What a permitted `esa` leaves. -/
def esaEntered (s : State) : State :=
  { supervisorAccess { s with esasrr := s.msr &&& esaMask } ((s.msr &&& ~~~msrPR) ||| msrSA) with cia := s.cia + 4 }

theorem exec_esa_permitted {s : State} (h : esaPermitted s = true) : exec .esa s = .next (esaEntered s) := if_pos h

theorem exec_esa_denied {s : State} (h : esaPermitted s = false) : exec .esa s = raisePrivileged s :=
  if_neg (ne_true_of_eq_false h)

theorem esaEntered_prView (s : State) : (esaEntered s).prView = false := by
  have hpr : ((s.msr &&& ~~~msrPR) ||| msrSA) &&& msrPR = 0 := by
    rw [BitVec.and_or_distrib_right, clear_and_self]
    rfl
  exact supervisorAccess_prView (s := { s with esasrr := s.msr &&& esaMask }) hpr

/-- What `dsa` leaves in supervisor mode. -/
def dsaLeft (s : State) : State := { supervisorAccess s (merge esaMask s.esasrr s.msr) with cia := s.cia + 4 }

theorem exec_dsa_supervisor {s : State} (h : s.prView = false) : exec .dsa s = .next (dsaLeft s) :=
  guardSupervisor_supervisor h

/-- A `dsa` after a permitted `esa` gives back PR, AP, SA and EE. -/
theorem dsaLeft_esaEntered (s : State) : (dsaLeft (esaEntered s)).msr &&& esaMask = s.msr &&& esaMask := by
  refine (merge_masked esaMask (s.msr &&& esaMask) _).trans ?_
  rw [BitVec.and_assoc, BitVec.and_self]

/-- Settles O39: permission is `esaPermitted_iff` of the IBATs as they stand; the moves are `esaEntered` and `dsaLeft`.
(The name `supervisorAccess` is the model's function.) -/
theorem supervisorAccess_holds : Obligations.SupervisorAccess := by
  intro s four mask hits
  refine ⟨fun hw => ?_, fun h => ?_, exec_esa_denied, fun h => ⟨dsaLeft s, exec_dsa_supervisor h, rfl, rfl⟩,
    guardSupervisor_user⟩
  · have hbats : s.ibatView = s.ibat.get := ibatView_settled hw
    have hhits (k : Fin 4) : k ∈ ibatHits s ↔ hits k := by
      rw [ibatHits, mem_batHits, batMatches_iff, batMask_eq, prView_settled hw, hbats]
      rfl
    have hlower (k : Fin 4) : batLower s.ibatView k = s.ibat[2 * k.val + 1] := by
      rw [hbats]
      rfl
    rw [← irView_settled hw]
    cases hir : s.irView with
    | false => simp [esaPermitted_real hir]
    | true =>
      rw [esaPermitted_iff hir]
      simp only [hhits, hlower, true_and]
  · exact ⟨esaEntered s, exec_esa_permitted h, rfl, rfl, esaEntered_prView s, rfl,
      dsaLeft (esaEntered s), exec_dsa_supervisor (esaEntered_prView s), dsaLeft_esaEntered s⟩

end Sys2Proof.Machine

end

section
/-!
SUPPORT. The memory-control family: the cache block that `dcbz` sets to zero.
-/

/-!
dcbz (O44; spec/46_memory_control.md R671, spec/60_exceptions.md R755, spec/20_memory.md R220).
-/
namespace Sys2Proof.Machine

/- The words that a block write replaces (spec/20_memory.md R220). -/

/-- The places of an aligned word are the addresses in it. -/
theorem mem_placesFrom_word_iff {pa a : Word} (hp : pa.toNat % 4 = 0) :
    a ∈ placesFrom pa 4 ↔ a.toNat / 4 = pa.toNat / 4 := by
  have ha := a.isLt
  have hpa := pa.isLt
  rw [mem_placesFrom_iff (by omega), BitVec.toNat_sub]
  omega

/-- A byte of the aligned word of an address. -/
theorem wordAlign_byte_word (a : Word) {k : Nat} (hk : k < 4) :
    (wordAlign a + BitVec.ofNat 32 k).toNat / 4 = a.toNat / 4 := by
  have ha := a.isLt
  rw [wordAlign_eq, BitVec.toNat_add, BitVec.toNat_ofNat, BitVec.toNat_ofNat]
  omega

/-- A word write leaves the words elsewhere. -/
theorem writePhys_readWordAt_other (s : State) {pa a : Word} (v : Word) (hp : pa.toNat % 4 = 0) (ha : a ∉ placesFrom pa 4) :
    readWordAt (writePhys s pa 4 v) a = readWordAt s a := by
  have hbyte (k : Nat) (hk : k < 4) : readByte (writePhys s pa 4 v) (wordAlign a + BitVec.ofNat 32 k) =
      readByte s (wordAlign a + BitVec.ofNat 32 k) := by
    refine writePhys_readByte_other s pa _ 4 v fun j hj he => ha ((mem_placesFrom_word_iff hp).mpr ?_)
    rw [← wordAlign_byte_word a hk]
    exact (mem_placesFrom_word_iff hp).mp (mem_placesFrom.mpr ⟨j, hj, he⟩)
  exact congrArg wordOfBE (List.map_congr_left fun k hk => hbyte k (List.mem_range.mp hk))

/-- Words written one after another keep the records there were. -/
theorem writeBlock_stale_suffix (s : State) (pa : Word) (ws : List Word) : s.stale <:+ (writeBlock s pa ws).stale := by
  induction ws generalizing s pa with
  | nil => exact List.suffix_refl _
  | cons w rest ih =>
    obtain ⟨l, hl, -⟩ := writePhys_stale s pa 4 w
    exact (List.suffix_append l s.stale).trans (hl ▸ ih (writePhys s pa 4 w) (pa + 4))

/-- A word that differs after words were written one after another has its record: made by the first write if that one
changed it, else by a later one. -/
theorem writeBlock_replaced (s : State) {pa : Word} (ws : List Word) (hp : pa.toNat % 4 = 0) {a : Word}
    (hne : readWordAt (writeBlock s pa ws) a ≠ readWordAt s a) :
    ∃ e ∈ (writeBlock s pa ws).stale, e.addr = wordAlign a ∧ e.old = readWordAt s a ∧ e.phase = .stored := by
  induction ws generalizing s pa with
  | nil => exact absurd rfl hne
  | cons w rest ih =>
    by_cases hfirst : readWordAt (writePhys s pa 4 w) a = readWordAt s a
    · rw [← hfirst] at hne ⊢
      exact ih (writePhys s pa 4 w) (next_word_aligned 1 hp) hne
    · have ha : a ∈ placesFrom pa 4 := by_contra fun hout => hfirst (writePhys_readWordAt_other s w hp hout)
      obtain ⟨e, he, hrecord⟩ := writePhys_replaced s w (dvd_refl 4) hp ha hfirst
      exact ⟨e, (writeBlock_stale_suffix _ _ rest).subset he, hrecord⟩

/- The block set to zero. -/

/-- The state in which the block of `pa` is zero. -/
def zeroedBlock (s : State) (pa : Word) : State := writeBlock s (blockAlign pa) (List.replicate 8 0)

theorem zeroedBlock_tracks {s : State} (hm : s.mem.wf = true) (pa : Word) :
    Tracks s s (zeroedBlock s pa) [] (blockPlaces pa) (List.replicate 32 0) :=
  writeBlock_tracks hm pa fun _ => 0

theorem zeroedBlock_effect {s : State} (hm : s.mem.wf = true) (pa : Word) :
    StoreEffect s 0 (blockPlaces pa) (List.replicate 32 0) (zeroedBlock s pa) := by
  have hal : (blockAlign pa).toNat % 4 = 0 := by
    rw [blockAlign_eq, block_toNat]
    omega
  have hso : StoresSo s 0 (blockPlaces pa) (List.replicate 32 0) (zeroedBlock s pa) := zeroedBlock_tracks hm pa
  exact hso.effect fun _ a _ hne => writeBlock_replaced s (List.replicate 8 0) hal hne

/- The alignment exception (spec/60_exceptions.md R755). -/

/-- The opcode stands in DSISR bits 0 to 21 whether or not the register fields are known. -/
theorem alignmentDsisr_head {w : Word} {head : Nat} {r rA : Reg} (h : AlignmentImage w head r rA) (s : State)
    (rSKnown rAKnown : Bool) : (alignmentDsisr s w rSKnown rAKnown).toNat / 2 ^ 10 = head := by
  have hop := h.opcode
  have hzero15 : (0 : BitVec 15).toNat = 0 := rfl
  have hzero2 : (0 : BitVec 2).toNat = 0 := rfl
  simp only [alignmentDsisr, toNat_append_add, beq_iff_eq]
  generalize hx : BitVec.toNat (if rSKnown = true then fA w else BitVec.extractLsb' 5 5 (s.draw .dsisrAlign)) = x
  generalize hy : BitVec.toNat (if rAKnown = true then fB w else BitVec.extractLsb' 0 5 (s.draw .dsisrAlign)) = y
  have hxlt : x < 2 ^ 5 := hx ▸ BitVec.isLt _
  have hylt : y < 2 ^ 5 := hy ▸ BitVec.isLt _
  split_ifs at hop ⊢ <;> omega

theorem encode_dcbz_image (rA rB : Reg) : AlignmentImage (encode (.dcbz rA rB)) 0b1011111 0 rA :=
  encX_image (xo := 1014) (by decide) 0 rA rB false

theorem takeAlignment_dcbz (s : State) (rA rB : Reg) (ea : Word) :
    ∃ dsisr : Word, dsisr.toNat / 2 ^ 10 = 0b1011111 ∧
      Raises (takeAlignment s (encode (.dcbz rA rB)) false false ea) .alignment 0 { s with dsisr := dsisr, dar := ea } :=
  ⟨_, alignmentDsisr_head (encode_dcbz_image rA rB) s false false, rfl⟩

/- The instruction. -/

/-- dcbz past its guards: what it does with a mapping. -/
def dcbzMapped (s : State) (rA rB : Reg) (m : Mapping) : Out :=
  if m.wi then takeAlignment s (encode (.dcbz rA rB)) false false (eaX s rA rB)
  else proceed (orStop s (checkMapping (eaX s rA rB) true m)) fun pa => advance (zeroedBlock s pa)

theorem exec_dcbz {s : State} {rA rB : Reg} (hu : s.gprsUsable [rA, rB] = true) (hle : s.leView = false) :
    exec (.dcbz rA rB) s = proceed (orStop s (dataMapping s (eaX s rA rB) true)) (dcbzMapped s rA rB) := by
  have hnamed : s.gprsUsable (namedOr0 rA ++ [rB]) = true := usable_or0 (src := []) hu
  show execDcbz rA rB s = _
  unfold execDcbz
  dsimp only
  rw [withGprs_of_usable hnamed, guardBigEndian_big hle]
  rfl

theorem exec_dcbz_unmapped {s : State} {rA rB : Reg} {e : AccessStop} (hu : s.gprsUsable [rA, rB] = true)
    (hle : s.leView = false) (he : dataMapping s (eaX s rA rB) true = .error e) :
    exec (.dcbz rA rB) s = e.outcome s := by
  rw [exec_dcbz hu hle, he]
  rfl

theorem exec_dcbz_mapped {s : State} {rA rB : Reg} {m : Mapping} (hu : s.gprsUsable [rA, rB] = true)
    (hle : s.leView = false) (hm : dataMapping s (eaX s rA rB) true = .ok m) :
    exec (.dcbz rA rB) s = dcbzMapped s rA rB m := by
  rw [exec_dcbz hu hle, hm]
  rfl

/-- On a write-through or caching-inhibited mapping the alignment exception comes before protection (R781). -/
theorem dcbzMapped_wi {s : State} {rA rB : Reg} {m : Mapping} (hwi : m.wi = true) :
    dcbzMapped s rA rB m = takeAlignment s (encode (.dcbz rA rB)) false false (eaX s rA rB) := if_pos hwi

theorem dcbzMapped_denied {s : State} {rA rB : Reg} {m : Mapping} {e : AccessStop} (hwi : m.wi = false)
    (he : checkMapping (eaX s rA rB) true m = .error e) : dcbzMapped s rA rB m = e.outcome s := by
  rw [dcbzMapped, hwi, he]
  rfl

theorem dcbzMapped_allowed {s : State} {rA rB : Reg} {m : Mapping} {pa : Word} (hwi : m.wi = false)
    (hpa : checkMapping (eaX s rA rB) true m = .ok pa) : dcbzMapped s rA rB m = advance (zeroedBlock s pa) := by
  rw [dcbzMapped, hwi, hpa]
  rfl

/-- Where the mapping allows the store, dcbz stores 32 zero bytes and changes nothing else. -/
theorem zeroedBlock_stores {s : State} (hm : s.mem.wf = true) (pa ea : Word) :
    ∃ t, advance (zeroedBlock s pa) = .next t ∧ OnlyStore none ea s t ∧
      StoreEffect s 0 (blockPlaces pa) (List.replicate 32 0) t := by
  obtain ⟨t, ht, heff, honly⟩ := storeEffect_advance (base := none) (ea := ea) (zeroedBlock_effect hm pa)
    (zeroedBlock_tracks hm pa).frame (by simp [State.gprsUsable])
  exact ⟨t, ht, honly, heff⟩

/-- Settles O44: past its guards dcbz is `dcbzMapped`, by the W and I bits of the mapping and then by its protection. -/
theorem cacheBlockZero : Obligations.CacheBlockZero := by
  intro s rA rB hu hle hwf ea
  refine ⟨fun e he => exec_dcbz_unmapped hu hle he, fun m hm => ?_⟩
  rw [exec_dcbz_mapped hu hle hm]
  refine ⟨fun hwi => ?_, fun hwi e he => dcbzMapped_denied hwi he, fun hwi pa hpa => ?_⟩
  · rw [dcbzMapped_wi hwi]
    exact takeAlignment_dcbz s rA rB ea
  · rw [dcbzMapped_allowed hwi hpa]
    exact zeroedBlock_stores hwf pa ea

end Sys2Proof.Machine

end

section
/-!
SUPPORT. The exceptions family: the return from interrupt, what a stopped access saves, the timers, and the order of
recognition between instructions.
-/

/-!
rfi (O34; spec/60_exceptions.md R746, R757).
-/
namespace Sys2Proof.Machine

/-- The state `rfi` leaves before a floating-point exception it enables: the MSR restored, CIA at SRR0 (R746). -/
def interruptLeft (s : State) : State :=
  { s with msr := merge rfiMask s.srr1 s.msr &&& ~~~msrTGPR, cia := wordAlign s.srr0, windows := [] }

/-- FEX stands and FE0 or FE1 lets it through (R757). -/
theorem fpTrapEnabled_iff (msr fpscr : Word) :
    fpTrapEnabled msr fpscr = true ↔ msr &&& msrFE ≠ 0 ∧ ibmBit fpscr 1 = true := by
  rw [fpTrapEnabled, Bool.and_eq_true, bne_iff_ne]

/-- Where the new MSR enables a pending floating-point exception, the return ends in it, with the target saved. -/
theorem returnFromInterrupt_trap {s : State} (h : fpTrapEnabled (interruptLeft s).msr s.fpscr = true) :
    returnFromInterrupt s = takeException .program (wordAlign s.srr0) infoFpEnabled (interruptLeft s) := if_pos h

theorem exec_rfi_supervisor {s : State} (h : s.prView = false) : exec .rfi s = .next (returnFromInterrupt s) :=
  guardSupervisor_supervisor h

theorem exec_rfi_user {s : State} (h : s.prView = true) : exec .rfi s = raisePrivileged s := guardSupervisor_user h

/-- Settles O34: past its guard `rfi` is `returnFromInterrupt`, split by whether the restored MSR enables FEX. -/
theorem returnFromInterrupt_holds : Obligations.ReturnFromInterrupt := by
  intro s
  refine ⟨?_, exec_rfi_user⟩
  intro hpr msr target t
  have hleft : interruptLeft s = t := congrArg (fun a => { t with cia := a }) (wordAlign_eq s.srr0)
  rw [exec_rfi_supervisor hpr]
  refine ⟨fun hoff => ?_, fun hfe hfex => ?_⟩
  · have hnone : ¬fpTrapEnabled msr s.fpscr = true := by
      rw [fpTrapEnabled_iff, not_and_or, not_not, Bool.not_eq_true]
      exact hoff
    rw [returnFromInterrupt_plain s (eq_false_of_ne_true hnone)]
    exact congrArg _ hleft
  · have htrap : fpTrapEnabled (interruptLeft s).msr s.fpscr = true := (fpTrapEnabled_iff msr _).mpr ⟨hfe, hfex⟩
    rw [returnFromInterrupt_trap htrap, hleft, wordAlign_eq]
    rfl

end Sys2Proof.Machine

/-!
What a stopped access saves (O50; spec/60_exceptions.md R754, R766, R767).
-/
namespace Sys2Proof.Machine

/-- What SRR1 says of a data translation miss: never an instruction miss, a store by the exception it raises. -/
theorem missInfo_data (store key way : Bool) (cr : Word) :
    missInfo (if store then .dataStoreMiss else .dataLoadMiss) key way cr =
      (cr &&& 0xF0000000) ||| maskIf key 0x00080000 ||| maskIf false 0x00040000 ||| maskIf way 0x00020000 |||
        maskIf store 0x00010000 := by
  cases store <;> rfl

/-- Settles O50: each stop is one exception entry; the way a miss reports is the drawn one. -/
theorem storageExceptions : Obligations.StorageExceptions := by
  intro s ea prot direct store key one miss
  refine ⟨⟨_, rfl, rfl⟩, ⟨_, rfl, s.drawBit .missWay, ?_⟩, s.drawBit .missWay, rfl⟩
  unfold takeDataMiss
  dsimp only
  rw [missInfo_data]
  rfl

end Sys2Proof.Machine

/-!
The timers (O54; spec/60_exceptions.md R790 to R794).
-/
namespace Sys2Proof.Machine

/- The watchdog (R794). -/

/-- The tick carries out of the selected time-base bit while the watchdog is enabled. -/
def WatchdogDue (s : State) : Prop :=
  s.tcr.we = true ∧ s.tb.getLsbD (Config.wdtBit s.tcr.wp).val = true ∧
    (s.tb + 1).getLsbD (Config.wdtBit s.tcr.wp).val = false

theorem watchdogExpires_iff (wp : BitVec 2) (old new : BitVec 64) :
    watchdogExpires wp old new = true ↔
      old.getLsbD (Config.wdtBit wp).val = true ∧ new.getLsbD (Config.wdtBit wp).val = false := by
  rw [watchdogExpires, Bool.and_eq_true, Bool.not_eq_true']

section
variable {s : State}

theorem watchdogExpiry_disabled (h : s.tcr.we = false) : watchdogExpiry s = s := by
  rw [watchdogExpiry, h]
  rfl

theorem watchdogExpiry_first (he : s.tcr.we = true) (hs : s.tcr.ws = false) :
    watchdogExpiry s = { s with wdtPending := true, tcr := { s.tcr with ws := true } } := by
  rw [watchdogExpiry, he, hs]
  rfl

theorem watchdogExpiry_reset (he : s.tcr.we = true) (hs : s.tcr.ws = true) (hr : s.tcr.wrc = true) :
    watchdogExpiry s = { s with wdtResetPending := true } := by
  rw [watchdogExpiry, he, hs, hr]
  rfl

theorem watchdogExpiry_again (he : s.tcr.we = true) (hs : s.tcr.ws = true) (hr : s.tcr.wrc = false) :
    watchdogExpiry s = { s with wdtPending := true } := by
  rw [watchdogExpiry, he, hs, hr]
  rfl

end

/- The tick (R790, R791, R792). -/

/-- The time base one further, before the watchdog it feeds (R792). -/
def timeCounted (s : State) : State := { s with tb := s.tb + 1 }

theorem timeBaseRuns_iff (s : State) : timeBaseRuns s = true ↔ s.pins.tben = true ∧ s.power ≠ .sleep := by
  rw [timeBaseRuns, Bool.and_eq_true, bne_iff_ne]

/-- Since the decrementer counts in nap too, it runs wherever the time base does (log entry 6). -/
theorem decrementerRuns_eq (s : State) : decrementerRuns s = timeBaseRuns s := by
  rw [decrementerRuns, napDecTicks, Bool.or_true, Bool.and_true]

theorem timeBaseRuns_tickTimeBase (s : State) : timeBaseRuns (tickTimeBase s) = timeBaseRuns s := by
  rw [tickTimeBase_rest]
  rfl

theorem tick_stopped {s : State} (h : timeBaseRuns s = false) : tick s = s := by
  have hbase : tickTimeBase s = s := if_neg (ne_true_of_eq_false h)
  rw [tick, hbase, tickDecrementer, decrementerRuns_eq]
  exact if_neg (ne_true_of_eq_false h)

section
variable {s : State} (h : timeBaseRuns s = true)
include h

theorem tick_running : tick s = writeDec (tickTimeBase s) (s.dec - 1) := by
  have hdec : (tickTimeBase s).dec = s.dec := by rw [tickTimeBase_rest]
  rw [tick, tickDecrementer, decrementerRuns_eq, timeBaseRuns_tickTimeBase, if_pos h, hdec]

theorem tickTimeBase_due (hd : WatchdogDue s) : tickTimeBase s = watchdogExpiry (timeCounted s) := by
  obtain ⟨-, hcarry⟩ := hd
  rw [tickTimeBase, if_pos h]
  exact if_pos ((watchdogExpires_iff ..).mpr hcarry)

/-- A carry with the watchdog disabled counts like a tick without one. -/
theorem tickTimeBase_not_due (hd : ¬WatchdogDue s) : tickTimeBase s = timeCounted s := by
  rw [tickTimeBase, if_pos h]
  dsimp only
  split
  · next hcarry =>
    have hoff : s.tcr.we = false :=
      eq_false_of_ne_true fun he => hd ⟨he, (watchdogExpires_iff ..).mp hcarry⟩
    exact watchdogExpiry_disabled (s := timeCounted s) hoff
  · rfl

theorem tickTimeBase_tb : (tickTimeBase s).tb = s.tb + 1 := by
  by_cases hd : WatchdogDue s
  · rw [tickTimeBase_due h hd, watchdogExpiry_rest]
    rfl
  · rw [tickTimeBase_not_due h hd]
    rfl

end

/-- A count loaded into DEC latches the exception where bit 0 rises (R791). -/
theorem writeDec_decPending_iff (s : State) (v : Word) :
    (writeDec s v).decPending = true ↔ s.decPending = true ∨ (ibmBit s.dec 0 = false ∧ ibmBit v 0 = true) := by
  have hmsb (w : Word) : w.msb = ibmBit w 0 := BitVec.msb_eq_getLsbD_last w
  rw [writeDec, Bool.or_eq_true, Bool.and_eq_true, Bool.not_eq_true', hmsb, hmsb]

/-- Settles O54: a running tick writes DEC after the time base's part, which is the watchdog's expiry where it is due. -/
theorem timers : Obligations.Timers := by
  intro s counts t bit expires
  refine ⟨fun hstop => tick_stopped (eq_false_of_ne_true (mt (timeBaseRuns_iff s).mp hstop)), fun hrun => ?_⟩
  have h : timeBaseRuns s = true := (timeBaseRuns_iff s).mpr hrun
  have ht : t = writeDec (tickTimeBase s) (s.dec - 1) := tick_running h
  refine ⟨?_, ?_, ?_, fun hd => ?_, fun hd hws => ?_, fun hd hws => ⟨?_, fun hwrc => ?_, fun hwrc => ?_⟩, tick_rest s⟩
  · rw [ht]
    exact tickTimeBase_tb h
  · rw [ht]
    rfl
  · rw [ht, writeDec_decPending_iff, tickTimeBase_rest]
  · rw [ht, tickTimeBase_not_due h hd]
    exact ⟨rfl, rfl, rfl⟩
  · rw [ht, tickTimeBase_due h hd, watchdogExpiry_first (s := timeCounted s) hd.1 hws]
    exact ⟨rfl, rfl, rfl⟩
  · rw [ht, tickTimeBase_due h hd]
    cases hwrc : s.tcr.wrc with
    | false => rw [watchdogExpiry_again (s := timeCounted s) hd.1 hws hwrc]; rfl
    | true => rw [watchdogExpiry_reset (s := timeCounted s) hd.1 hws hwrc]; rfl
  · rw [ht, tickTimeBase_due h hd, watchdogExpiry_reset (s := timeCounted s) hd.1 hws hwrc]
    exact ⟨rfl, rfl⟩
  · rw [ht, tickTimeBase_due h hd, watchdogExpiry_again (s := timeCounted s) hd.1 hws hwrc]
    exact ⟨rfl, rfl⟩

end Sys2Proof.Machine

/-!
The boundary (O53; spec/60_exceptions.md R780, R782, R820).
-/
namespace Sys2Proof.Machine

/- A step by what its boundary comes to. -/

theorem step_of_ends {s t : State} (h : atBoundary (beginStep s) = .ends t) : step s = .next t := by
  rw [step, cycle, h]

theorem step_of_runs {s t : State} (h : atBoundary (beginStep s) = .runs t) : step s = runInstruction t := by
  rw [step, cycle, h]

/- The resets and the machine check. -/

theorem protectionOnly_hardReset (s : State) : protectionOnly (hardReset s) = false := by
  rw [protectionOnly, hid0View_settled (s := hardReset s) rfl]
  exact BitVec.getLsbD_zero

theorem machineCheck_taken {s : State} (h : ibmBit s.msr 19 = true) :
    machineCheck s = takeException .machineCheck s.cia 0 { s with mcheckPending := false } :=
  if_pos ((msrBit_ibmBit s (by decide) rfl).trans h)

theorem machineCheck_checkstop {s : State} (h : ibmBit s.msr 19 = false) :
    machineCheck s = { s with mcheckPending := false, checkstop := true } :=
  if_neg (ne_true_of_eq_false ((msrBit_ibmBit s (by decide) rfl).trans h))

/- What a boundary comes to, in the order of recognition (R780). -/

section
variable {s : State}

theorem atBoundary_hreset (h : s.pins.hreset = true) : atBoundary s = .ends (hardReset s) := if_pos h

theorem atBoundary_checkstop (hr : s.pins.hreset = false) (h : s.checkstop = true) : atBoundary s = .ends s := by
  rw [atBoundary, hr, h]
  rfl

/-- Neither hard reset nor checkstop: the core recognises conditions. -/
def Recognises (s : State) : Prop := s.pins.hreset = false ∧ s.checkstop = false

theorem atBoundary_mcheck (hq : Recognises s) (h : s.mcheckPending = true) : atBoundary s = .ends (machineCheck s) := by
  obtain ⟨hreset, hstop⟩ := hq
  rw [atBoundary, hreset, hstop, h]
  rfl

theorem atBoundary_sreset (hq : Recognises s) (hm : s.mcheckPending = false) (h : s.sresetPending = true) :
    atBoundary s = .ends (takeAsync .softReset { s with sresetPending := false }) := by
  obtain ⟨hreset, hstop⟩ := hq
  rw [atBoundary, hreset, hstop, hm, h]
  rfl

theorem atBoundary_wdtReset (hq : Recognises s) (hm : s.mcheckPending = false) (hs : s.sresetPending = false)
    (h : s.wdtResetPending = true) : atBoundary s = .ends (watchdogReset s) := by
  obtain ⟨hreset, hstop⟩ := hq
  rw [atBoundary, hreset, hstop, hm, hs, h]
  rfl

/-- No condition stands that comes before the maskable interrupts. -/
def OnlyMaskable (s : State) : Prop :=
  Recognises s ∧ s.mcheckPending = false ∧ s.sresetPending = false ∧ s.wdtResetPending = false

theorem atBoundary_interrupt (hc : OnlyMaskable s) {e : Exception} (h : pendingInterrupt s = some e) :
    atBoundary s = .ends (takeException e s.cia 0 s) := by
  obtain ⟨⟨hreset, hstop⟩, hm, hs, hw⟩ := hc
  rw [atBoundary, hreset, hstop, hm, hs, hw, h]
  rfl

theorem atBoundary_uninterrupted (hc : OnlyMaskable s) (h : pendingInterrupt s = none) :
    atBoundary s = if (takeable s).isEmpty then atInstruction { s with deferred := takeable s }
      else .runs { s with deferred := takeable s } := by
  obtain ⟨⟨hreset, hstop⟩, hm, hs, hw⟩ := hc
  rw [atBoundary, hreset, hstop, hm, hs, hw, h]
  rfl

theorem atBoundary_allPutOff (hc : OnlyMaskable s) (h : pendingInterrupt s = none) (ht : takeable s ≠ []) :
    atBoundary s = .runs { s with deferred := takeable s } :=
  (atBoundary_uninterrupted hc h).trans (if_neg (mt List.isEmpty_iff.mp ht))

theorem atBoundary_noneTakeable (hc : OnlyMaskable s) (ht : takeable s = []) :
    atBoundary s = atInstruction { s with deferred := [] } := by
  have hnone : pendingInterrupt s = none := by
    rw [pendingInterrupt, ht]
    rfl
  rw [atBoundary_uninterrupted hc hnone, ht]
  rfl

end

/- The maskable interrupts (R759 to R764, R782). -/

/-- The maskable interrupts in the order of recognition, each with its condition. -/
def maskableConditions (s : State) : List (Exception × Bool) :=
  [(.smi, s.pins.smi), (.external, s.pins.int), (.decrementer, s.decPending), (.watchdog, s.wdtPending)]

theorem takeable_eq (s : State) :
    takeable s = ((maskableConditions s).filter fun p => ibmBit s.msr 16 && p.2).map (·.1) := by
  have hconditions : maskableConditions s =
      [.smi, .external, .decrementer, .watchdog].map fun e => (e, interruptStands s e) := rfl
  rw [hconditions, List.filter_map, List.map_map, ← msrBit_ibmBit s (m := msrEE) (by decide) rfl, takeable]
  cases s.msrBit msrEE with
  | false => rfl
  | true => exact (List.map_id _).symm

/-- An interrupt is put off in full power only, and not twice in a row (R782). -/
theorem putOff_allowed {s : State} {e : Exception} (h : putOff s e = true) : s.power = .full ∧ e ∉ s.deferred := by
  rw [putOff, Bool.and_eq_true, Bool.and_eq_true, beq_iff_eq, Bool.not_eq_true', ← Bool.not_eq_true,
    List.contains_iff_mem] at h
  exact h.1

/-- The interrupt taken is the first that is not put off. -/
theorem pendingInterrupt_first {s : State} {e : Exception} (h : pendingInterrupt s = some e) :
    ∃ waiting rest, takeable s = waiting ++ e :: rest ∧ ∀ w ∈ waiting, s.power = .full ∧ w ∉ s.deferred := by
  obtain ⟨-, waiting, rest, hsplit, hwaiting⟩ := List.find?_eq_some_iff_append.mp h
  exact ⟨waiting, rest, hsplit, fun w hw => putOff_allowed (by simpa using hwaiting w hw)⟩

theorem pendingInterrupt_none {s : State} (h : pendingInterrupt s = none) :
    ∀ w ∈ takeable s, s.power = .full ∧ w ∉ s.deferred :=
  fun w hw => putOff_allowed (by simpa using List.find?_eq_none.mp h w hw)

/- The static modes (R801, R802). -/

theorem atInstruction_static {s : State} (h : s.power ≠ .full) : atInstruction s = .ends s := if_pos h

theorem atInstruction_runs {s : State} (h : s.power = .full) (hp : s.powPending = none) :
    atInstruction s = .runs s := by
  rw [atInstruction, if_neg (not_not_intro h), hp]

/-- A selected static mode is entered now or later (log entry 25). -/
theorem atInstruction_selected {s : State} {p : PowerState} (h : s.power = .full) (hp : s.powPending = some p) :
    atInstruction s = .runs s ∨ atInstruction s = .ends { s with power := p, powPending := none } := by
  rw [atInstruction, if_neg (not_not_intro h), hp]
  cases s.drawBit .powerEntry with
  | false => exact .inl rfl
  | true => exact .inr rfl

/-- Settles O53: one rule of `atBoundary` for each condition, in their order; past them the maskable interrupts, and then
`atInstruction`. -/
theorem boundaryOrder : Obligations.BoundaryOrder := by
  intro s u quiet calm conditions standing mayWait
  have hstanding : takeable u = standing := takeable_eq u
  refine ⟨fun hreset => ?_, fun hreset hstop => step_of_ends (atBoundary_checkstop hreset hstop), fun hq hm => ?_,
    fun hq hm hs => step_of_ends (atBoundary_sreset hq hm hs),
    fun hq hm hs hw => step_of_ends (atBoundary_wdtReset hq hm hs hw), fun hc hne => ?_, fun hc hnil => ?_⟩
  · exact ⟨hardReset u, step_of_ends (atBoundary_hreset hreset), rfl, rfl, rfl, rfl, rfl, rfl, rfl, rfl, rfl, rfl, rfl,
      protectionOnly_hardReset u, rfl, rfl⟩
  · have hstep : step s = .next (machineCheck u) := step_of_ends (atBoundary_mcheck hq hm)
    exact ⟨fun hme => hstep.trans (congrArg _ (machineCheck_taken hme)),
      fun hme => hstep.trans (congrArg _ (machineCheck_checkstop hme))⟩
  · rw [← hstanding] at hne ⊢
    cases hpending : pendingInterrupt u with
    | some e =>
      obtain ⟨waiting, rest, hsplit, hwaiting⟩ := pendingInterrupt_first hpending
      exact .inl ⟨waiting, e, rest, hsplit, hwaiting, step_of_ends (atBoundary_interrupt hc hpending)⟩
    | none => exact .inr ⟨pendingInterrupt_none hpending, step_of_runs (atBoundary_allPutOff hc hpending hne)⟩
  · intro v
    have hbound : atBoundary u = atInstruction v := atBoundary_noneTakeable hc (hstanding.trans hnil)
    refine ⟨fun hpower => step_of_ends (hbound.trans (atInstruction_static hpower)),
      fun hpower hnone => step_of_runs (hbound.trans (atInstruction_runs hpower hnone)), fun hpower p hp => ?_⟩
    exact (atInstruction_selected (s := v) hpower hp).imp (fun h => step_of_runs (hbound.trans h))
      fun h => step_of_ends (hbound.trans h)

end Sys2Proof.Machine

end

section
/-!
SUPPORT. The reset family: the state after reset (O58; spec/70_reset_and_hazards.md R830, R831).
-/
namespace Sys2Proof.Machine

/-- The state after reset is the one a hard reset of it leaves, so what holds of every hard reset holds of it (R830). -/
theorem hardReset_reset : hardReset State.reset = State.reset := rfl

theorem protectionOnly_reset : protectionOnly State.reset = false :=
  (congrArg protectionOnly hardReset_reset).symm.trans (protectionOnly_hardReset State.reset)

/-- Settles O58: the register values are fields of `State.reset`; protection-only mode is read through HID0's context and
comes from the rule of every hard reset, the invariant from `reset_inv`. -/
theorem resetState : Obligations.ResetState := by
  unfold Obligations.ResetState
  exact ⟨rfl, rfl, rfl, rfl, rfl, rfl, rfl, rfl, rfl, rfl, protectionOnly_reset, reset_inv⟩

end Sys2Proof.Machine

end
